-- ==== Sys2Proof/Word.lean ====
section
/-! DEFINITION. The words of the T840: bytes, 16-bit words and 32-bit timestamps (00_scope.md, Conventions), the names
of its four banks and eight cylinders, and the two fixed-size tables kept per bank and per cylinder. -/

namespace Sys2Proof

/-- A byte of the exchange memory. -/
abbrev Byte := BitVec 8
/-- A word of the bus port (R161) and of every register (R169). -/
abbrev Word := BitVec 16
/-- A timestamp: the 32-bit free-running tick count (00_scope.md, Timestamps). -/
abbrev Time := BitVec 32

/-- The four driver banks A to D, with indices 0 to 3. -/
inductive BankId where
  | a | b | c | d
  deriving DecidableEq, Repr

/-- The eight cylinders, numbered 1 to 8 by their index in the setup block. -/
inductive CylId where
  | c1 | c2 | c3 | c4 | c5 | c6 | c7 | c8
  deriving DecidableEq, Repr

/-- One thing per bank. -/
structure Four (α : Type) where
  a : α
  b : α
  c : α
  d : α
  deriving DecidableEq, Repr

/-- One thing per cylinder. -/
structure Eight (α : Type) where
  c1 : α
  c2 : α
  c3 : α
  c4 : α
  c5 : α
  c6 : α
  c7 : α
  c8 : α
  deriving DecidableEq, Repr

def BankId.all : List BankId := [.a, .b, .c, .d]

def CylId.all : List CylId := [.c1, .c2, .c3, .c4, .c5, .c6, .c7, .c8]

/-- The index of a bank, 0 to 3. -/
def BankId.index : BankId → Nat
  | .a => 0
  | .b => 1
  | .c => 2
  | .d => 3

/-- The bank with an index; a value above 3 names none, and LOAD lets none through (R149). -/
def BankId.fromIndex : Nat → Option BankId
  | 0 => some .a
  | 1 => some .b
  | 2 => some .c
  | 3 => some .d
  | _ => none

/-- The number of a cylinder, 1 to 8. -/
def CylId.number : CylId → Nat
  | .c1 => 1
  | .c2 => 2
  | .c3 => 3
  | .c4 => 4
  | .c5 => 5
  | .c6 => 6
  | .c7 => 7
  | .c8 => 8

/-- The cylinder with a number, if it is 1 to 8. -/
def CylId.fromNumber : Nat → Option CylId
  | 1 => some .c1
  | 2 => some .c2
  | 3 => some .c3
  | 4 => some .c4
  | 5 => some .c5
  | 6 => some .c6
  | 7 => some .c7
  | 8 => some .c8
  | _ => none

variable {α β : Type}

def Four.fill (x : α) : Four α := ⟨x, x, x, x⟩

def Four.get (t : Four α) : BankId → α
  | .a => t.a
  | .b => t.b
  | .c => t.c
  | .d => t.d

def Four.set (t : Four α) (i : BankId) (x : α) : Four α :=
  match i with
  | .a => { t with a := x }
  | .b => { t with b := x }
  | .c => { t with c := x }
  | .d => { t with d := x }

def Four.map (f : BankId → α → β) (t : Four α) : Four β :=
  ⟨f .a t.a, f .b t.b, f .c t.c, f .d t.d⟩

def Eight.fill (x : α) : Eight α := ⟨x, x, x, x, x, x, x, x⟩

def Eight.get (t : Eight α) : CylId → α
  | .c1 => t.c1
  | .c2 => t.c2
  | .c3 => t.c3
  | .c4 => t.c4
  | .c5 => t.c5
  | .c6 => t.c6
  | .c7 => t.c7
  | .c8 => t.c8

def Eight.set (t : Eight α) (i : CylId) (x : α) : Eight α :=
  match i with
  | .c1 => { t with c1 := x }
  | .c2 => { t with c2 := x }
  | .c3 => { t with c3 := x }
  | .c4 => { t with c4 := x }
  | .c5 => { t with c5 := x }
  | .c6 => { t with c6 := x }
  | .c7 => { t with c7 := x }
  | .c8 => { t with c8 := x }

def Eight.map (f : CylId → α → β) (t : Eight α) : Eight β :=
  ⟨f .c1 t.c1, f .c2 t.c2, f .c3 t.c3, f .c4 t.c4, f .c5 t.c5, f .c6 t.c6, f .c7 t.c7, f .c8 t.c8⟩

end Sys2Proof
end

