-- ==== Sys2Proof/Config.lean ====
section
/-! DEFINITION. What the manual leaves open (00_scope.md to 12_signals_and_ratings.md), as constants with no body:
nothing can be proved of one of their values, so a claim proved of the model holds for every value. Each is named in
a row of notes/assumptions/. -/

namespace Sys2Proof

/-- The data a byte of the exchange memory holds after the `epoch`-th power-on reset, until it is first written: "leaves
the exchange memory contents and their parity undefined" (R145). A free value (DESIGN CHOICE, assumption 8). -/
opaque Config.powerOnByte (epoch address : Nat) : Byte

/-- Whether that byte's undefined parity bit (R145, R166) makes it read as a parity error. A free value (DESIGN CHOICE,
assumption 8). -/
opaque Config.powerOnParityBad (epoch address : Nat) : Bool

/-- How many further words of its reading a LOAD in progress has made when a host memory write is taken during LOADING
(R147: the write is seen when it is taken before that word's read, and "either may be taken first"). A free value (DESIGN CHOICE,
assumption 9). -/
opaque Config.loadReads (n : Nat) : Nat

/-- When the short report and another end of a phase both stand at one phase entry, whether the short report is taken
first (R112: "Either may be taken first"). A free value (DESIGN CHOICE, assumption 10). -/
opaque Config.shortTakenFirst (n : Nat) : Bool

/-- The offset reported for a profile whose eight entries are all rise or FREEWHEEL phases, so that no HOLD is found
(R150 lists no row for it). A free value (DESIGN CHOICE, assumption 11). -/
opaque Config.noHoldOffset (profile : Nat) : Word

end Sys2Proof
end

