-- ==== Sys2Proof/Syntax.lean ====
section
/-! DEFINITION. The commands of the T840: one constructor for each row of spec/opcode_table.json. The table gives its
rows no fields, so the operands are the ones the cited rule needs: the tick count and the edge of an arrival, what the
sense lines show, the bank of a timer, the argument of a request, the address and word of an access (DESIGN CHOICE, assumption 1). -/

namespace Sys2Proof

/-- The two directions of an edge on CRANK or MARKER; a polarity byte selects one by its bit 0 (R171). -/
inductive Edge where
  | rising | falling
  deriving DecidableEq, Repr

/-- What the sense stage of one bank shows at an instant (R104, R188): the injector current in whole codes of 0.125 A
(255 stands for 255 codes and more), from which its three comparators are read, and the level of BOOST_OK (DESIGN CHOICE, assumption 6). -/
structure BankSense where
  current : Byte
  boostOk : Bool
  deriving DecidableEq, Repr

/-- What can arrive at the part while a command's own accesses of the exchange memory are made (R163, R144, R173): a host
write or read of the word at a word address, a write of REQUEST with code SOFT_RESET, or the assertion of RESET_N. -/
inductive Meanwhile where
  | hostWrite (addr : BitVec 13) (data : Word)
  | hostRead (addr : BitVec 13)
  | softReset (arg : Byte) (top : BitVec 4)
  | pinReset
  deriving DecidableEq, Repr

/-- An arrival: what comes, and how many accesses of the part are served between the arrival before it, or the command's
start, and it. It is served before the part's next access (R163). -/
structure Arrival where
  after : Nat
  what : Meanwhile
  deriving DecidableEq, Repr

/-- The commands. A command that makes accesses of the exchange memory carries in `during` what arrives while it makes them
(R163; DESIGN CHOICE, assumption 13), by default nothing; what the command leaves unserved is taken, in its order, when the
command has ended.
A request carries the two parts of the REQUEST word beside its code: the argument (bits 11..4) and
the top four bits, stored and ignored (R128). -/
inductive Instr where
  /-- A crank edge arrives at tick `t`; `sense` is what the four sense stages show then. -/
  | crankEdge (edge : Edge) (t : Time) (sense : Four BankSense) (during : List Arrival := [])
  /-- A marker edge arrives at tick `t`. -/
  | markerEdge (edge : Edge) (t : Time) (during : List Arrival := [])
  /-- The stall timer expires. -/
  | stall (during : List Arrival := [])
  /-- The start time of the first pulse of the armed set expires. -/
  | startExpiry (sense : BankSense) (during : List Arrival := [])
  /-- The slip deadline of the waiting pulse `seq`, `entry` of a bank expires. -/
  | slipDeadlineExpiry (bank : BankId) (seq : Word) (entry : BitVec 3) (sense : BankSense) (during : List Arrival := [])
  | headTimerExpiry (bank : BankId) (sense : BankSense) (during : List Arrival := [])
  | settleExpiry (bank : BankId) (during : List Arrival := [])
  | capExpiry (bank : BankId) (sense : BankSense) (during : List Arrival := [])
  | durationExpiry (bank : BankId) (sense : BankSense) (during : List Arrival := [])
  | riseLimitExpiry (bank : BankId) (sense : BankSense) (during : List Arrival := [])
  | freewheelExpiry (bank : BankId) (sense : BankSense) (during : List Arrival := [])
  /-- The upper comparator input of a bank changes at tick `t`, to what `sense` shows against the upper code. -/
  | upperInputChange (bank : BankId) (t : Time) (sense : BankSense) (during : List Arrival := [])
  | lowerInputChange (bank : BankId) (t : Time) (sense : BankSense) (during : List Arrival := [])
  | shortInputChange (bank : BankId) (t : Time) (sense : BankSense) (during : List Arrival := [])
  | quenchExpiry (bank : BankId) (sense : BankSense) (during : List Arrival := [])
  | load (arg : Byte) (top : BitVec 4) (during : List Arrival := [])
  | loadComplete (during : List Arrival := [])
  | loadFail (during : List Arrival := [])
  | run (arg : Byte) (top : BitVec 4) (during : List Arrival := [])
  | stop (arg : Byte) (top : BitVec 4) (t : Time) (sense : Four BankSense) (during : List Arrival := [])
  | inhibit (arg : Byte) (top : BitVec 4)
  | release (arg : Byte) (top : BitVec 4) (during : List Arrival := [])
  | service (arg : Byte) (top : BitVec 4) (t : Time) (sense : BankSense) (during : List Arrival := [])
  | softReset (arg : Byte) (top : BitVec 4)
  | paritySense (arg : Byte) (top : BitVec 4)
  /-- A REQUEST write whose code is 0 or 9..15. -/
  | undefinedRequest (code : BitVec 4) (arg : Byte) (top : BitVec 4)
  | eventRead
  | eventMaskWrite (mask : Word)
  /-- A write of register word `reg`, one of IDENT, STATUS, EVENT, EVENT_RAW, 6 and 7. -/
  | registerWriteIgnored (reg : BitVec 3) (data : Word)
  /-- A host write of the word at word address `addr`. -/
  | hostMemoryWrite (addr : BitVec 13) (data : Word)
  | hostMemoryRead (addr : BitVec 13)
  | powerOnReset
  | powerOnResetEnd
  | pinReset
  | pinResetRelease
  deriving DecidableEq, Repr

end Sys2Proof
end

