-- ==== Sys2Proof/WellFormed.lean ====
section
/-! DEFINITION. Which commands are well formed: an operand that selects something names something there is. -/

namespace Sys2Proof

/-- The codes that have no request (R128): 0 and 9..15. -/
def undefinedCode (code : BitVec 4) : Bool := code == 0 || decide (9 ≤ code.toNat)

/-- The register words whose writes are taken and discarded (R169): all but REQUEST (2) and EVENT_MASK (5). -/
def ignoredRegister (reg : BitVec 3) : Bool := reg != 2 && reg != 5

/-- An UNDEFINED_REQUEST has a code that no request has; an ignored register write names neither REQUEST nor
EVENT_MASK; a waiting pulse's entry index is 0..4. Every other operand may hold any value. -/
def Instr.wf : Instr → Bool
  | .slipDeadlineExpiry _ _ entry _ _ => decide (entry.toNat < 5)
  | .undefinedRequest code _ _ => undefinedCode code
  | .registerWriteIgnored reg _ => ignoredRegister reg
  | .crankEdge _ _ _ _ => true
  | .markerEdge _ _ _ => true
  | .stall _ => true
  | .startExpiry _ _ => true
  | .headTimerExpiry _ _ _ => true
  | .settleExpiry _ _ => true
  | .capExpiry _ _ _ => true
  | .durationExpiry _ _ _ => true
  | .riseLimitExpiry _ _ _ => true
  | .freewheelExpiry _ _ _ => true
  | .upperInputChange _ _ _ _ => true
  | .lowerInputChange _ _ _ _ => true
  | .shortInputChange _ _ _ _ => true
  | .quenchExpiry _ _ _ => true
  | .load _ _ _ => true
  | .loadComplete _ => true
  | .loadFail _ => true
  | .run _ _ _ => true
  | .stop _ _ _ _ _ => true
  | .inhibit _ _ => true
  | .release _ _ _ => true
  | .service _ _ _ _ _ => true
  | .softReset _ _ => true
  | .paritySense _ _ => true
  | .eventRead => true
  | .eventMaskWrite _ => true
  | .hostMemoryWrite _ _ => true
  | .hostMemoryRead _ => true
  | .powerOnReset => true
  | .powerOnResetEnd => true
  | .pinReset => true
  | .pinResetRelease => true

end Sys2Proof
end

