-- ==== Sys2Proof/Decode.lean ====
section
/-! DEFINITION. The host's table decoder. The T840 has no instruction words: none of the 35 rows of
spec/opcode_table.json has a fixed pattern or a field, so no word spells a command. How a write of the REQUEST register
becomes a command (R128) is in Machine/BusPort.lean. -/

namespace Sys2Proof

/-- The command a table word spells: none, because the table gives no row any bits. -/
def decodeTableWord (_nbits _w : Nat) : Option Instr := none

end Sys2Proof
end

