-- ==== Sys2Proof/Machine/State.lean ====
section
/-! DEFINITION. The state of the T840 as plain data: every item that the "state" tables of spec/ name, the pins, the
exchange memory, and the queue of commands that wait. Each structure's docstring cites the table or rule it holds. -/

namespace Sys2Proof.Machine

/-- Nothing the T840 is told to do stops it: every command of the table has an effect, or none, that the manual
states. The type is closed and empty; no meaning answers with a fault. -/
inductive Fault where
  deriving DecidableEq, Repr

/-- The reasons a command has no meaning in the model. -/
inductive Refusal where
  /-- Raised by an arm of exec for a command not modelled yet. Safe: the model stops. No arm raises it now. -/
  | notModelled (mnemonic : String)
  deriving DecidableEq, Repr

/-! ## Plans, events and pulses -/

/-- KIND of a used pulse entry (R36). -/
inductive Kind where
  | pilot | main | post
  deriving DecidableEq, Repr

/-- A used pulse entry of a plan: a record's (R36), a held plan's (R50) or the limp plan's (R55). REL_ANGLE is in steps
before (negative) or after TDC; DURATION is in ticks. -/
structure PulseEntry where
  index : Nat
  kind : Kind
  profile : Nat
  relAngle : Int
  duration : Nat
  deriving DecidableEq, Repr

/-- The pulse outcomes 1 to 13 (02, Outcome codes and flags). -/
inductive PulseOutcome where
  | fired | truncated | capped | openFault | shortFault | missedAngle | slipDrop | capDrop | syncDrop | stopDrop
  | abortDrop | quarantineDrop | overrunDrop
  deriving DecidableEq, Repr

/-- The event outcomes 1 to 9 (02, Outcome codes and flags). -/
inductive EventOutcome where
  | complete | partlyFired | noneFired | aborted | stale | invalid | parity | cutOverspeed | quarantined
  deriving DecidableEq, Repr

/-- LAST_SOURCE and the fuel level (03, Per-cylinder fallback state): PLAN, HELD, LIMP, NONE. -/
inductive Source where
  | plan | held | limp | noFuel
  deriving DecidableEq, Repr

/-- The conditions of a used pulse (R41). -/
inductive PulseCond where
  | pending | armed | waiting | active | quench | resolved
  deriving DecidableEq, Repr

/-- A pulse of an event (R40). `startAngle`, `slip`, `driven` and `peak` are its results (R47). -/
structure Pulse where
  plan : PulseEntry
  cond : PulseCond
  start : Option Time
  outcome : Option PulseOutcome
  late : Bool
  boostLow : Bool
  crowded : Bool
  startAngle : Int
  slip : Nat
  driven : Nat
  peak : Nat
  deriving DecidableEq, Repr

/-- The trim snapshot of an event (R28 step 3, R40). -/
structure Snapshot where
  armWindow : Nat
  slipPilot : Nat
  slipMain : Nat
  slipPost : Nat
  driveMax : Nat
  deriving DecidableEq, Repr

/-- An event of the event table (R40). `drive` is its cumulative drive in ticks (R96). -/
structure Event where
  seq : Word
  source : Source
  record : Option Nat
  notify : Bool
  target : Word
  dry : Bool
  snap : Snapshot
  drive : Nat
  pulses : List Pulse
  deriving DecidableEq, Repr

/-- What the part keeps per cylinder: the next-event entry (R25), the event table's place (R40), the fallback state
(03, table; R49), the cylinder table (06, table; R121) and the owner's values of the cylinder status entry (R182). -/
structure Cylinder where
  nextEvent : Option Word
  event : Option Event
  held : Option (List PulseEntry)
  holdCount : Nat
  fuel : Source
  quarantined : Bool
  faults : Nat
  faultTotal : Word
  misses : Word
  lastSource : Source
  lastOutcome : Option EventOutcome
  lastSeq : Word
  deriving DecidableEq, Repr

/-- An entry of the pending list or the armed set (R62), but for the armed start. -/
structure ArmEntry where
  seq : Word
  cyl : CylId
  index : Nat
  kind : Kind
  target : Word
  offset : Int
  window : Nat
  slipLimit : Nat
  lead : Nat
  deriving DecidableEq, Repr

/-- An entry of the armed set (R62): a pulse with its committed start. -/
structure ArmedEntry where
  entry : ArmEntry
  start : Time
  deriving DecidableEq, Repr

/-- The arming unit (R62). -/
structure Arming where
  pendingList : List ArmEntry
  armedSet : List ArmedEntry
  deriving DecidableEq, Repr

/-! ## Banks and drive channels -/

/-- A bank request (R74) as the wait list keeps it (R87), with its deadline (R91) and the MIN_DWELL and RECHARGE_GUARD
of its request (R85). -/
structure Request where
  seq : Word
  index : Nat
  cyl : CylId
  kind : Kind
  start : Time
  deadline : Time
  boost : Bool
  minDwell : Nat
  recharge : Nat
  profile : Nat
  duration : Nat
  late : Bool
  dry : Bool
  deriving DecidableEq, Repr

/-- For whom a bank is held: a pulse of an event, or the service pulse (R81, R102). -/
inductive Job where
  | event (seq : Word) (index : Nat) (kind : Kind) (dry : Bool)
  | service (profile : Nat)
  deriving DecidableEq, Repr

/-- The holder of a bank (R81). -/
structure Holder where
  job : Job
  cyl : CylId
  grantedAt : Time
  deriving DecidableEq, Repr

/-- A rise or FREEWHEEL phase of a profile (06, Profiles): level in current codes, limit or time in ticks. -/
inductive Ramp where
  | boostRise (level limit : Nat)
  | batteryRise (level limit : Nat)
  | freewheel (time : Nat)
  deriving DecidableEq, Repr

/-- A profile that LOAD accepted (R150): up to six rise or FREEWHEEL phases and the HOLD that ends them. -/
structure Profile where
  ramps : List Ramp
  holdUpper : Nat
  holdLower : Nat
  deriving DecidableEq, Repr

/-- The condition of a drive channel that plays a pulse (R103, R104). A BOOST_RISE keeps which gate drives it; HOLD keeps
CHARGE or DECAY. IDLE is a channel with no player. -/
inductive ChannelCond where
  | boostRise (onBoost : Bool) (level : Nat)
  | batteryRise (level : Nat)
  | freewheel
  | hold (charging : Bool)
  | quench
  deriving DecidableEq, Repr

/-- What is fixed at a played pulse's end (R113 step 2). -/
structure PulseResult where
  outcome : PulseOutcome
  driven : Nat
  peak : Nat
  boostLow : Bool
  deriving DecidableEq, Repr

/-- The player of a drive channel (06, The channel and its player). -/
structure Player where
  cond : ChannelCond
  job : Job
  cyl : CylId
  profile : Profile
  phase : Nat
  shortLevel : Nat
  quenchLevel : Nat
  quenchMax : Nat
  grantedAt : Time
  durationAt : Time
  phaseTimer : Option Time
  quenchAt : Option Time
  peak : Option Nat
  boostLow : Bool
  result : Option PulseResult
  deriving DecidableEq, Repr

/-- The states of a bank (R82). -/
inductive BankMode where
  | idle | active | quench | settling
  deriving DecidableEq, Repr

/-- A bank arbiter (R81) with the drive channel of the bank. `dryEndAt` is the DURATION expiry that the arbiter keeps for
a dry holder (R98). The two counts are the owners' values of the bank status entry (R182). -/
structure Bank where
  mode : BankMode
  holder : Option Holder
  waiting : List Request
  releaseAt : Option Time
  boostEnd : Option Time
  settleAt : Option Time
  capAt : Option Time
  headAt : Option Time
  dryEndAt : Option Time
  channel : Option Player
  conflicts : Word
  boostLowCount : Word
  deriving DecidableEq, Repr

/-! ## Position tracker -/

/-- The sync states. -/
inductive Sync where
  | noSignal | gapSearch | gapCheck | crankSync | phased
  deriving DecidableEq, Repr

/-- The position tracker (01, Tracker state). `reacquire` says that the next firing edge is a re-acquiring edge (R24; assumption 16). The
three counts are the owner's values of the status block counters (R182). -/
structure Tracker where
  sync : Sync
  tooth : Nat
  rev : Bool
  cycle : Word
  lastTime : Option Time
  lastAngle : Nat
  lastInterval : Option Nat
  tLast : Option Nat
  tPrev : Option Nat
  tPred : Nat
  phaseAssumed : Bool
  errorRun : Nat
  markerSeen : Bool
  overspeedCut : Bool
  stallAt : Option Time
  reacquire : Bool
  noiseEdges : Word
  markerErrors : Word
  syncLosses : Word
  deriving DecidableEq, Repr

/-! ## Setup and trim -/

/-- A configured cylinder of the setup copy. -/
structure CylSetup where
  tdc : Nat
  bank : BankId
  lead : Nat
  deriving DecidableEq, Repr

/-- A bank's parameters of the setup copy. -/
structure BankSetup where
  shortLevel : Nat
  quenchLevel : Nat
  quenchMax : Nat
  deriving DecidableEq, Repr

/-- The setup copy and the profile copy made at LOAD (R152, R154). STALL_TIME is kept in ticks. The limp plan holds its
used entries, or is absent when disabled. -/
structure Setup where
  n : Nat
  m : Nat
  wheelOffset : Nat
  gapRatio : Nat
  crankEdge : Edge
  stallTicks : Nat
  markerLo : Nat
  markerHi : Nat
  markerEdge : Edge
  phaseAssume : Bool
  cylCount : Nat
  faultLimit : Nat
  ringLen : Nat
  limp : Option (List PulseEntry)
  cyls : Eight CylSetup
  banks : Four BankSetup
  profiles : List Profile
  deriving DecidableEq, Repr

/-- The fourteen trim fields (08, Trim sets). -/
structure Trim where
  latchAdvance : Nat
  armWindow : Nat
  slipPilot : Nat
  slipMain : Nat
  slipPost : Nat
  driveMax : Nat
  minDwell : Nat
  rechargeGuard : Nat
  overspeedPeriod : Nat
  overspeedHyst : Nat
  holdLimit : Nat
  planLowAhead : Nat
  predictMode : Nat
  serviceDuration : Nat
  deriving DecidableEq, Repr

/-- Slot in force (08, Setup unit state). -/
inductive Slot where
  | slot0 | slot1 | default
  deriving DecidableEq, Repr

/-- A byte of the staging copy: its value, and whether it was read with a parity error (R147). -/
structure StagedByte where
  value : Byte
  bad : Bool
  deriving DecidableEq, Repr

/-- The setup error code and the byte offset it reports (R151). -/
structure SetupError where
  code : Nat
  offset : Word
  deriving DecidableEq, Repr

/-- The setup unit (08, Setup unit state). -/
structure SetupUnit where
  setup : Option Setup
  staging : List StagedByte
  trim : Trim
  slot : Slot
  clampMask : Word
  error : SetupError
  deriving DecidableEq, Repr

/-! ## Run controller, event unit, pins, memory -/

inductive RunState where
  | stopped | loading | ready | running | stopping
  deriving DecidableEq, Repr

inductive StopMode where
  | none | cycle | event | cut
  deriving DecidableEq, Repr

inductive RequestResult where
  | none | accepted | refused
  deriving DecidableEq, Repr

inductive ResetCause where
  | power | pin | soft
  deriving DecidableEq, Repr

/-- The run controller (R127). `evenParity` is the parity sense. -/
structure Control where
  run : RunState
  stopMode : StopMode
  inhibit : Bool
  evenParity : Bool
  lastResult : RequestResult
  resetCause : ResetCause
  request : Word
  deriving DecidableEq, Repr

/-- The event unit (10, The event unit): the sticky raw flags and the mask. The two level flags are no bits of `sticky`:
they equal their conditions (R177). -/
structure EventUnit where
  sticky : Word
  mask : Word
  deriving DecidableEq, Repr

/-- The event latch's own items (R25, R26, R39, R48). `entriesUnset` says that no firing edge has been taken since the run
state became RUNNING (R26). -/
structure Latch where
  takePos : Nat
  nextSeq : Word
  planLow : Bool
  entriesUnset : Bool
  deriving DecidableEq, Repr

/-- The service entry's owner's values (R123, R125): its five words. -/
structure ServiceEntry where
  cylWord : Word
  flags : Word
  driven : Word
  peak : Word
  outcome : Word
  deriving DecidableEq, Repr

/-- Whether the status block is live (R181), and the owner's values of the fields no other block keeps. -/
structure StatusOwner where
  live : Bool
  lastParityAddr : Word
  service : ServiceEntry
  deriving DecidableEq, Repr

/-- The pins (12): whether a power-on reset is in progress, whether RESET_N is asserted, what the sense lines last showed,
and the word the port last drove on the data lines. -/
structure Pins where
  powerOn : Bool
  resetN : Bool
  sense : Four BankSense
  busData : Word
  deriving DecidableEq, Repr

/-- The reading of a LOAD in progress as the arbiter meets it inside a command of another cause (R147). The model's own
(assumption 9): the staging copy, the free value that the next host write consults, and how many have been consulted. -/
structure Reading where
  staging : List StagedByte
  base : Nat
  used : Nat
  deriving DecidableEq, Repr

/-- The word arbiter's dealings with the port while a command's own accesses are made (R163). The model's own, present only
inside a command (assumption 13): what is still to arrive, whether a reset has come, the parity sense, whether the status block is
live, the reading of a LOAD in progress, the word the latest host read returned, and what its check found (R168). -/
structure Port where
  arrivals : List Arrival
  stopped : Bool
  even : Bool
  live : Bool
  reading : Option Reading
  data : Option Word
  parityError : Bool
  parityAddr : Option Word
  deriving DecidableEq, Repr

/-- The exchange memory (R166): the bytes written since the `epoch`-th power-on reset, addresses strictly rising, and the
addresses among them whose byte is stored with even parity, strictly rising. An unlisted byte reads as the free value
`Config.powerOnByte epoch address` (assumption 8). `port` is none between commands. -/
structure Memory where
  epoch : Nat
  bytes : List Host.Cell
  even : List Nat
  port : Option Port
  deriving DecidableEq, Repr

/-- The state of the part and the queue of commands that wait, first in, first out. `freeCount` is the model's own: the
number of free values consulted so far (DESIGN CHOICE, assumption 12). -/
structure State where
  pending : List Instr
  now : Time
  pins : Pins
  ctl : Control
  ev : EventUnit
  su : SetupUnit
  trk : Tracker
  latch : Latch
  cyls : Eight Cylinder
  arm : Arming
  banks : Four Bank
  faultLimit : Nat
  sb : StatusOwner
  mem : Memory
  freeCount : Nat
  deriving DecidableEq, Repr

/-! ## Reset values -/

/-- R2: the tracker after every reset, and at LOAD completion. -/
def Tracker.reset : Tracker where
  sync := .noSignal
  tooth := 0
  rev := false
  cycle := 0
  lastTime := none
  lastAngle := 0
  lastInterval := none
  tLast := none
  tPrev := none
  tPred := 0
  phaseAssumed := false
  errorRun := 0
  markerSeen := false
  overspeedCut := false
  stallAt := none
  reacquire := true
  noiseEdges := 0
  markerErrors := 0
  syncLosses := 0

/-- R25, R40, R49, R121, R182: a cylinder after every reset, and at LOAD completion. -/
def Cylinder.reset : Cylinder where
  nextEvent := none
  event := none
  held := none
  holdCount := 0
  fuel := .plan
  quarantined := false
  faults := 0
  faultTotal := 0
  misses := 0
  lastSource := .plan
  lastOutcome := none
  lastSeq := 0

/-- R81, R105: a bank and its channel after every reset. -/
def Bank.reset : Bank where
  mode := .idle
  holder := none
  waiting := []
  releaseAt := none
  boostEnd := none
  settleAt := none
  capAt := none
  headAt := none
  dryEndAt := none
  channel := none
  conflicts := 0
  boostLowCount := 0

/-- R39, R48: the event latch after every reset, and at LOAD completion. -/
def Latch.reset : Latch where
  takePos := 0
  nextSeq := 0
  planLow := false
  entriesUnset := false

/-- The default trim set (08, Trim sets). -/
def Trim.default : Trim where
  latchAdvance := 1920
  armWindow := 192
  slipPilot := 1000
  slipMain := 2000
  slipPost := 4000
  driveMax := 30000
  minDwell := 400
  rechargeGuard := 1500
  overspeedPeriod := 0
  overspeedHyst := 0
  holdLimit := 2
  planLowAhead := 4
  predictMode := 0
  serviceDuration := 5000

/-- R146: the setup unit after every reset. -/
def SetupUnit.reset : SetupUnit where
  setup := none
  staging := []
  trim := .default
  slot := .default
  clampMask := 0
  error := ⟨0, 0⟩

/-- R127: the run controller after a reset with a cause. -/
def Control.reset (cause : ResetCause) : Control where
  run := .stopped
  stopMode := .none
  inhibit := false
  evenParity := false
  lastResult := .none
  resetCause := cause
  request := 0

def ServiceEntry.zero : ServiceEntry := ⟨0, 0, 0, 0, 0⟩

/-- R143, R181: the status block's owner after a reset: not live. -/
def StatusOwner.reset : StatusOwner where
  live := false
  lastParityAddr := 0xFFFF
  service := .zero

/-- The sense lines of a bank whose injector carries no current and whose boost supply is not charged (DESIGN CHOICE,
assumption 19). -/
def restSense : BankSense := ⟨0, false⟩

/-- The part right after a power-on reset has ended with RESET_N released (R143, R145): STOPPED, cause POWER, the tick
count at 0 (R189), memory with nothing listed (DESIGN CHOICE, assumptions 18 and 19). -/
def State.reset : State where
  pending := []
  now := 0
  pins := ⟨false, false, .fill restSense, 0⟩
  ctl := .reset .power
  ev := ⟨0, 0⟩
  su := .reset
  trk := .reset
  latch := .reset
  cyls := .fill .reset
  arm := ⟨[], []⟩
  banks := .fill .reset
  faultLimit := 0
  sb := .reset
  mem := ⟨0, [], [], none⟩
  freeCount := 0

end Sys2Proof.Machine
end

