-- ==== Sys2Proof/Machine/Memory.lean ====
section
/-! DEFINITION. The exchange memory (09): bytes with a parity bit each, read and written by whole words (R163, R165). The
byte offsets are 0x0000 to 0x2FFF (09, The memory map). -/

namespace Sys2Proof.Machine

/-- The number of bytes of the exchange memory: 12 KiB. -/
def memBytes : Nat := 0x3000

/-- The listed byte at an address, if it has been written since the latest power-on reset. -/
def findByte (a : Nat) : List Host.Cell → Option Byte
  | [] => none
  | (b, v) :: rest => if a = b then some v else findByte a rest

/-- Lists a byte at an address, keeping the addresses strictly rising. -/
def putByte (a : Nat) (v : Byte) : List Host.Cell → List Host.Cell
  | [] => [(a, v)]
  | (b, w) :: rest =>
    if a < b then (a, v) :: (b, w) :: rest
    else if a = b then (a, v) :: rest
    else (b, w) :: putByte a v rest

/-- Adds an address to a strictly rising list. -/
def addAddr (a : Nat) : List Nat → List Nat
  | [] => [a]
  | b :: rest => if a < b then a :: b :: rest else if a = b then b :: rest else b :: addAddr a rest

/-- The byte at an offset. An unlisted byte of the memory reads as the undefined contents that the latest power-on reset
left (R145); there is no byte at 0x3000 and above, which reads 0 (R162). -/
def Memory.readByte (m : Memory) (a : Nat) : Byte :=
  if a < memBytes then (findByte a m.bytes).getD (Config.powerOnByte m.epoch a) else 0

/-- Whether reading the byte shows a parity error: its stored parity is even (R167). Offsets of 0x3000 and above are not
checked (R168). -/
def Memory.byteBad (m : Memory) (a : Nat) : Bool :=
  if a < memBytes then
    match findByte a m.bytes with
    | some _ => m.even.contains a
    | none => Config.powerOnParityBad m.epoch a
  else false

/-- Stores a byte with odd parity, or with even parity when `even` (R166). -/
def Memory.writeByte (m : Memory) (a : Nat) (v : Byte) (even : Bool) : Memory :=
  if a < memBytes then
    { m with bytes := putByte a v m.bytes, even := if even then addAddr a m.even else m.even.filter (· != a) }
  else m

/-- The word at an even offset, little-endian (R161). -/
def Memory.readWord (m : Memory) (off : Nat) : Word := m.readByte (off + 1) ++ m.readByte off

/-- Whether either byte of the word shows a parity error (R167). -/
def Memory.wordBad (m : Memory) (off : Nat) : Bool := m.byteBad off || m.byteBad (off + 1)

/-- Stores a word: both bytes with their parity (R163, R166). -/
def Memory.writeWord (m : Memory) (off : Nat) (w : Word) (even : Bool) : Memory :=
  (m.writeByte off (w.extractLsb' 0 8) even).writeByte (off + 1) (w.extractLsb' 8 8) even

/-- The byte offset reported for a bad word: the even one when both bytes are bad (R168). -/
def Memory.badOffset (m : Memory) (off : Nat) : Nat := if m.byteBad off then off else off + 1

/-! ## The reading of a LOAD -/

/-- The byte offset of the `i`-th word a LOAD reads: 128 setup words, then the profile table (R147). -/
def stagedOffset (i : Nat) : Nat := if i < 128 then 2 * i else 0x0300 + 2 * (i - 128)

def stageByte (m : Memory) (a : Nat) : StagedByte := ⟨m.readByte a, m.byteBad a⟩

/-- The bytes of `n` words read from the `i`-th on. -/
def stageWords (m : Memory) : Nat → Nat → List StagedByte
  | 0, _ => []
  | n + 1, i => stageByte m (stagedOffset i) :: stageByte m (stagedOffset i + 1) :: stageWords m n (i + 1)

/-- How many profile words the reading has: 16 for each profile that the PROFILE_COUNT byte just read names, none when it
read with a parity error or lies outside 1..8 (R147). -/
def profileWords (st : List StagedByte) : Nat :=
  match st[0x0F]? with
  | some c => if !c.bad && decide (1 ≤ c.value.toNat) && decide (c.value.toNat ≤ 8) then 16 * c.value.toNat else 0
  | none => 0

/-- The staging copy after up to `n` further words have been read. -/
def stageMore (m : Memory) (n : Nat) (st : List StagedByte) : List StagedByte :=
  let done := st.length / 2
  let first := min n (128 - done)
  let st1 := st ++ stageWords m first done
  let done1 := done + first
  if done1 < 128 then st1
  else st1 ++ stageWords m (min (n - first) (128 + profileWords st1 - done1)) done1

/-- A host write taken during LOADING may fall anywhere in the reading (R147): a free number of further words is read before
it. -/
def Reading.advance (m : Memory) (r : Reading) : Reading :=
  ⟨stageMore m (Config.loadReads (r.base + r.used)) r.staging, r.base, r.used + 1⟩

/-! ## The word arbiter -/

/-- The byte offset of a word address (R161). -/
def byteOffset (addr : BitVec 13) : Nat := 2 * addr.toNat

/-- LAST_PARITY_ADDR (09, Status block). -/
def offLastParityAddr : Nat := 0x019C

/-- A host read of the word at an offset, as the port keeps it: the stored word is returned, and a parity error is met in the
byte of the offset reported (R168). -/
def Port.read (m : Memory) (off : Nat) (p : Port) : Port :=
  if m.wordBad off then
    { p with data := some (m.readWord off), parityError := true, parityAddr := some (BitVec.ofNat 16 (m.badOffset off)) }
  else { p with data := some (m.readWord off) }

/-- The write that follows a host read with a parity error, while the status block is live (R168). -/
def Memory.notePort (off : Nat) (live : Bool) (m : Memory) : Memory :=
  if m.wordBad off && live then m.writeWord offLastParityAddr (BitVec.ofNat 16 (m.badOffset off)) false else m

/-- A host write meets the reading of a LOAD in progress (R147). -/
def Port.readFirst (m : Memory) (p : Port) : Port := { p with reading := p.reading.map (Reading.advance m) }

/-- The arrivals that have come are served one after another, and one access of the part then counts against the next one
(R163). A reset that has come is noted and stays at the front: nothing is served after it before the command ends. -/
def Memory.serve : List Arrival → Port → Memory → Memory
  | [], p, m => { m with port := some { p with arrivals := [] } }
  | x :: rest, p, m =>
    if x.after = 0 then
      match x.what with
      | .hostWrite addr data => Memory.serve rest (p.readFirst m) (m.writeWord (byteOffset addr) data p.even)
      | .hostRead addr => Memory.serve rest (p.read m (byteOffset addr)) (m.notePort (byteOffset addr) p.live)
      | .softReset _ _ => { m with port := some { p with arrivals := x :: rest, stopped := true } }
      | .pinReset => { m with port := some { p with arrivals := x :: rest, stopped := true } }
    else { m with port := some { p with arrivals := { x with after := x.after - 1 } :: rest } }

/-- The arbiter's turn before an access of the part: the host accesses that have arrived come first (R163). -/
def Memory.turn (m : Memory) : Memory :=
  match m.port with
  | some p => Memory.serve p.arrivals p m
  | none => m

/-- A reset has come: the part's later words of the sequence are not written (R173). -/
def Memory.stopped (m : Memory) : Bool :=
  match m.port with
  | some p => p.stopped
  | none => false

/-- A word of the part reaches the memory, with odd parity (R166), unless a reset has come (R173). -/
def Memory.putPart (off : Nat) (w : Word) (m : Memory) : Memory := if m.stopped then m else m.writeWord off w false

/-- The status block is live from here on, and no parity error has been recorded (R168, R181). -/
def Memory.goLive (m : Memory) : Memory :=
  { m with port := m.port.map fun p => { p with live := true, parityAddr := none } }

/-! ## Form -/

/-- A list of addresses rises strictly, each below the next. -/
def rising : List Nat → Bool
  | [] => true
  | [_] => true
  | a :: b :: rest => decide (a < b) && rising (b :: rest)

/-- The bytes in canonical form: addresses strictly rising and inside the memory, the even-parity list strictly rising and
naming listed bytes only. -/
def Memory.ordered (m : Memory) : Bool :=
  rising (m.bytes.map Prod.fst) && (m.bytes.map Prod.fst).all (decide <| · < memBytes) && rising m.even
    && m.even.all ((m.bytes.map Prod.fst).contains ·)

/-- The canonical form of the memory between commands: its bytes in order, and nothing in the arbiter's hands. -/
def Memory.wf (m : Memory) : Bool := m.ordered && m.port.isNone

/-- What a power-on reset leaves: contents and parity undefined (R145, R166). -/
def Memory.powerOn (m : Memory) : Memory := ⟨m.epoch + 1, [], [], none⟩

end Sys2Proof.Machine
end

