-- ==== Sys2Proof/Machine/Ops.lean ====
section
/-! DEFINITION. The named operations over State: one setter per field, the time arithmetic of the 32-bit tick count, the
saturating and signed arithmetic of the counters and angles, and the sorted insertion that the ordered lists use. -/

namespace Sys2Proof.Machine

/-! ## Setters -/

def State.setPending (s : State) (x : List Instr) : State := { s with pending := x }
def State.setNow (s : State) (x : Time) : State := { s with now := x }
def State.setPins (s : State) (x : Pins) : State := { s with pins := x }
def State.setCtl (s : State) (x : Control) : State := { s with ctl := x }
def State.setEv (s : State) (x : EventUnit) : State := { s with ev := x }
def State.setSu (s : State) (x : SetupUnit) : State := { s with su := x }
def State.setTrk (s : State) (x : Tracker) : State := { s with trk := x }
def State.setLatch (s : State) (x : Latch) : State := { s with latch := x }
def State.setCyls (s : State) (x : Eight Cylinder) : State := { s with cyls := x }
def State.setArm (s : State) (x : Arming) : State := { s with arm := x }
def State.setBanks (s : State) (x : Four Bank) : State := { s with banks := x }
def State.setFaultLimit (s : State) (x : Nat) : State := { s with faultLimit := x }
def State.setSb (s : State) (x : StatusOwner) : State := { s with sb := x }
def State.setMem (s : State) (x : Memory) : State := { s with mem := x }
def State.setFreeCount (s : State) (x : Nat) : State := { s with freeCount := x }

def State.cyl (s : State) (k : CylId) : Cylinder := s.cyls.get k
def State.setCyl (s : State) (k : CylId) (x : Cylinder) : State := s.setCyls (s.cyls.set k x)
def State.bank (s : State) (bk : BankId) : Bank := s.banks.get bk
def State.setBank (s : State) (bk : BankId) (x : Bank) : State := s.setBanks (s.banks.set bk x)

/-- A change of the tracker, and of the event latch's own items. -/
def State.modTrk (f : Tracker → Tracker) (s : State) : State := s.setTrk (f s.trk)
def State.modLatch (f : Latch → Latch) (s : State) : State := s.setLatch (f s.latch)

/-- What the sense lines of a bank show now. -/
def State.senseOf (s : State) (bk : BankId) : BankSense := s.pins.sense.get bk

/-! ## Time -/

/-- A time advanced by a count of ticks, modulo 2^32. -/
def Time.add (t : Time) (ticks : Nat) : Time := t + BitVec.ofNat 32 ticks

/-- The signed difference `x − y` modulo 2^32 (00_scope.md, Timestamps). -/
def Time.diff (x y : Time) : Int := (x - y).toInt

/-- `x` is later than `y`. -/
def Time.later (x y : Time) : Bool := decide (0 < Time.diff x y)

/-- The ticks from `y` to `x`, modulo 2^32. -/
def Time.since (x y : Time) : Nat := (x - y).toNat

/-- The later of two times. -/
def Time.latest (x y : Time) : Time := if Time.later y x then y else x

/-! ## Numbers -/

/-- The largest interval and period, 2^24 − 1 ticks (R3). -/
def maxInterval : Nat := 2 ^ 24 - 1

/-- Steps per engine cycle and per revolution (00_scope.md, Crank angle). -/
def cycleSteps : Nat := 23040
def revSteps : Nat := 11520

/-- A saturating 16-bit counter counts one (R182). -/
def satCount (w : Word) : Word := if w = 0xFFFF then w else w + 1

/-- A measurement saturating at 65,535 (R47). -/
def sat16 (n : Nat) : Word := BitVec.ofNat 16 (min 0xFFFF n)

/-- The signed difference of two 16-bit numbers modulo 65,536: of cycle numbers (R25) and of event sequences (R87). -/
def wordDiff (x y : Word) : Int := (x - y).toInt

/-- A small number as the low byte of a status word (R172). -/
def lowByte (n : Nat) : Word := BitVec.ofNat 16 (n % 256)

/-- Two byte fields that share a word, the first at the even offset (R165). -/
def bytePair (lo hi : Nat) : Word := BitVec.ofNat 16 (lo % 256 + 256 * (hi % 256))

/-- The low and the high byte of a word, as numbers. -/
def loByte (w : Word) : Nat := (w.extractLsb' 0 8).toNat
def hiByte (w : Word) : Nat := (w.extractLsb' 8 8).toNat

/-- The two words of a 32-bit field, low word first (R165). -/
def lowWord (n : BitVec 32) : Word := n.extractLsb' 0 16
def highWord (n : BitVec 32) : Word := n.extractLsb' 16 16

/-- Inserts into a list kept in the order of `before`, after every entry that comes before the new one. -/
def insertBy {α : Type} (before : α → α → Bool) (x : α) : List α → List α
  | [] => [x]
  | y :: rest => if before x y then x :: y :: rest else y :: insertBy before x rest

/-- A list put in the order of `before`. -/
def sortBy {α : Type} (before : α → α → Bool) (l : List α) : List α := l.foldr (insertBy before) []

end Sys2Proof.Machine
end

