-- ==== Sys2Proof/Machine/Flags.lean ====
section
/-! DEFINITION. The event unit (10): raising the fourteen sticky flags, the two level flags, the mask, IRQ, and the read of
EVENT; the six registers as a read returns them (R169, R170). -/

namespace Sys2Proof.Machine

/-- The event flags. -/
inductive Flag where
  | eventDone | planLow | planMiss | limp | syncGained | syncLost | phaseSlip | pulseFault | quarantine | conflict
  | overspeed | runState | trimFault | memParity | stall | serviceDone
  deriving DecidableEq, Repr

/-- The bit of a flag in EVENT, EVENT_RAW and EVENT_MASK (09, Registers). -/
def Flag.bit : Flag → Nat
  | .eventDone => 0
  | .planLow => 1
  | .planMiss => 2
  | .limp => 3
  | .syncGained => 4
  | .syncLost => 5
  | .phaseSlip => 6
  | .pulseFault => 7
  | .quarantine => 8
  | .conflict => 9
  | .overspeed => 10
  | .runState => 11
  | .trimFault => 12
  | .memParity => 13
  | .stall => 14
  | .serviceDone => 15

/-- The word with one flag's bit set. -/
def Flag.word (f : Flag) : Word := 1 <<< f.bit

/-- The fourteen sticky flags: all but PLAN_LOW (bit 1) and OVERSPEED (bit 10). -/
def stickyFlags : Word := 0xFBFD

/-- Raises a sticky flag: sets its raw bit (R176). -/
def State.raise (f : Flag) (s : State) : State := s.setEv { s.ev with sticky := s.ev.sticky ||| f.word }

/-- The level flags as their conditions stand (R177): PLAN_LOW the look-ahead result, OVERSPEED the cut. -/
def State.levelFlags (s : State) : Word :=
  (if s.latch.planLow then Flag.planLow.word else 0) ||| (if s.trk.overspeedCut then Flag.overspeed.word else 0)

/-- EVENT_RAW: the sixteen raw flags. -/
def State.eventRaw (s : State) : Word := (s.ev.sticky &&& stickyFlags) ||| s.levelFlags

/-- EVENT: raw AND mask (R179). -/
def State.event (s : State) : Word := s.eventRaw &&& s.ev.mask

/-- IRQ is asserted exactly while raw flags AND mask is nonzero (R178). -/
def State.irq (s : State) : Bool := s.event != 0

/-- A read of EVENT clears every sticky flag whose bit it returned as 1 (R179). -/
def State.clearReturned (s : State) : State := s.setEv { s.ev with sticky := s.ev.sticky &&& ~~~s.event }

/-! ## STATUS and the registers -/

def RunState.code : RunState → Nat
  | .stopped => 0
  | .loading => 1
  | .ready => 2
  | .running => 3
  | .stopping => 4

def Sync.code : Sync → Nat
  | .noSignal => 0
  | .gapSearch => 1
  | .gapCheck => 2
  | .crankSync => 3
  | .phased => 4

def RequestResult.code : RequestResult → Nat
  | .none => 0
  | .accepted => 1
  | .refused => 2

def ResetCause.code : ResetCause → Nat
  | .power => 1
  | .pin => 2
  | .soft => 3

/-- STATUS, assembled at each read (R170). -/
def State.statusWord (s : State) : Word :=
  BitVec.ofNat 16 (s.ctl.run.code + 2 ^ 4 * s.trk.sync.code + 2 ^ 7 * s.trk.phaseAssumed.toNat
    + 2 ^ 8 * s.ctl.inhibit.toNat + 2 ^ 9 * s.ctl.lastResult.code + 2 ^ 11 * s.ctl.resetCause.code)

/-- IDENT: part code 0x84, revision 0x01. -/
def identWord : Word := 0x8401

/-- Whether the part is held in reset (R145): a power-on reset in progress, or RESET_N asserted. -/
def State.held (s : State) : Bool := s.pins.powerOn || s.pins.resetN

/-- What register word `reg` reads, without the side effect of a read of EVENT (R169), where the port takes the read
(`BusAccess.returned`). -/
def State.readRegister (s : State) (reg : BitVec 3) : Word :=
  match reg.toNat with
  | 0 => identWord
  | 1 => s.statusWord
  | 2 => s.ctl.request
  | 3 => s.event
  | 4 => s.eventRaw
  | 5 => s.ev.mask
  | _ => 0

/-- Drives a word on the data lines. -/
def State.drive (w : Word) (s : State) : State := s.setPins { s.pins with busData := w }

end Sys2Proof.Machine
end

