-- ==== Sys2Proof/Machine/StatusBlock.lean ====
section
/-! DEFINITION. The status block (09, Status block; 10, R181 to R184): its layout, the words each owner writes, and the
writing of one of them while the block is live. -/

namespace Sys2Proof.Machine

/-! ## Codes -/

def Source.code : Source → Nat
  | .plan => 0
  | .held => 1
  | .limp => 2
  | .noFuel => 3

def EventOutcome.code : EventOutcome → Nat
  | .complete => 1
  | .partlyFired => 2
  | .noneFired => 3
  | .aborted => 4
  | .stale => 5
  | .invalid => 6
  | .parity => 7
  | .cutOverspeed => 8
  | .quarantined => 9

/-- The code of an event outcome, 0 where none has been written (R183). -/
def outcomeCode : Option EventOutcome → Nat
  | some o => o.code
  | none => 0

def PulseOutcome.code : PulseOutcome → Nat
  | .fired => 1
  | .truncated => 2
  | .capped => 3
  | .openFault => 4
  | .shortFault => 5
  | .missedAngle => 6
  | .slipDrop => 7
  | .capDrop => 8
  | .syncDrop => 9
  | .stopDrop => 10
  | .abortDrop => 11
  | .quarantineDrop => 12
  | .overrunDrop => 13

def BankMode.code : BankMode → Nat
  | .idle => 0
  | .active => 1
  | .quench => 2
  | .settling => 3

def Slot.code : Slot → Nat
  | .slot0 => 0
  | .slot1 => 1
  | .default => 0xFF

/-! ## Layout -/

def offTakePosition : Nat := 0x0180
def offEventSeq : Nat := 0x0182
def offCycleCount : Nat := 0x0184
def offSyncState : Nat := 0x0186
def offTLast : Nat := 0x0188
def offLastEdgeAngle : Nat := 0x018C
def offLastEdgeTime : Nat := 0x0190
def offSetupError : Nat := 0x0194
def offSetupErrorOffset : Nat := 0x0196
def offTrimSlot : Nat := 0x0198
def offClampMask : Nat := 0x019A
def offNoiseEdges : Nat := 0x01A0
def offMarkerErrors : Nat := 0x01A2
def offSyncLosses : Nat := 0x01A4
def offService : Nat := 0x01B0

/-- The status entry of a cylinder. -/
def offCyl (k : CylId) : Nat := 0x01C0 + 16 * (k.number - 1)

/-- The status entry of a bank. -/
def offBank (bk : BankId) : Nat := 0x0240 + 8 * bk.index

/-! ## Writing -/

/-- The arbiter's turn before an access of the part (R163). -/
def State.turn (s : State) : State := s.setMem s.mem.turn

/-- The part writes a word of memory, when its access is served (R163, R166, R173). -/
def State.writeWord (off : Nat) (w : Word) (s : State) : State := s.setMem (s.mem.turn.putPart off w)

/-- The part reads words one after another, each when its access is served; the first with a parity error ends the reading
(R30, R156). -/
def State.fetchWords : List Nat → State → Option (List Word) × State
  | [], s => (some [], s)
  | off :: rest, s =>
    if s.turn.mem.wordBad off then (none, s.turn)
    else (State.fetchWords rest s.turn).map (Option.map (s.turn.mem.readWord off :: ·)) id

/-- An owner writes a status block word, while the block is live (R181). -/
def State.status (off : Nat) (w : Word) (s : State) : State := if s.sb.live then s.writeWord off w else s

/-- Several words in their order. -/
def State.statusAll (l : List (Nat × Word)) (s : State) : State := l.foldl (fun s p => s.status p.1 p.2) s

/-- T_LAST as the status block shows it: 0 while absent (R172). -/
def tLastTicks (t : Tracker) : BitVec 32 := BitVec.ofNat 32 (t.tLast.getD 0)

def syncWords (t : Tracker) : List (Nat × Word) := [(offSyncState, lowByte t.sync.code)]

def tLastWords (t : Tracker) : List (Nat × Word) :=
  [(offTLast, lowWord (tLastTicks t)), (offTLast + 2, highWord (tLastTicks t))]

def edgeAngleWords (t : Tracker) : List (Nat × Word) := [(offLastEdgeAngle, BitVec.ofNat 16 t.lastAngle)]

def edgeTimeWords (t : Tracker) : List (Nat × Word) :=
  [(offLastEdgeTime, lowWord (t.lastTime.getD 0)), (offLastEdgeTime + 2, highWord (t.lastTime.getD 0))]

def cycleWords (t : Tracker) : List (Nat × Word) := [(offCycleCount, t.cycle)]

/-- SYNC_LOSSES, written at its own cause alone (R183). -/
def syncLossWords (t : Tracker) : List (Nat × Word) := [(offSyncLosses, t.syncLosses)]

/-- The three counters of the tracker. -/
def trackerCountWords (t : Tracker) : List (Nat × Word) :=
  [(offNoiseEdges, t.noiseEdges), (offMarkerErrors, t.markerErrors)] ++ syncLossWords t

/-- TAKE_POSITION, then EVENT_SEQ (R28 step 9; the order is the model's: DESIGN CHOICE, assumption 31). -/
def latchWords (l : Latch) : List (Nat × Word) :=
  [(offTakePosition, BitVec.ofNat 16 l.takePos), (offEventSeq, l.nextSeq)]

/-- The slot in force and the clamp mask, in this order (R157; DESIGN CHOICE, assumption 31). -/
def trimWords (u : SetupUnit) : List (Nat × Word) :=
  [(offTrimSlot, lowByte u.slot.code), (offClampMask, u.clampMask)]

/-- SETUP_ERROR, then its offset (R151, R153; the order is the model's: DESIGN CHOICE, assumption 31). -/
def errorWords (u : SetupUnit) : List (Nat × Word) :=
  [(offSetupError, lowByte u.error.code), (offSetupErrorOffset, u.error.offset)]

/-- The service entry's words in the order of an acceptance: OUTCOME first (R172). -/
def serviceStartWords (e : ServiceEntry) : List (Nat × Word) :=
  [(offService + 8, e.outcome), (offService, e.cylWord), (offService + 2, e.flags), (offService + 4, e.driven),
    (offService + 6, e.peak)]

/-- The service entry's words in the order of a quench end: the measurements, then OUTCOME (R125). -/
def serviceEndWords (e : ServiceEntry) : List (Nat × Word) :=
  [(offService + 4, e.driven), (offService + 6, e.peak), (offService + 2, e.flags), (offService + 8, e.outcome)]

def cylStateWords (k : CylId) (c : Cylinder) : List (Nat × Word) := [(offCyl k, lowByte c.quarantined.toNat)]

/-- LAST_SOURCE, LAST_OUTCOME, LAST_SEQ, in that order (R172). -/
def cylLastWords (k : CylId) (c : Cylinder) : List (Nat × Word) :=
  [(offCyl k + 2, lowByte c.lastSource.code), (offCyl k + 4, lowByte (outcomeCode c.lastOutcome)),
    (offCyl k + 10, c.lastSeq)]

def holdWords (k : CylId) (c : Cylinder) : List (Nat × Word) := [(offCyl k + 6, lowByte c.holdCount)]

def faultWords (k : CylId) (c : Cylinder) : List (Nat × Word) := [(offCyl k + 8, lowByte c.faults)]

def faultTotalWords (k : CylId) (c : Cylinder) : List (Nat × Word) := [(offCyl k + 14, c.faultTotal)]

def missWords (k : CylId) (c : Cylinder) : List (Nat × Word) := [(offCyl k + 12, c.misses)]

def bankModeWords (bk : BankId) (x : Bank) : List (Nat × Word) := [(offBank bk, lowByte x.mode.code)]

def conflictWords (bk : BankId) (x : Bank) : List (Nat × Word) := [(offBank bk + 2, x.conflicts)]

def boostLowWords (bk : BankId) (x : Bank) : List (Nat × Word) := [(offBank bk + 4, x.boostLowCount)]

/-- The words of one cylinder's entry. -/
def cylWords (k : CylId) (c : Cylinder) : List (Nat × Word) :=
  cylStateWords k c ++ cylLastWords k c ++ holdWords k c ++ faultWords k c ++ missWords k c ++ faultTotalWords k c

/-- The words of one bank's entry. -/
def bankWords (bk : BankId) (x : Bank) : List (Nat × Word) :=
  bankModeWords bk x ++ conflictWords bk x ++ boostLowWords bk x

/-- Every field of the status block but LAST_PARITY_ADDR at its owner's value, as LOAD completion writes it (R153, R183). R165 and R172 order the words
of a field and of an entry; the order of the fields is the model's (DESIGN CHOICE, assumption 31). -/
def State.statusWords (s : State) : List (Nat × Word) :=
  errorWords s.su ++ trimWords s.su ++ latchWords s.latch ++ cycleWords s.trk ++ syncWords s.trk ++ tLastWords s.trk
    ++ edgeAngleWords s.trk ++ edgeTimeWords s.trk
    ++ trackerCountWords s.trk ++ serviceStartWords s.sb.service
    ++ CylId.all.flatMap (fun k => cylWords k (s.cyl k)) ++ BankId.all.flatMap (fun bk => bankWords bk (s.bank bk))

end Sys2Proof.Machine
end

