-- ==== Sys2Proof/Machine/Setup.lean ====
section
/-! DEFINITION. The setup unit (08): reading the setup block and profile table into the staging copy (R147), the fifteen
ordered checks (R148 to R151), the copies made from it (R152), and the trim copy with its clamping (R155 to R158). -/

namespace Sys2Proof.Machine

/-! ## Reading -/

/-- The staging copy when the reading has ended: at most 256 words. -/
def stageAll (m : Memory) (st : List StagedByte) : List StagedByte := stageMore m 256 st

/-! ## Fields of the staging copy, by their byte offset in the exchange memory -/

def stagedIndex (a : Nat) : Nat := if a < 256 then a else a - 0x0300 + 256

def u8 (st : List StagedByte) (a : Nat) : Nat := ((st[stagedIndex a]?).map (·.value.toNat)).getD 0

def u16 (st : List StagedByte) (a : Nat) : Nat := u8 st a + 256 * u8 st (a + 1)

/-- Two's complement of a 16-bit field. -/
def signed16 (n : Nat) : Int := (BitVec.ofNat 16 n).toInt

def s16 (st : List StagedByte) (a : Nat) : Int := signed16 (u16 st a)

def bit0 (st : List StagedByte) (a : Nat) : Bool := u8 st a % 2 == 1

/-- A polarity byte: bit 0 clear selects the rising edge (R171). -/
def edgeOf (st : List StagedByte) (a : Nat) : Edge := if bit0 st a then .falling else .rising

def offTdc (k : CylId) : Nat := 0x20 + 8 * (k.number - 1)
def offBankField (k : CylId) : Nat := offTdc k + 2
def offLead (k : CylId) : Nat := offTdc k + 4
def offBankSetup (bk : BankId) : Nat := 0x60 + 8 * bk.index
def offProfileEntry (p j : Nat) : Nat := 0x0300 + 32 * p + 4 * j
def offLimp (i : Nat) : Nat := 0x14 + 6 * i

/-! ## The ordered checks -/

def failIf (c : Bool) (code off : Nat) : Option SetupError :=
  if c then some ⟨code, BitVec.ofNat 16 off⟩ else none

/-- Check 1, PARITY: the first byte read with a parity error, in the order of reading (R147). The two bytes of a word are read in
one access (R163), and where both are bad no rule says which is the first: the even one is taken (DESIGN CHOICE, assumption 38;
R168, which takes it too, is of host reads alone). -/
def checkParity (st : List StagedByte) : Option SetupError :=
  match st.findIdx? (·.bad) with
  | some i => some ⟨1, BitVec.ofNat 16 (if i < 256 then i else i - 256 + 0x0300)⟩
  | none => none

/-- Checks 2 to 6: wheel and marker (R148). -/
def checkWheel (st : List StagedByte) : Option SetupError :=
  let n := u8 st 0x00
  let m := u8 st 0x01
  let lo := u16 st 0x08
  let hi := u16 st 0x0A
  let stall := u16 st 0x06
  failIf (decide (n < 24) || decide (72 < n) || decide (revSteps % n ≠ 0)) 2 0x00
    <|> failIf (decide (m ≠ 1) && decide (m ≠ 2)) 2 0x01
    <|> failIf (decide (cycleSteps ≤ u16 st 0x02)) 3 0x02
    <|> failIf (decide (u8 st 0x04 < 20) || decide (48 < u8 st 0x04)) 4 0x04
    <|> failIf (decide (stall < 10) || decide (1600 < stall)) 5 0x06
    <|> failIf (decide (cycleSteps ≤ lo)) 6 0x08
    <|> failIf (decide (cycleSteps ≤ hi)) 6 0x0A
    <|> failIf (decide (5760 < (hi + cycleSteps - lo) % cycleSteps + 1)) 6 0x0A

/-- The configured cylinders 1 to count, in ascending order. -/
def cylsUpTo (count : Nat) : List CylId := CylId.all.filter (fun k => decide (k.number ≤ count))

/-- The distance between two cycle angles (R149). -/
def angleDistance (x y : Nat) : Nat :=
  min ((x + cycleSteps - y) % cycleSteps) ((y + cycleSteps - x) % cycleSteps)

/-- A bank is in use when at least one configured cylinder names it (R149). -/
def bankInUse (st : List StagedByte) (count : Nat) (bk : BankId) : Bool :=
  (cylsUpTo count).any (fun k => u8 st (offBankField k) == bk.index)

def banksInUse (st : List StagedByte) (count : Nat) : List BankId := BankId.all.filter (bankInUse st count)

/-- Checks 7 to 11: cylinders and banks (R149). -/
def checkCylinders (st : List StagedByte) : Option SetupError :=
  let count := u8 st 0x0E
  let cs := cylsUpTo count
  let tdc := fun k => u16 st (offTdc k)
  failIf (decide (count < 1) || decide (8 < count)) 7 0x0E
    <|> cs.findSome? (fun k => failIf (decide (cycleSteps ≤ tdc k)
      || cs.any (fun j => decide (j.number < k.number) && decide (angleDistance (tdc k) (tdc j) < 960))) 8 (offTdc k))
    <|> cs.findSome? (fun k => failIf (decide (3 < u8 st (offBankField k))) 9 (offBankField k))
    <|> cs.findSome? (fun k => failIf (decide (10000 < u16 st (offLead k))) 10 (offLead k))
    <|> (banksInUse st count).findSome? (fun bk =>
      let o := offBankSetup bk
      failIf (decide (u8 st o < 1)) 11 o
        <|> failIf (decide (u8 st o ≤ u8 st (o + 1))) 11 (o + 1)
        <|> failIf (decide (u16 st (o + 2) < 100) || decide (20000 < u16 st (o + 2))) 11 (o + 2))

/-- The entries of profile `p` from entry `j` on, `fuel` of them left (R150): the profile they make, or the first failing
field. `below` says that a level lies below SHORT_LEVEL of every bank in use. -/
def scanProfile (st : List StagedByte) (below : Nat → Bool) (p : Nat) :
    Nat → Nat → List Ramp → Except SetupError Profile
  | 0, _, _ => .error ⟨12, Config.noHoldOffset p⟩
  | fuel + 1, j, ramps =>
    let o := offProfileEntry p j
    let level := u8 st (o + 1)
    let b := u16 st (o + 2)
    let fail := fun x => .error ⟨12, BitVec.ofNat 16 x⟩
    match u8 st o with
    | 0 => fail o
    | 1 =>
      if b < 1 then fail (o + 2) else if !below level then fail (o + 1)
      else scanProfile st below p fuel (j + 1) (ramps ++ [.boostRise level b])
    | 2 =>
      if b < 1 then fail (o + 2) else if !below level then fail (o + 1)
      else scanProfile st below p fuel (j + 1) (ramps ++ [.batteryRise level b])
    | 3 => scanProfile st below p fuel (j + 1) (ramps ++ [.freewheel b])
    | 4 =>
      if 7 ≤ j then fail o
      else if !below level then fail (o + 1)
      else if level ≤ b % 256 then fail (o + 2)
      else if u8 st (o + 4) ≠ 0 then fail (o + 4)
      else .ok ⟨ramps, level, b % 256⟩
    | _ => fail o

/-- Whether a level lies below SHORT_LEVEL of every bank in use (R150). -/
def levelBelowShort (st : List StagedByte) (level : Nat) : Bool :=
  (banksInUse st (u8 st 0x0E)).all (fun bk => decide (level < u8 st (offBankSetup bk)))

def scanOf (st : List StagedByte) (p : Nat) : Except SetupError Profile :=
  scanProfile st (levelBelowShort st) p 8 0 []

/-- Check 12: PROFILE_COUNT and the profiles (R150). -/
def checkProfiles (st : List StagedByte) : Option SetupError :=
  let count := u8 st 0x0F
  failIf (decide (count < 1) || decide (8 < count)) 12 0x0F
    <|> (List.range count).findSome? (fun p =>
      match scanOf st p with
      | .error e => some e
      | .ok _ => none)

/-- The KIND codes of a pulse entry (09, Plan record). -/
def kindOf : Nat → Option Kind
  | 1 => some .pilot
  | 2 => some .main
  | 3 => some .post
  | _ => none

/-- Whether REL_ANGLE lies in −5,760..+5,759 (R36). -/
def relAngleLegal (r : Int) : Bool := decide (-5760 ≤ r) && decide (r ≤ 5759)

/-- The fields of one limp entry, in the order KIND, PROFILE, DURATION, REL_ANGLE (R151). -/
def checkLimpEntry (st : List StagedByte) (i : Nat) : Option SetupError :=
  let o := offLimp i
  let used := decide (u8 st o ≠ 0)
  failIf (decide (3 < u8 st o)) 15 o
    <|> failIf (used && decide (u8 st 0x0F ≤ u8 st (o + 1))) 15 (o + 1)
    <|> failIf (used && decide (u16 st (o + 4) < 1)) 15 (o + 4)
    <|> failIf (used && !relAngleLegal (s16 st (o + 2))) 15 (o + 2)

/-- Checks 13 to 15: FAULT_LIMIT, RING_LEN and the limp plan (R151; DEDUCED, assumption 26). -/
def checkLast (st : List StagedByte) : Option SetupError :=
  let faults := u8 st 0x10
  let ring := u8 st 0x11
  let k0 := u8 st (offLimp 0)
  let k1 := u8 st (offLimp 1)
  failIf (decide (faults < 1) || decide (7 < faults)) 13 0x10
    <|> failIf (decide (ring < 8) || decide (64 < ring)) 14 0x11
    <|> (if bit0 st 0x12 then
        checkLimpEntry st 0 <|> checkLimpEntry st 1
          <|> failIf (decide (k0 ≠ 0) && decide (k1 ≠ 0)
            && decide (s16 st (offLimp 1 + 2) < s16 st (offLimp 0 + 2))) 15 (offLimp 1 + 2)
          <|> failIf (decide (k0 = 2) && decide (k1 = 2)) 15 (offLimp 1)
      else none)

/-- The first check that fails, in the order 1 to 15 (R147 to R151). -/
def loadError (st : List StagedByte) : Option SetupError :=
  checkParity st <|> checkWheel st <|> checkCylinders st <|> checkProfiles st <|> checkLast st

/-! ## The copies -/

/-- A pulse entry at an offset of the staging copy, if used. -/
def stagedEntry (st : List StagedByte) (i : Nat) : Option PulseEntry :=
  let o := offLimp i
  (kindOf (u8 st o)).map fun k => ⟨i, k, u8 st (o + 1), s16 st (o + 2), u16 st (o + 4)⟩

/-- The setup copy and the profile copy formed from a staging copy that passed every check (R152). -/
def setupOf (st : List StagedByte) : Setup where
  n := u8 st 0x00
  m := u8 st 0x01
  wheelOffset := u16 st 0x02
  gapRatio := u8 st 0x04
  crankEdge := edgeOf st 0x05
  stallTicks := u16 st 0x06 * 10000
  markerLo := u16 st 0x08
  markerHi := u16 st 0x0A
  markerEdge := edgeOf st 0x0C
  phaseAssume := bit0 st 0x0D
  cylCount := u8 st 0x0E
  faultLimit := u8 st 0x10
  ringLen := u8 st 0x11
  limp := if bit0 st 0x12 then some ([0, 1].filterMap (stagedEntry st)) else none
  cyls := (Eight.fill ()).map fun k _ =>
    if k.number ≤ u8 st 0x0E then
      ⟨u16 st (offTdc k), (BankId.fromIndex (u8 st (offBankField k))).getD .a, u16 st (offLead k)⟩
    else ⟨0, .a, 0⟩
  banks := (Four.fill ()).map fun bk _ =>
    let o := offBankSetup bk
    ⟨u8 st o, u8 st (o + 1), u16 st (o + 2)⟩
  profiles := (List.range (u8 st 0x0F)).filterMap fun p => (scanOf st p).toOption

/-- The configured cylinders of a setup copy. -/
def Setup.cylinders (u : Setup) : List CylId := cylsUpTo u.cylCount

/-- A cylinder's firing position: its place, from 1, among the configured cylinders by ascending TDC_ANGLE (R152). -/
def Setup.firingPos (u : Setup) (k : CylId) : Nat :=
  1 + (u.cylinders.filter (fun j => decide ((u.cyls.get j).tdc < (u.cyls.get k).tdc))).length

/-- Whether a phase is BOOST_RISE. -/
def Ramp.isBoost : Ramp → Bool
  | .boostRise _ _ => true
  | .batteryRise _ _ => false
  | .freewheel _ => false

/-- The BOOST_RISE mark of a profile (R150). -/
def Profile.boostMark (p : Profile) : Bool := p.ramps.any Ramp.isBoost

/-- The bank of a cylinder, by the setup copy. -/
def State.bankOf (s : State) (k : CylId) : BankId :=
  match s.su.setup with
  | some u => (u.cyls.get k).bank
  | none => .a

/-! ## Trim sets -/

def offSelector : Nat := 0x0100

/-- The byte offset of a slot; the default set lies in no slot. -/
def slotBase : Slot → Nat
  | .slot1 => 0x0130
  | .slot0 => 0x0110
  | .default => 0x0110

/-- The slot a selector word names: 0 names slot 0, any other value slot 1 (R156). -/
def slotNamed (w : Word) : Slot := if w = 0 then .slot0 else .slot1

/-- The sixteen words of a slot. -/
def slotWords (base : Nat) : List Nat := (List.range 16).map (fun i => base + 2 * i)

/-- The fields of a slot's sixteen words (09, Trim selector and slot). -/
def trimOf (l : List Word) : Trim where
  latchAdvance := (l.getD 0 0).toNat
  armWindow := (l.getD 1 0).toNat
  slipPilot := (l.getD 2 0).toNat
  slipMain := (l.getD 3 0).toNat
  slipPost := (l.getD 4 0).toNat
  driveMax := (l.getD 5 0).toNat
  minDwell := (l.getD 6 0).toNat
  rechargeGuard := (l.getD 7 0).toNat
  overspeedPeriod := (l.getD 8 0).toNat
  overspeedHyst := (l.getD 9 0).toNat
  serviceDuration := (l.getD 10 0).toNat
  holdLimit := loByte (l.getD 11 0)
  planLowAhead := hiByte (l.getD 11 0)
  predictMode := loByte (l.getD 12 0)

/-- The slot and the fields a trim copy reads where the memory stands still, or none at a parity error in the selector or the
slot (R156). -/
def readTrim (m : Memory) : Option (Slot × Trim) :=
  let slot := slotNamed (m.readWord offSelector)
  let words := slotWords (slotBase slot)
  if m.wordBad offSelector || words.any m.wordBad then none else some (slot, trimOf (words.map m.readWord))

/-- The reading of a trim copy, word by word (R156): the selector, then the slot it names. -/
def State.fetchTrim (s : State) : Option (Slot × Trim) × State :=
  if s.turn.mem.wordBad offSelector then (none, s.turn)
  else
    let slot := slotNamed (s.turn.mem.readWord offSelector)
    (State.fetchWords (slotWords (slotBase slot)) s.turn).map (Option.map fun l => (slot, trimOf l)) id

/-- Clamps a value to a range (R157). -/
def clamp (lo hi v : Nat) : Nat := if v < lo then lo else if hi < v then hi else v

/-- The fields clamped to their ranges (08, Trim sets; R157). -/
def clampTrim (ringLen : Nat) (t : Trim) : Trim where
  latchAdvance := clamp 960 5760 t.latchAdvance
  armWindow := clamp 0 960 t.armWindow
  slipPilot := clamp 0 20000 t.slipPilot
  slipMain := clamp 0 20000 t.slipMain
  slipPost := clamp 0 20000 t.slipPost
  driveMax := clamp 1000 60000 t.driveMax
  minDwell := clamp 50 5000 t.minDwell
  rechargeGuard := clamp 0 20000 t.rechargeGuard
  overspeedPeriod := clamp 0 65535 t.overspeedPeriod
  overspeedHyst := clamp 0 4095 t.overspeedHyst
  holdLimit := clamp 0 15 t.holdLimit
  planLowAhead := clamp 1 (ringLen - 1) t.planLowAhead
  predictMode := clamp 0 1 t.predictMode
  serviceDuration := clamp 100 20000 t.serviceDuration

/-- A trim set's fields in the order of their mask bits. -/
def Trim.fields (t : Trim) : List Nat :=
  [t.latchAdvance, t.armWindow, t.slipPilot, t.slipMain, t.slipPost, t.driveMax, t.minDwell, t.rechargeGuard,
    t.overspeedPeriod, t.overspeedHyst, t.holdLimit, t.planLowAhead, t.predictMode, t.serviceDuration]

/-- The mask of the fields that clamping changed, the first field in bit 0 (R157). -/
def changedMask : List Nat → List Nat → Nat
  | x :: xs, y :: ys => (decide (x ≠ y)).toNat + 2 * changedMask xs ys
  | [], _ => 0
  | _ :: _, [] => 0

/-- RING_LEN of the setup copy. -/
def State.ringLen (s : State) : Nat :=
  match s.su.setup with
  | some u => u.ringLen
  | none => 0

/-- A cylinder's hold count is changed and written into its status entry (R51; DEDUCED,
assumption 27). -/
def State.setHold (k : CylId) (n : Nat) (s : State) : State :=
  let c := { s.cyl k with holdCount := n }
  (s.setCyl k c).statusAll (holdWords k c)

/-- Lowers a hold count above HOLD_LIMIT to it (R51). -/
def State.limitHold (s : State) (k : CylId) : State :=
  if s.su.trim.holdLimit < (s.cyl k).holdCount then s.setHold k s.su.trim.holdLimit else s

/-- The hold counts are limited from cylinder 1 to 8 (R51; DESIGN CHOICE, assumption 33). -/
def State.limitHolds (s : State) : State := CylId.all.foldl State.limitHold s

/-- A good copy comes into force: the clamped set, the slot and the mask, both written into the status block (R157). -/
def State.putTrim (slot : Slot) (raw : Trim) (s : State) : State :=
  let t := clampTrim s.ringLen raw
  let u := { s.su with trim := t, slot := slot, clampMask := BitVec.ofNat 16 (changedMask raw.fields t.fields) }
  (s.setSu u).statusAll (trimWords u)

/-- What a trim copy does with what it read: the set in force replaced, or kept with TRIM_FAULT (R158); then the hold counts
limited. -/
def State.useTrim (copy : Option (Slot × Trim)) (s : State) : State :=
  match copy with
  | some (slot, raw) => (s.putTrim slot raw).limitHolds
  | none => (s.raise .trimFault).limitHolds

/-- The trim copy (R155). -/
def State.copyTrim (s : State) : State := s.fetchTrim.2.useTrim s.fetchTrim.1

/-- A copy that failed at LOAD completion leaves PLAN_LOW_AHEAD below the new RING_LEN (R158). -/
def State.capPlanLowAhead (s : State) : State :=
  s.setSu { s.su with trim := { s.su.trim with planLowAhead := min s.su.trim.planLowAhead (s.ringLen - 1) } }

end Sys2Proof.Machine
end

