-- ==== Sys2Proof/Machine/Tracker.lean ====
section
/-! DEFINITION. The position tracker's arithmetic (01): geometry, noise and gap tests, periods, prediction, the estimated
angle, the marker window. Functions of the setup copy and the tracker alone. -/

namespace Sys2Proof.Machine

/-- Pitch P (R12). -/
def Setup.pitch (u : Setup) : Nat := revSteps / u.n

/-- The last real tooth, N−M−1. -/
def Setup.lastTooth (u : Setup) : Nat := u.n - u.m - 1

/-- The angle of an accepted edge at tooth `k` with revolution bit `r` (R12). -/
def Setup.angle (u : Setup) (r : Bool) (k : Nat) : Nat :=
  (u.wheelOffset + r.toNat * revSteps + k * u.pitch) % cycleSteps

/-- The distance D to the next real edge (R12). -/
def Setup.distance (u : Setup) (sync : Sync) (tooth : Nat) : Nat :=
  match sync with
  | .noSignal => u.pitch
  | .gapSearch => u.pitch
  | .gapCheck => if tooth = u.lastTooth then (u.m + 1) * u.pitch else u.pitch
  | .crankSync => if tooth = u.lastTooth then (u.m + 1) * u.pitch else u.pitch
  | .phased => if tooth = u.lastTooth then (u.m + 1) * u.pitch else u.pitch

/-- The tracker has cycle angles: CRANK_SYNC or PHASED (R20). -/
def Tracker.angleKnown (t : Tracker) : Bool := t.sync == .crankSync || t.sync == .phased

/-- Firing is possible: PHASED, or CRANK_SYNC with the phase assumption in force (R21). -/
def Tracker.canFire (t : Tracker) : Bool := t.sync == .phased || (t.sync == .crankSync && t.phaseAssumed)

/-- The interval of an edge at `now`, if a previous accepted edge exists (R3). -/
def Tracker.interval (t : Tracker) (now : Time) : Option Nat :=
  t.lastTime.map (fun l => min maxInterval (Time.since now l))

/-- The expected interval of R4, if one exists. -/
def Tracker.expected (u : Setup) (t : Tracker) : Option Nat :=
  match t.sync with
  | .noSignal => none
  | .gapSearch => t.lastInterval
  | .gapCheck => some (t.tPred * (if t.tooth = u.lastTooth then u.m + 1 else 1))
  | .crankSync => some (t.tPred * (if t.tooth = u.lastTooth then u.m + 1 else 1))
  | .phased => some (t.tPred * (if t.tooth = u.lastTooth then u.m + 1 else 1))

/-- An edge is noise when four times its interval is less than the expected interval (R4), and when its interval is 0 wherever
that test is made (R188), so also with an expected interval of 0 (DEDUCED, assumption 30). -/
def Tracker.isNoise (u : Setup) (t : Tracker) (interval : Nat) : Bool :=
  match t.expected u with
  | some x => decide (4 * interval < x) || decide (interval = 0)
  | none => false

/-- An interval is gap-like (R5). -/
def Tracker.gapLike (u : Setup) (t : Tracker) (interval : Nat) : Bool :=
  match t.tLast with
  | some x => decide (u.gapRatio * x ≤ interval * 16)
  | none => false

/-- What an accepted edge with an interval means for the sync state (the table after R11). -/
inductive Judgement where
  /-- The state stays as it is, with the tooth index given; `toothZero` when the edge is tooth 0 after a confirmed gap. -/
  | pass (tooth : Nat) (toothZero : Bool)
  /-- A new candidate gap: GAP_CHECK, tooth 0 (R7, R8). -/
  | candidate
  /-- The gap is confirmed at the end of GAP_CHECK (R8). -/
  | confirmed
  /-- The gap is missing in GAP_CHECK (R8), or the interval is not gap-like in GAP_SEARCH (R7). -/
  | search
  /-- A failed check in CRANK_SYNC or PHASED (R10); the failing interval was gap-like or not. -/
  | lost (gapLike : Bool)
  deriving DecidableEq, Repr

/-- R7 to R10 for an accepted edge with an interval. -/
def Tracker.judge (u : Setup) (t : Tracker) (gap : Bool) : Judgement :=
  let atGap := t.tooth == u.lastTooth
  match t.sync with
  | .noSignal => .search
  | .gapSearch => if gap then .candidate else .search
  | .gapCheck =>
    if atGap then (if gap then .confirmed else .search)
    else (if gap then .candidate else .pass (t.tooth + 1) false)
  | .crankSync =>
    if atGap then (if gap then .pass 0 true else .lost false)
    else (if gap then .lost true else .pass (t.tooth + 1) false)
  | .phased =>
    if atGap then (if gap then .pass 0 true else .lost false)
    else (if gap then .lost true else .pass (t.tooth + 1) false)

/-- The span of R3: M+1 when the edge is taken as tooth 0 by the decision of this edge, 1 otherwise. -/
def Judgement.span (u : Setup) : Judgement → Nat
  | .pass _ zero => if zero then u.m + 1 else 1
  | .candidate => u.m + 1
  | .confirmed => u.m + 1
  | .search => 1
  | .lost gap => if gap then u.m + 1 else 1

/-- Whether the edge makes the tracker enter, or begin afresh in, GAP_CHECK, where T_prev is set absent (R3, R8). -/
def Judgement.entersGapCheck : Judgement → Bool
  | .candidate => true
  | .lost gap => gap
  | .pass _ _ => false
  | .confirmed => false
  | .search => false

/-- The periods and the interval base after an accepted edge with an interval (R3, R11). -/
def Tracker.measure (u : Setup) (j : Judgement) (interval : Nat) (now : Time) (t : Tracker) : Tracker :=
  { t with
    lastTime := some now
    lastInterval := some interval
    tPrev := if j.entersGapCheck then none else t.tLast
    tLast := some (interval / j.span u)
    stallAt := some (Time.add now u.stallTicks) }

/-- The first edge after NO_SIGNAL (R6). -/
def Tracker.firstEdge (u : Setup) (now : Time) (t : Tracker) : Tracker :=
  { t with
    sync := .gapSearch
    lastTime := some now
    lastInterval := none
    tLast := none
    tPrev := none
    tPred := 0
    stallAt := some (Time.add now u.stallTicks)
    reacquire := true }

/-- T_pred at an accepted edge (R19). -/
def predict (linear : Bool) (tLast tPrev : Option Nat) : Nat :=
  match tLast, tPrev with
  | none, _ => 0
  | some x, none => x
  | some x, some y =>
    if linear then
      let raw : Int := x + (x - y)
      let lo : Int := (3 * x / 4 : Nat)
      let hi : Int := (5 * x / 4 : Nat)
      min maxInterval (max lo (min hi raw)).toNat
    else x

/-- The overspeed cut decided at an accepted edge that leaves T_last present (R22). -/
def overspeedAfter (period hyst : Nat) (tLast : Option Nat) (cut : Bool) : Bool :=
  match tLast with
  | none => cut
  | some x => if period = 0 then false else if x < period then true else if period + hyst < x then false else cut

/-- The unwrapped estimate of R20 above the last edge's angle: the steps turned, clamped to D − 1. -/
def stepsTurned (pitch d tPred elapsed : Nat) : Nat :=
  if tPred = 0 then (if elapsed = 0 then 0 else d - 1) else min (elapsed * pitch / tPred) (d - 1)

/-- The estimated angle at a time (R20). -/
def Tracker.estimate (u : Setup) (t : Tracker) (now : Time) : Nat :=
  match t.lastTime with
  | some l =>
    (t.lastAngle + stepsTurned u.pitch (u.distance t.sync t.tooth) t.tPred (Time.since now l)) % cycleSteps
  | none => t.lastAngle

/-- The estimated angle, for a state with a setup copy. -/
def State.estimate (s : State) : Nat :=
  match s.su.setup with
  | some u => s.trk.estimate u s.now
  | none => s.trk.lastAngle

/-- The classes of a marker angle (R14). -/
inductive MarkerClass where
  | window | twin | outside
  deriving DecidableEq, Repr

/-- Whether an angle lies in the window from `lo` upward to `hi`, through 0 if `hi` is less than `lo`. -/
def inWindow (lo hi angle : Nat) : Bool :=
  decide ((angle + cycleSteps - lo) % cycleSteps ≤ (hi + cycleSteps - lo) % cycleSteps)

/-- The class of a marker angle: window, twin window (shifted by one revolution), or outside both (R14). -/
def Setup.classify (u : Setup) (angle : Nat) : MarkerClass :=
  if inWindow u.markerLo u.markerHi angle then .window
  else if inWindow u.markerLo u.markerHi ((angle + revSteps) % cycleSteps) then .twin
  else .outside

/-- The revolution bit inverted and the last edge angle shifted by 11,520 steps (R15, R16, R18). -/
def Tracker.shift (t : Tracker) : Tracker :=
  { t with rev := !t.rev, lastAngle := (t.lastAngle + revSteps) % cycleSteps }

/-- The move to NO_SIGNAL of R1: the values of R2 for LOAD, but for the cycle counter. The status block counters are not
among them. -/
def Tracker.idle (t : Tracker) : Tracker :=
  { Tracker.reset with
    cycle := t.cycle, noiseEdges := t.noiseEdges, markerErrors := t.markerErrors, syncLosses := t.syncLosses }

/-- The tracker at stall expiry (R11). -/
def Tracker.stalled (t : Tracker) : Tracker :=
  { t with
    sync := .noSignal
    lastTime := none
    lastInterval := none
    tLast := none
    tPrev := none
    phaseAssumed := false
    errorRun := 0
    markerSeen := false
    overspeedCut := false
    stallAt := none
    reacquire := true }

end Sys2Proof.Machine
end

