-- ==== Sys2Proof/Machine/Events.lean ====
section
/-! DEFINITION. The event table (02, R40 to R47): updating the pulses of an event in flight, withdrawing pulses that have
not been granted (R23, R42, R75, R99), completing an event and writing it back, and the run controller's test of the
empty table (R135, R136). -/

namespace Sys2Proof.Machine

/-! ## Run state -/

/-- A change of run state raises RUN_STATE (R130). -/
def State.changeRun (r : RunState) (s : State) : State :=
  (s.setCtl { s.ctl with run := r }).raise .runState

/-- Whether the event table is empty. -/
def State.tableEmpty (s : State) : Bool := CylId.all.all (fun k => (s.cyl k).event.isNone)

/-- Whether the stop mode waits for the event table to empty: EVENT or CUT (R135, R136). -/
def StopMode.drains : StopMode → Bool
  | .event => true
  | .cut => true
  | .none => false
  | .cycle => false

/-- The test of the event table in STOPPING under mode EVENT or CUT: when it is empty, READY (R135, R136, R139). -/
def State.checkStopped (s : State) : State :=
  if s.ctl.run = .stopping ∧ s.ctl.stopMode.drains = true ∧ s.tableEmpty = true then
    (s.setCtl { s.ctl with stopMode := .none }).changeRun .ready
  else s

/-! ## Pulses of events in flight -/

/-- Changes the pulse with an entry index. -/
def modPulses (index : Nat) (f : Pulse → Pulse) (l : List Pulse) : List Pulse :=
  l.map (fun p => if p.plan.index = index then f p else p)

/-- Changes the event of a cylinder, if it has the sequence. -/
def State.modEvent (k : CylId) (seq : Word) (f : Event → Event) (s : State) : State :=
  match (s.cyl k).event with
  | some e => if e.seq = seq then s.setCyl k { s.cyl k with event := some (f e) } else s
  | none => s

/-- Changes one pulse of an event in flight. -/
def State.modPulse (k : CylId) (seq : Word) (index : Nat) (f : Pulse → Pulse) (s : State) : State :=
  s.modEvent k seq (fun e => { e with pulses := modPulses index f e.pulses })

/-- The event of a cylinder with a sequence. -/
def State.eventOf (s : State) (k : CylId) (seq : Word) : Option Event :=
  match (s.cyl k).event with
  | some e => if e.seq = seq then some e else none
  | none => none

/-- A pulse of an event in flight. -/
def State.pulseOf (s : State) (k : CylId) (seq : Word) (index : Nat) : Option Pulse :=
  match s.eventOf k seq with
  | some e => e.pulses.find? (fun p => p.plan.index == index)
  | none => none

/-- A pulse that a drop can still reach: PENDING, ARMED or WAITING. -/
def PulseCond.droppable : PulseCond → Bool
  | .pending => true
  | .armed => true
  | .waiting => true
  | .active => false
  | .quench => false
  | .resolved => false

/-- The slip of a pulse dropped at `now`: drop time minus armed start once it has requested its bank, 0 before (R47). -/
def Pulse.dropSlip (now : Time) (p : Pulse) : Nat :=
  if p.cond = .waiting then (match p.start with | some t => Time.since now t | none => 0) else 0

/-- A pulse resolved by a drop (R41). -/
def Pulse.drop (now : Time) (o : PulseOutcome) (p : Pulse) : Pulse :=
  if p.cond.droppable then { p with cond := .resolved, outcome := some o, slip := p.dropSlip now } else p

/-- How many pulses of an event a drop reaches. -/
def Event.droppable (e : Event) : Nat := (e.pulses.filter (fun p => p.cond.droppable)).length

/-- The event of a cylinder after its droppable pulses are dropped. -/
def Cylinder.dropPulses (now : Time) (o : PulseOutcome) (c : Cylinder) : Cylinder :=
  { c with event := c.event.map (fun e => { e with pulses := e.pulses.map (Pulse.drop now o) }) }

/-- A wait list after the requests of the reached cylinders have left it; a change of head stops the head timer (R89). -/
def Bank.withdraw (reach : CylId → Bool) (x : Bank) : Bank :=
  let w := x.waiting.filter (fun r => !reach r.cyl)
  { x with waiting := w, headAt := if w.head? = x.waiting.head? then x.headAt else none }

/-- A drop cause that reaches every PENDING, ARMED and WAITING pulse of the cylinders `reach` (R75, R99): each leaves the
pending list, the armed set or its wait list, and is resolved with the outcome. All of them are removed before any
grant check is made. -/
def State.withdraw (reach : CylId → Bool) (o : PulseOutcome) (s : State) : State :=
  let s := s.setCyls (s.cyls.map fun k c => if reach k then c.dropPulses s.now o else c)
  let s := s.setArm ⟨s.arm.pendingList.filter (fun e => !reach e.cyl), s.arm.armedSet.filter (fun e => !reach e.entry.cyl)⟩
  s.setBanks (s.banks.map fun _ x => x.withdraw reach)

/-- A conflict is counted on a bank, its word written, and CONFLICT raised (R101). -/
def State.conflict (bk : BankId) (s : State) : State :=
  let x := { s.bank bk with conflicts := satCount (s.bank bk).conflicts }
  ((s.setBank bk x).statusAll (conflictWords bk x)).raise .conflict

/-- Several conflicts, each counted and written at its own cause (R101, R182). -/
def State.conflicts (bk : BankId) : Nat → State → State
  | 0, s => s
  | n + 1, s => (s.conflict bk).conflicts bk n

/-! ## Completion and write-back -/

/-- FIRED, TRUNCATED and CAPPED count as delivered (R45). -/
def PulseOutcome.delivered : PulseOutcome → Bool
  | .fired => true
  | .truncated => true
  | .capped => true
  | .openFault => false
  | .shortFault => false
  | .missedAngle => false
  | .slipDrop => false
  | .capDrop => false
  | .syncDrop => false
  | .stopDrop => false
  | .abortDrop => false
  | .quarantineDrop => false
  | .overrunDrop => false

/-- The outcome of an event from its pulses' outcomes (R45). -/
def eventOutcome (l : List Pulse) : EventOutcome :=
  if l.all (fun p => p.outcome == some .fired) then .complete
  else if l.any (fun p => match p.outcome with | some o => o.delivered | none => false) then .partlyFired
  else .noneFired

/-- The byte offset of a record (02). -/
def recordOffset (i : Nat) : Nat := 0x1000 + 128 * i

/-- PFLAGS of a pulse (R47). -/
def Pulse.flags (dry : Bool) (p : Pulse) : Nat :=
  p.late.toNat + 2 * p.boostLow.toNat + 4 * dry.toNat + 8 * p.crowded.toNat

/-- The five words of pulse result slot `i` (R47): all 0, outcome UNUSED, where the entry is unused. -/
def resultWords (dry : Bool) (l : List Pulse) (i : Nat) : List Word :=
  match l.find? (fun p => p.plan.index == i) with
  | some p => [bytePair ((p.outcome.map PulseOutcome.code).getD 0) (p.flags dry), BitVec.ofInt 16 p.startAngle,
      sat16 p.slip, sat16 p.driven, sat16 p.peak]
  | none => [0, 0, 0, 0, 0]

/-- Writes words at consecutive word offsets. -/
def State.writeWords (off : Nat) (l : List Word) (s : State) : State :=
  match l with
  | [] => s
  | w :: rest => State.writeWords (off + 2) rest (s.writeWord off w)

/-- The five pulse results of a record. -/
def State.writeResults (rec : Nat) (dry : Bool) (l : List Pulse) (s : State) : State :=
  s.writeWords (rec + 0x30) ((List.range 5).flatMap (resultWords dry l))

/-- The STATE codes of a record (02, The record and its STATE). -/
def stateFree : Nat := 0
def stateReady : Nat := 1
def stateTaken : Nat := 2
def stateDone : Nat := 3
def stateAbortReq : Nat := 4

/-- Step 1 of R46: the results, TOTAL_DRIVE, EVENT_OUTCOME with EVENT_FLAGS, then the STATE word with DONE and CYL. That the 25
result words come in rising order, and TOTAL_DRIVE before the outcome, is the model's (DESIGN CHOICE, assumption 31). -/
def State.writeBack (k : CylId) (e : Event) (i : Nat) (s : State) : State :=
  let rec' := recordOffset i
  (((s.writeResults rec' e.dry e.pulses).writeWord (rec' + 0x2E) (sat16 e.drive)).writeWord (rec' + 0x26)
    (bytePair (eventOutcome e.pulses).code e.dry.toNat)).writeWord rec' (bytePair stateDone k.number)

/-- Step 2 of R46: the cylinder's status entry receives the source, the outcome and the sequence. -/
def State.closeEntry (k : CylId) (src : Source) (o : EventOutcome) (seq : Word) (s : State) : State :=
  let c := { s.cyl k with lastSource := src, lastOutcome := some o, lastSeq := seq }
  (s.setCyl k c).statusAll (cylLastWords k c)

/-- Step 3 of R46. -/
def State.notifyDone (notify : Bool) (s : State) : State := if notify then s.raise .eventDone else s

/-- Steps 1 to 3 of R46 for an event whose pulses are all resolved. -/
def State.report (k : CylId) (e : Event) (s : State) : State :=
  let s1 := match e.record with
    | some i => s.writeBack k e i
    | none => s
  (s1.closeEntry k e.source (eventOutcome e.pulses) e.seq).notifyDone (e.notify && e.source == .plan)

/-- Every used pulse is RESOLVED. -/
def Event.done (e : Event) : Bool := e.pulses.all (fun p => p.cond == .resolved)

/-- An event completes: R46, and the run controller's test of the event table (R135). -/
def State.finish (k : CylId) (e : Event) (s : State) : State :=
  let s := s.report k e
  (s.setCyl k { s.cyl k with event := none }).checkStopped

/-- The event latch judges whether the event of a cylinder is complete (R45, R77). -/
def State.settle (s : State) (k : CylId) : State :=
  match (s.cyl k).event with
  | some e => if e.done then s.finish k e else s
  | none => s

/-- The judgement for every cylinder, after a cause that resolved several pulses (R77, R136), from cylinder 1 to 8 (DESIGN CHOICE,
assumption 33). -/
def State.settleAll (s : State) : State := CylId.all.foldl State.settle s

end Sys2Proof.Machine
end

