-- ==== Sys2Proof/Machine/Channels.lean ====
section
/-! DEFINITION. The drive channels (06): gates and threshold codes of a condition, the playing of a profile from one phase
entry to rest or end, the end of a played pulse (R113), fault counting and quarantine (R118 to R120), the quench (R115,
R116), and the release of the bank (R95, R83, R98). -/

namespace Sys2Proof.Machine

/-! ## Gates and codes -/

/-- The boost gate of a condition (R103). -/
def ChannelCond.boostGate : ChannelCond → Bool
  | .boostRise onBoost _ => onBoost
  | .batteryRise _ => false
  | .freewheel => false
  | .hold _ => false
  | .quench => false

/-- The battery gate of a condition (R103). -/
def ChannelCond.batteryGate : ChannelCond → Bool
  | .boostRise onBoost _ => !onBoost
  | .batteryRise _ => true
  | .freewheel => false
  | .hold charging => charging
  | .quench => false

/-- The low side of the played cylinder in a condition (R103). -/
def ChannelCond.lowSide : ChannelCond → Bool
  | .boostRise _ _ => true
  | .batteryRise _ => true
  | .freewheel => true
  | .hold _ => true
  | .quench => false

/-- The upper, lower and short codes a playing channel presents (R104); 0 where not in use. -/
def Player.codes (p : Player) : Nat × Nat × Nat :=
  match p.cond with
  | .boostRise _ level => (level, 0, p.shortLevel)
  | .batteryRise level => (level, 0, p.shortLevel)
  | .freewheel => (0, 0, p.shortLevel)
  | .hold _ => (p.profile.holdUpper, p.profile.holdLower, p.shortLevel)
  | .quench => (0, p.quenchLevel, 0)

/-- The codes on the threshold link of a bank: three codes of 0 while the channel is IDLE (R188). -/
def Bank.codes (x : Bank) : Nat × Nat × Nat :=
  match x.channel with
  | some p => p.codes
  | none => (0, 0, 0)

/-- The boost and the battery high-side gate pins of a bank (R187). -/
def State.boostPin (s : State) (bk : BankId) : Bool :=
  match (s.bank bk).channel with
  | some p => p.cond.boostGate
  | none => false

def State.batteryPin (s : State) (bk : BankId) : Bool :=
  match (s.bank bk).channel with
  | some p => p.cond.batteryGate
  | none => false

/-- The low-side gate pin of a cylinder (R187). -/
def State.lowSidePin (s : State) (k : CylId) : Bool :=
  BankId.all.any fun bk =>
    match (s.bank bk).channel with
    | some p => p.cyl == k && p.cond.lowSide
    | none => false

/-- The current is at or above a code (R104: the upper and short inputs). -/
def senseAtLeast (x : BankSense) (code : Nat) : Bool := decide (code ≤ x.current.toNat)

/-- The current is below a code (R104: the lower input). -/
def senseUnder (x : BankSense) (code : Nat) : Bool := decide (x.current.toNat < code)

/-! ## Availability and release -/

/-- The bank's state is changed and written into its status entry (R101). -/
def State.setMode (bk : BankId) (m : BankMode) (s : State) : State :=
  let x := { s.bank bk with mode := m }
  (s.setBank bk x).statusAll (bankModeWords bk x)

/-- The later of two times, an absent one dropped (R83, R85). -/
def latestOf : Option Time → Option Time → Option Time
  | some x, some y => some (Time.latest x y)
  | some x, none => some x
  | none, y => y

/-- The availability instant of a request (R85): none when every term is dropped. -/
def Bank.instant (x : Bank) (r : Request) : Option Time :=
  latestOf (x.releaseAt.map (Time.add · r.minDwell))
    (if r.boost then x.boostEnd.map (Time.add · r.recharge) else none)

/-- The current time has reached the availability instant (R85). -/
def Bank.reached (x : Bank) (r : Request) (now : Time) : Bool :=
  match x.instant r with
  | some i => !Time.later i now
  | none => true

/-- The head timer stands at the head's availability instant while the bank has no holder (R89). -/
def Bank.headTimer (x : Bank) (now : Time) : Option Time :=
  match x.waiting with
  | r :: _ => some ((x.instant r).getD now)
  | [] => none

/-- The grant check of R89 made at a release: MIN_DWELL is at least 50 ticks (R157), so no head's availability instant
has been reached there, and the check sets the head timer. -/
def State.headCheck (bk : BankId) (s : State) : State :=
  let x := s.bank bk
  if x.holder.isNone then s.setBank bk { x with headAt := x.headTimer s.now } else s

/-- The settle expiry of a release (R83). -/
def Bank.settleExpiry (x : Bank) (t : Trim) (now : Time) : Option Time :=
  latestOf (some (Time.add now t.minDwell)) (x.boostEnd.map (Time.add · t.rechargeGuard))

/-- A release (R83, R95): the holder is cleared, the release time recorded, SETTLING begins with its settle expiry. Of these the
state alone is written into the status block: R83 also names the release time there, R101 says that it is written nowhere
(DESIGN CHOICE, assumption 35). -/
def State.release (bk : BankId) (s : State) : State :=
  (s.setBank bk { s.bank bk with
    holder := none
    releaseAt := some s.now
    settleAt := (s.bank bk).settleExpiry s.su.trim s.now }).setMode bk .settling

/-! ## Faults and quarantine -/

/-- R119: a delivery clears the consecutive faults. -/
def State.clearFaults (k : CylId) (s : State) : State :=
  let c := { s.cyl k with faults := 0 }
  (s.setCyl k c).statusAll (faultWords k c)

/-- R120: the cylinder is quarantined and its ungranted pulses are dropped. -/
def State.quarantine (k : CylId) (s : State) : State :=
  let c := { s.cyl k with quarantined := true }
  (((s.setCyl k c).statusAll (cylStateWords k c)).raise .quarantine).withdraw (· == k) .quarantineDrop

/-- The quarantine test against the FAULT_LIMIT held (R120, R121). -/
def State.quarantineTest (k : CylId) (s : State) : State :=
  if s.faultLimit ≤ (s.cyl k).faults then s.quarantine k else s

/-- R118: a fault is counted, both counts written (CONSEC_FAULTS first: DESIGN CHOICE, assumption 31), PULSE_FAULT raised and
the quarantine test made. -/
def State.countFault (k : CylId) (s : State) : State :=
  let c := { s.cyl k with faults := (s.cyl k).faults + 1, faultTotal := satCount (s.cyl k).faultTotal }
  (((s.setCyl k c).statusAll (faultWords k c ++ faultTotalWords k c)).raise .pulseFault).quarantineTest k

/-- Whether an outcome is a pulse fault. -/
def PulseOutcome.isFault : PulseOutcome → Bool
  | .openFault => true
  | .shortFault => true
  | .fired => false
  | .truncated => false
  | .capped => false
  | .missedAngle => false
  | .slipDrop => false
  | .capDrop => false
  | .syncDrop => false
  | .stopDrop => false
  | .abortDrop => false
  | .quarantineDrop => false
  | .overrunDrop => false

/-- Step 4 of R113, with step 5. -/
def State.countEnd (k : CylId) (o : PulseOutcome) (s : State) : State :=
  if o.isFault then s.countFault k else s.clearFaults k

/-! ## The event drive cap -/

/-- The cap of an event is reached: its ungranted pulses are dropped CAP_DROP, each counted as a conflict (R97). -/
def State.dropCapped (k : CylId) (e : Event) (s : State) : State :=
  (s.withdraw (· == k) .capDrop).conflicts (s.bankOf k) e.droppable

/-- Step 6 of R113: whether an end has brought the cumulative drive to EVENT_DRIVE_MAX (R97). -/
def State.capCheck (k : CylId) (seq : Word) (o : PulseOutcome) (s : State) : State :=
  match s.eventOf k seq with
  | some e => if o = .capped ∨ e.snap.driveMax ≤ e.drive then s.dropCapped k e else s
  | none => s

/-! ## The end of a pulse -/

/-- The results of an end written into the pulse of an event in flight, and its DRIVEN into the cumulative drive (R95, R96,
R117). -/
def State.endInEvent (k : CylId) (seq : Word) (index : Nat) (c : PulseCond) (r : PulseResult) (s : State) : State :=
  (s.modPulse k seq index (fun p =>
      { p with cond := c, outcome := some r.outcome, driven := r.driven, peak := r.peak, boostLow := r.boostLow })).modEvent
    k seq (fun e => { e with drive := e.drive + r.driven })

/-- What is fixed at the end of a played pulse at time `t` (R113 step 2). -/
def Player.resultAt (p : Player) (o : PulseOutcome) (t : Time) : PulseResult :=
  ⟨o, Time.since t p.grantedAt, p.peak.getD 0, p.boostLow⟩

/-- The service entry at the end of a service pulse (R125). -/
def ServiceEntry.ended (e : ServiceEntry) (r : PulseResult) : ServiceEntry :=
  { e with
    flags := bytePair (2 * r.boostLow.toNat) 0
    driven := sat16 r.driven
    peak := sat16 r.peak
    outcome := lowByte r.outcome.code }

/-- The service entry is written and SERVICE_DONE raised (R125). -/
def State.serviceDone (r : PulseResult) (s : State) : State :=
  let e := s.sb.service.ended r
  ((s.setSb { s.sb with service := e }).statusAll (serviceEndWords e)).raise .serviceDone

/-- The result of a service pulse is written at its quench end (R125). -/
def State.serviceResult (p : Player) (s : State) : State :=
  match p.result with
  | some r => s.serviceDone r
  | none => s

/-- The channel becomes IDLE, its player emptied, and the bank releases (R116). -/
def State.freeBank (bk : BankId) (s : State) : State := (s.setBank bk { s.bank bk with channel := none }).release bk

/-- Quench end (R116): the channel becomes IDLE, the bank releases, and the pulse is reported RESOLVED, unless an overrun
has resolved its event before (R42). The event latch has yet to judge completion (R77). -/
def State.quenchOver (bk : BankId) (s : State) : State :=
  match (s.bank bk).channel with
  | none => s
  | some p =>
    match p.job with
    | .service _ => ((s.serviceResult p).freeBank bk).headCheck bk
    | .event seq index _ _ =>
      ((s.freeBank bk).modPulse p.cyl seq index fun q => { q with cond := .resolved }).headCheck bk

/-- The event latch judges completion of the event of a played pulse (R77); the service pulse has none. -/
def State.judge (p : Player) (s : State) : State :=
  match p.job with
  | .event _ _ _ _ => s.settle p.cyl
  | .service _ => s

/-- Quench end (R116), with the completion it may bring (R77). -/
def State.quenchEnd (bk : BankId) (s : State) : State :=
  match (s.bank bk).channel with
  | none => s
  | some p => (s.quenchOver bk).judge p

/-- A current already below QUENCH_LEVEL ends the quench at its entry (R115). -/
def State.quenchStanding (bk : BankId) (level : Nat) (s : State) : State :=
  if senseUnder (s.senseOf bk) level then s.quenchOver bk else s

/-- The quench begins (R115): QUENCH_LEVEL is presented and the quench expiry starts. -/
def State.startQuench (bk : BankId) (s : State) : State :=
  match (s.bank bk).channel with
  | none => s
  | some p =>
    (s.setBank bk { s.bank bk with channel := some { p with quenchAt := some (Time.add s.now p.quenchMax) } }).quenchStanding
      bk p.quenchLevel

/-- The end of a played pulse is reported: to its event, unless it is the service pulse (R95, R113 step 3). -/
def State.reportEnd (p : Player) (r : PulseResult) (s : State) : State :=
  match p.job with
  | .event seq index _ _ => s.endInEvent p.cyl seq index .quench r
  | .service _ => s

/-- Steps 1 to 3 of R113: gates off, the boost end reported if the boost gate was on, the results fixed, the bank in QUENCH
with the same holder and its cap expiry stopped. -/
def State.fixEnd (bk : BankId) (p : Player) (o : PulseOutcome) (s : State) : State :=
  ((s.setBank bk { s.bank bk with
    channel := some { p with cond := .quench, phaseTimer := none, result := some (p.resultAt o s.now) }
    boostEnd := if p.cond.boostGate then some s.now else (s.bank bk).boostEnd
    capAt := none }).setMode bk .quench).reportEnd p (p.resultAt o s.now)

/-- Step 6 of R113, for an event pulse. -/
def State.capPlayed (p : Player) (o : PulseOutcome) (s : State) : State :=
  match p.job with
  | .event seq _ _ _ => s.capCheck p.cyl seq o
  | .service _ => s

/-- The end of a played pulse, with its outcome (R113), up to the judgement of its event (R77). A channel already in QUENCH
is left to run (R114). -/
def State.stopPlayed (bk : BankId) (o : PulseOutcome) (s : State) : State :=
  match (s.bank bk).channel with
  | none => s
  | some p =>
    if p.cond = .quench then s
    else (((s.fixEnd bk p o).countEnd p.cyl o).capPlayed p o).startQuench bk

/-- The end of a played pulse (R113): a quench that ends at its entry has resolved the pulse (R115, R116), and its event is
judged (R77). -/
def State.endPlayed (bk : BankId) (o : PulseOutcome) (s : State) : State :=
  match (s.bank bk).channel with
  | none => s
  | some p =>
    let u := s.stopPlayed bk o
    if (u.bank bk).channel.isNone then u.judge p else u

/-- The end of a dry holder, by the arbiter itself (R98): RESOLVED at once, the bank released with no quench. Where the end
reaches the cap (R97), its drops are made and counted before the release (DESIGN CHOICE, assumption 31). The event latch has yet to
judge completion (R77). -/
def State.stopDry (bk : BankId) (h : Holder) (o : PulseOutcome) (s : State) : State :=
  match h.job with
  | .service _ => s
  | .event seq index _ _ =>
    (((((s.setBank bk { s.bank bk with capAt := none, dryEndAt := none }).endInEvent h.cyl seq index .resolved
      ⟨o, Time.since s.now h.grantedAt, 0, false⟩).capCheck h.cyl seq o).release bk).headCheck bk)

/-- The end of a dry holder (R98), with the completion it may bring (R77). -/
def State.endDry (bk : BankId) (h : Holder) (o : PulseOutcome) (s : State) : State :=
  match h.job with
  | .service _ => s
  | .event _ _ _ _ => (s.stopDry bk h o).settle h.cyl

/-- Whether a holder is dry. -/
def Holder.dry (h : Holder) : Bool :=
  match h.job with
  | .event _ _ _ dry => dry
  | .service _ => false

/-- An outside end of the ACTIVE holder of a bank (R100, R113): a dry holder releases, a played one goes to QUENCH. -/
def State.endHolder (bk : BankId) (o : PulseOutcome) (s : State) : State :=
  match (s.bank bk).holder with
  | none => s
  | some h =>
    if (s.bank bk).mode = .active then (if h.dry then s.endDry bk h o else s.endPlayed bk o) else s

/-- The same end where events of several banks are to be judged after all of them (R136, R77). -/
def State.stopHolder (bk : BankId) (o : PulseOutcome) (s : State) : State :=
  match (s.bank bk).holder with
  | none => s
  | some h =>
    if (s.bank bk).mode = .active then (if h.dry then s.stopDry bk h o else s.stopPlayed bk o) else s

/-! ## Playing a profile -/

/-- What playing marks on the way: the phase reached, the peak time, the BOOST_LOW mark, the low BOOST_OK samples taken, and
the free values consulted. -/
structure PlayMarks where
  phase : Nat
  peak : Option Nat
  boostLow : Bool
  lows : Nat
  free : Nat
  deriving DecidableEq, Repr

/-- Where the player comes to rest at an instant: in a condition with its phase timer, or ended by a standing short
report. -/
inductive PlayStop where
  | rest (cond : ChannelCond) (timer : Option Time)
  | short
  deriving DecidableEq, Repr

/-- A phase ended at its own entry, and whether a short report that stands there too was taken first (R112). -/
def PlayMarks.shortFirst (m : PlayMarks) (short : Bool) : Bool := short && Config.shortTakenFirst m.free

/-- The marks once that question has been settled: a free value has been consulted where it arose. -/
def PlayMarks.consult (m : PlayMarks) (short : Bool) : PlayMarks := { m with free := m.free + short.toNat }

/-- The marks after a phase that ended at its entry. -/
def PlayMarks.next (m : PlayMarks) (short : Bool) : PlayMarks := { m.consult short with phase := m.phase + 1 }

/-- The peak time is set by the first rise phase that ends by reaching its level (R107). -/
def PlayMarks.reach (m : PlayMarks) (ticks : Nat) : PlayMarks := { m with peak := some (m.peak.getD ticks) }

/-- A BOOST_RISE samples BOOST_OK once, at its entry; a low sample is marked and counted (R107). -/
def PlayMarks.sample (m : PlayMarks) (boostOk : Bool) : PlayMarks :=
  if boostOk then m else { m with boostLow := true, lows := m.lows + 1 }

/-- Enters the phases of a list one after another at one instant (R106), until one does not end at its entry. `sense` is
what the inputs show there against any code (R104); `ticks` is the time since the grant. -/
def playFrom (p : Player) (sense : BankSense) (now : Time) : List Ramp → PlayMarks → PlayMarks × PlayStop
  | [], m =>
    if senseAtLeast sense p.shortLevel then (m, .short)
    else (m, .rest (.hold (!senseAtLeast sense p.profile.holdUpper)) none)
  | r :: rest, m =>
    let short := senseAtLeast sense p.shortLevel
    let ticks := Time.since now p.grantedAt
    match r with
    | .boostRise level limit =>
      let m := m.sample sense.boostOk
      if senseAtLeast sense level then
        if m.shortFirst short then (m.consult short, .short)
        else playFrom p sense now rest ((m.reach ticks).next short)
      else if short then (m, .short)
      else (m, .rest (.boostRise sense.boostOk level) (some (Time.add now limit)))
    | .batteryRise level limit =>
      if senseAtLeast sense level then
        if m.shortFirst short then (m.consult short, .short)
        else playFrom p sense now rest ((m.reach ticks).next short)
      else if short then (m, .short)
      else (m, .rest (.batteryRise level) (some (Time.add now limit)))
    | .freewheel time =>
      if time = 0 then
        if m.shortFirst short then (m.consult short, .short) else playFrom p sense now rest (m.next short)
      else if short then (m, .short)
      else (m, .rest .freewheel (some (Time.add now time)))

/-- BOOST_LOW_COUNT rises by one low sample and is written into the bank's entry (R107). -/
def State.countLow (bk : BankId) (s : State) : State :=
  let x := { s.bank bk with boostLowCount := satCount (s.bank bk).boostLowCount }
  (s.setBank bk x).statusAll (boostLowWords bk x)

/-- The low samples of one instant, each counted and written by itself (R107, R182). -/
def State.countBoostLow (bk : BankId) : Nat → State → State
  | 0, s => s
  | n + 1, s => (s.countLow bk).countBoostLow bk n

/-- The player with the marks that playing made; its phase timer, if it has one, is set where it comes to rest. -/
def Player.mark (p : Player) (m : PlayMarks) : Player :=
  { p with phase := m.phase, peak := m.peak, boostLow := m.boostLow, phaseTimer := none }

/-- The player comes to rest, or is ended by a standing short report. The boost end is reported when the boost gate goes
from on to off (R84). A BOOST_RISE ended by that report at its own entry has not turned the gate on (DESIGN CHOICE, assumption
36). -/
def State.comeToRest (bk : BankId) (p : Player) (stop : PlayStop) (s : State) : State :=
  match stop with
  | .short => (s.setBank bk { s.bank bk with channel := some p }).endPlayed bk .shortFault
  | .rest cond timer =>
    s.setBank bk { s.bank bk with
      channel := some { p with cond := cond, phaseTimer := timer }
      boostEnd := if p.cond.boostGate && !cond.boostGate then some s.now else (s.bank bk).boostEnd }

/-- Where the player of a bank gets to from phase `k` on. -/
def State.playPhases (s : State) (bk : BankId) (p : Player) (k : Nat) : PlayMarks × PlayStop :=
  playFrom p (s.senseOf bk) s.now (p.profile.ramps.drop k) ⟨k, p.peak, p.boostLow, 0, s.freeCount⟩

/-- The player of a bank enters phase `k` (R106). -/
def State.enterPhase (bk : BankId) (k : Nat) (s : State) : State :=
  match (s.bank bk).channel with
  | none => s
  | some p =>
    ((s.setFreeCount (s.playPhases bk p k).1.free).countBoostLow bk (s.playPhases bk p k).1.lows).comeToRest bk
      (p.mark (s.playPhases bk p k).1) (s.playPhases bk p k).2

/-- The player as it is engaged (R105), before phase 0 is entered. -/
def Setup.player (u : Setup) (bk : BankId) (job : Job) (k : CylId) (profile duration : Nat) (now : Time) : Player where
  cond := .freewheel
  job := job
  cyl := k
  profile := (u.profiles[profile]?).getD ⟨[], 0, 0⟩
  phase := 0
  shortLevel := (u.banks.get bk).shortLevel
  quenchLevel := (u.banks.get bk).quenchLevel
  quenchMax := (u.banks.get bk).quenchMax
  grantedAt := now
  durationAt := Time.add now duration
  phaseTimer := none
  quenchAt := none
  peak := none
  boostLow := false
  result := none

/-- The channel is engaged (R105): profile and bank parameters copied, the low side turned on, phase 0 entered. -/
def State.engage (bk : BankId) (job : Job) (k : CylId) (profile duration : Nat) (s : State) : State :=
  match s.su.setup with
  | none => s
  | some u =>
    (s.setBank bk { s.bank bk with channel := some (u.player bk job k profile duration s.now) }).enterPhase bk 0

/-! ## The channel's own events -/

/-- The current of a rise phase reaches its level: the first such phase sets the peak time, and the next phase is entered
(R107). -/
def State.levelReached (bk : BankId) (p : Player) (s : State) : State :=
  let p' := { p with peak := some (p.peak.getD (Time.since s.now p.grantedAt)) }
  (s.setBank bk { s.bank bk with channel := some p' }).enterPhase bk (p.phase + 1)

/-- HOLD switches between CHARGE and DECAY (R110). -/
def State.setHolding (bk : BankId) (p : Player) (charging : Bool) (s : State) : State :=
  s.setBank bk { s.bank bk with channel := some { p with cond := .hold charging } }

end Sys2Proof.Machine
end

