-- ==== Sys2Proof/Machine/Arbiter.lean ====
section
/-! DEFINITION. The bank arbiters (05): the order of the wait list (R87), grants (R89, R90), requests with preemption and
crowding (R86, R88, R93), and drops at a deadline (R91). -/

namespace Sys2Proof.Machine

/-! ## Order -/

/-- MAIN before PILOT before POST (R87). -/
def Kind.rank : Kind → Nat
  | .main => 0
  | .pilot => 1
  | .post => 2

/-- The wait-list order of R87 on kind, armed start, event sequence and entry index. -/
def ranksBefore (k1 k2 : Kind) (t1 t2 : Time) (q1 q2 : Word) (i1 i2 : Nat) : Bool :=
  if k1.rank ≠ k2.rank then decide (k1.rank < k2.rank)
  else if t1 ≠ t2 then Time.later t2 t1
  else if q1 ≠ q2 then decide (wordDiff q1 q2 < 0)
  else decide (i1 < i2)

def Request.before (x y : Request) : Bool := ranksBefore x.kind y.kind x.start y.start x.seq y.seq x.index y.index

/-! ## Grant -/

/-- The grant lies no earlier than the armed start and no later than the slip deadline (R91): the time since the start is
at most the time from start to deadline (DEDUCED, assumption 15). -/
def Request.inTime (r : Request) (now : Time) : Bool :=
  decide (Time.since now r.start ≤ Time.since r.deadline r.start)

/-- START_ANGLE at a grant (R47): the estimated angle less TDC_ANGLE, normalised into −11,520..11,519; 0 where the tracker
has no defined angle (R90). -/
def State.startAngle (s : State) (k : CylId) : Int :=
  match s.su.setup with
  | some u =>
    if s.trk.angleKnown then ((s.estimate : Int) - ((u.cyls.get k).tdc : Int) + 11520) % 23040 - 11520 else 0
  | none => 0

/-- The cap expiry of a grant: EVENT_DRIVE_MAX less the cumulative drive after the grant (R96). -/
def State.capExpiry (s : State) (k : CylId) (seq : Word) : Option Time :=
  (s.eventOf k seq).map (fun e => Time.add s.now (e.snap.driveMax - e.drive))

/-- The bank of a new holder (R90): the settle and head timers stop, the cap expiry starts. -/
def Bank.grantedTo (x : Bank) (r : Request) (cap : Option Time) (now : Time) : Bank :=
  { x with
    holder := some ⟨.event r.seq r.index r.kind r.dry, r.cyl, now⟩
    settleAt := none
    headAt := none
    capAt := cap
    dryEndAt := if r.dry then some (Time.add now r.duration) else none }

/-- Steps 2 to 6 of R90: the pulse becomes the holder. -/
def State.makeHolder (bk : BankId) (r : Request) (s : State) : State :=
  ((s.setBank bk ((s.bank bk).grantedTo r (s.capExpiry r.cyl r.seq) s.now)).setMode bk .active).modPulse r.cyl r.seq r.index
    fun p => { p with cond := .active, slip := Time.since s.now r.start, startAngle := s.startAngle r.cyl }

/-- A pulse that is not dry is handed to the drive channel (R90 step 7); a dry one is held by the arbiter itself (R98). -/
def State.drivePulse (bk : BankId) (r : Request) (s : State) : State :=
  if r.dry then s else s.engage bk (.event r.seq r.index r.kind r.dry) r.cyl r.profile r.duration

/-- A grant (R90). -/
def State.grant (bk : BankId) (r : Request) (s : State) : State := (s.makeHolder bk r).drivePulse bk r

/-- The grant check (R89), when the bank has no holder: the head is granted if the bank is available to it, or else the head
timer is set. -/
def State.grantCheck (bk : BankId) (s : State) : State :=
  let x := s.bank bk
  if x.holder.isSome then s
  else
    match x.waiting with
    | [] => s.setBank bk { x with headAt := none }
    | r :: rest =>
      if x.reached r s.now && r.inTime s.now then (s.setBank bk { x with waiting := rest }).grant bk r
      else s.setBank bk { x with headAt := x.headTimer s.now }

/-- The grant check for a new head (R89): made where the wait list's head is no longer `old`. -/
def State.recheck (bk : BankId) (old : Option Request) (s : State) : State :=
  if (s.bank bk).waiting.head? = old then s else s.grantCheck bk

/-! ## Drops of one waiting pulse -/

/-- A waiting pulse is resolved SLIP_DROP at time `t`, with CONFLICT (R88, R91). -/
def State.slipDrop (bk : BankId) (r : Request) (crowded : Bool) (t : Time) (s : State) : State :=
  ((s.modPulse r.cyl r.seq r.index (fun p =>
    { p with cond := .resolved, outcome := some .slipDrop, crowded := crowded, slip := Time.since t r.start })).conflict
      bk).settle r.cyl

/-- A request leaves a wait list; a change of head stops the head timer. -/
def Bank.remove (r : Request) (x : Bank) : Bank :=
  let w := x.waiting.filter (fun y => !(y.seq == r.seq && y.index == r.index))
  { x with waiting := w, headAt := if w.head? = x.waiting.head? then x.headAt else none }

/-! ## Requests -/

/-- The last entry of a wait list of five, which a join removes (R88). -/
def crowdedOut (l : List Request) : Option Request := if 5 ≤ l.length then l.getLast? else none

/-- The wait list of a bank with a request in its place (R87); a change of head stops the head timer. -/
def Bank.listed (x : Bank) (r : Request) : Bank :=
  let w := insertBy Request.before r x.waiting
  { x with waiting := w, headAt := if w.head? = x.waiting.head? then x.headAt else none }

/-- A pulse joins the wait list and becomes WAITING (R86 step 3). -/
def State.enterList (bk : BankId) (r : Request) (s : State) : State :=
  (s.setBank bk ((s.bank bk).listed r)).modPulse r.cyl r.seq r.index fun p => { p with cond := .waiting }

/-- A fifth pulse in the list removes the last (R88). -/
def State.crowd (bk : BankId) (s : State) : State :=
  match crowdedOut (s.bank bk).waiting with
  | some last => (s.setBank bk ((s.bank bk).remove last)).slipDrop bk last true s.now
  | none => s

/-- Step 3 of R86: the pulse joins the wait list; a fifth removes the last (R88); the grant check is made. -/
def State.join (bk : BankId) (r : Request) (s : State) : State := ((s.enterList bk r).crowd bk).grantCheck bk

/-- A MAIN preempts an ACTIVE POST holder of another event (R93, R94). -/
def Bank.preemptedBy (x : Bank) (r : Request) : Bool :=
  match x.holder with
  | some h =>
    match h.job with
    | .event seq _ kind _ => decide (r.kind = .main) && decide (kind = .post) && decide (x.mode = .active) && seq != r.seq
    | .service _ => false
  | none => false

/-- Whether a request is granted at once (R86 step 2). -/
def Bank.grantsAtOnce (x : Bank) (r : Request) (now : Time) : Bool :=
  x.holder.isNone && ((insertBy Request.before r x.waiting).head? == some r) && x.reached r now && r.inTime now

/-- A bank request (R86). -/
def State.request (bk : BankId) (r : Request) (s : State) : State :=
  if (s.bank bk).preemptedBy r then ((s.endHolder bk .truncated).conflict bk).join bk r
  else if (s.bank bk).grantsAtOnce r s.now then s.grant bk r
  else s.join bk r

end Sys2Proof.Machine
end

