-- ==== Sys2Proof/Machine/Arming.lean ====
section
/-! DEFINITION. The arming unit (04): positions and signed distances (R63, R64), the arming test (R66), the start-time
arithmetic (R68), lateness (R70, R71), the abort re-read (R43), the start expiry (R73) and the bank request (R74). -/

namespace Sys2Proof.Machine

/-- The order of the pending list (R62): target cycle by signed difference, position offset, sequence, entry index. The sequence
is compared by signed difference too, as in R87 (DESIGN CHOICE, assumption 14). -/
def ArmEntry.before (x y : ArmEntry) : Bool :=
  if x.target ≠ y.target then decide (wordDiff x.target y.target < 0)
  else if x.offset ≠ y.offset then decide (x.offset < y.offset)
  else if x.seq ≠ y.seq then decide (wordDiff x.seq y.seq < 0)
  else decide (x.index < y.index)

/-- The order in which requests made together are presented (R73). -/
def ArmedEntry.presentBefore (x y : ArmedEntry) : Bool :=
  ranksBefore x.entry.kind y.entry.kind x.start y.start x.entry.seq y.entry.seq x.entry.index y.entry.index

/-- The order of the armed set (R62): armed start by signed difference; equal starts in the order of R73. -/
def ArmedEntry.before (x y : ArmedEntry) : Bool :=
  if x.start ≠ y.start then Time.later y.start x.start else x.presentBefore y

/-- The signed distance of a position from an edge at cycle `c` and angle `e` (R64). -/
def signedDistance (target : Word) (offset : Int) (c : Word) (e : Nat) : Int :=
  wordDiff target c * 23040 + offset - e

/-- The angle-to-time offset Q in 48-bit unsigned arithmetic, rounded half-up (R68). -/
def angleToTime (s : Int) (tPred pitch : Nat) : BitVec 48 :=
  (BitVec.ofInt 48 s * BitVec.ofNat 48 tPred + BitVec.ofNat 48 (pitch / 2)) / BitVec.ofNat 48 pitch

/-- The armed start t_E + Q − LEAD, modulo 2^32 (R68). -/
def armedStart (tE : Time) (s : Int) (tPred pitch lead : Nat) : Time :=
  tE + (angleToTime s tPred pitch).truncate 32 - BitVec.ofNat 32 lead

/-- The slip limit of a kind, from an event's snapshot (R62). -/
def Snapshot.slipLimit (x : Snapshot) : Kind → Nat
  | .pilot => x.slipPilot
  | .main => x.slipMain
  | .post => x.slipPost

/-- The arming unit's entry of a pulse of an event of cylinder `k` (R62, R63). -/
def armEntryOf (u : Setup) (k : CylId) (e : Event) (p : PulseEntry) : ArmEntry where
  seq := e.seq
  cyl := k
  index := p.index
  kind := p.kind
  target := e.target
  offset := (u.cyls.get k).tdc + p.relAngle
  window := e.snap.armWindow
  slipLimit := e.snap.slipLimit p.kind
  lead := (u.cyls.get k).lead

/-! ## The abort re-read -/

/-- Whether the re-read of a record's STATE word finds ABORT_REQ or a parity error (R43). -/
def Memory.abortFound (m : Memory) (record : Nat) : Bool :=
  m.wordBad (recordOffset record) || loByte (m.readWord (recordOffset record)) == stateAbortReq

/-- The re-read's access, where the event has a record to re-read (R43). -/
def State.reread (k : CylId) (seq : Word) (s : State) : State :=
  match s.eventOf k seq with
  | some e => if e.record.isSome then s.turn else s
  | none => s

/-- The abort check of a pulse of an event: only events of source PLAN have a record to re-read (R43). -/
def State.abortMet (s : State) (k : CylId) (seq : Word) : Bool :=
  match s.eventOf k seq with
  | some e => match e.record with
    | some i => s.mem.abortFound i
    | none => false
  | none => false

/-- A pulse the arming unit holds is resolved with an outcome, and the event judged (R75, R77). -/
def State.resolveHeld (k : CylId) (seq : Word) (index : Nat) (o : PulseOutcome) (s : State) : State :=
  s.modPulse k seq index (fun p => { p with cond := .resolved, outcome := some o })

/-! ## Requests -/

/-- The request of a pulse whose start has come (R74), with MIN_DWELL and RECHARGE_GUARD of the trim in force (R85). -/
def State.requestFor (s : State) (a : ArmedEntry) : Option Request :=
  match s.eventOf a.entry.cyl a.entry.seq, s.pulseOf a.entry.cyl a.entry.seq a.entry.index, s.su.setup with
  | some e, some p, some u =>
    some
      { seq := a.entry.seq
        index := a.entry.index
        cyl := a.entry.cyl
        kind := a.entry.kind
        start := a.start
        deadline := Time.add a.start a.entry.slipLimit
        boost := match u.profiles[p.plan.profile]? with
          | some f => f.boostMark
          | none => false
        minDwell := s.su.trim.minDwell
        recharge := s.su.trim.rechargeGuard
        profile := p.plan.profile
        duration := p.plan.duration
        late := p.late
        dry := e.dry }
  | _, _, _ => none

/-- The bank request of a pulse that has not been resolved meanwhile. -/
def State.present (s : State) (a : ArmedEntry) : State :=
  match s.pulseOf a.entry.cyl a.entry.seq a.entry.index with
  | some p =>
    if p.cond.droppable then
      match s.requestFor a with
      | some r => s.request (s.bankOf a.entry.cyl) r
      | none => s
    else s
  | none => s

/-! ## Arming at an edge -/

/-- The part of an edge event that arming needs (R21): edge time, angle, D, T_pred, and the cycle counter after the edge's
own boundary. -/
structure EdgeView where
  time : Time
  angle : Nat
  d : Nat
  tPred : Nat
  cycle : Word
  reacquiring : Bool
  deriving DecidableEq, Repr

/-- The arming test (R66): s is less than W + D. -/
def EdgeView.passes (v : EdgeView) (e : ArmEntry) : Bool :=
  decide (signedDistance e.target e.offset v.cycle v.angle < (e.window : Int) + v.d)

/-- A late pulse gets LATE; its armed start stays as worked out (R70). -/
def State.markLate (a : ArmedEntry) (s : State) : State :=
  s.modPulse a.entry.cyl a.entry.seq a.entry.index fun p => { p with late := true, start := some a.start }

/-- A late pulse is kept for its request at once (R70), or resolved SLIP_DROP with CONFLICT when its lateness exceeds its
limit (R71). -/
def State.lateAt (v : EdgeView) (a : ArmedEntry) (acc : State × List ArmedEntry) : State × List ArmedEntry :=
  if Time.since v.time a.start ≤ a.entry.slipLimit then (acc.1.markLate a, acc.2 ++ [a])
  else
    ((((acc.1.markLate a).resolveHeld a.entry.cyl a.entry.seq a.entry.index .slipDrop).conflict
      (acc.1.bankOf a.entry.cyl)).settle a.entry.cyl, acc.2)

/-- A pulse leaves the pending list. -/
def State.unlist (e : ArmEntry) (s : State) : State :=
  s.setArm { s.arm with pendingList := s.arm.pendingList.filter (· != e) }

/-- A pulse takes its place in the armed set with its start (R67). -/
def State.armPulse (e : ArmEntry) (start : Time) (s : State) : State :=
  (s.setArm { s.arm with armedSet := insertBy ArmedEntry.before ⟨e, start⟩ s.arm.armedSet }).modPulse e.cyl e.seq e.index
    fun p => { p with cond := .armed, start := some start }

/-- The armed start of a pulse worked out at an edge (R68). -/
def EdgeView.startOf (v : EdgeView) (u : Setup) (e : ArmEntry) : Time :=
  armedStart v.time (signedDistance e.target e.offset v.cycle v.angle) v.tPred u.pitch e.lead

/-- A pulse that has passed the test and left the list, with its record re-read (R67): aborted, armed, or late. -/
def State.armRead (u : Setup) (v : EdgeView) (e : ArmEntry) (acc : State × List ArmedEntry) : State × List ArmedEntry :=
  if acc.1.abortMet e.cyl e.seq then ((acc.1.resolveHeld e.cyl e.seq e.index .abortDrop).settle e.cyl, acc.2)
  else if Time.later (v.startOf u e) v.time then (acc.1.armPulse e (v.startOf u e), acc.2)
  else State.lateAt v ⟨e, v.startOf u e⟩ acc

/-- A pulse that has passed the test and left the list (R67): its record is re-read first. -/
def State.armNow (u : Setup) (v : EdgeView) (e : ArmEntry) (acc : State × List ArmedEntry) : State × List ArmedEntry :=
  State.armRead u v e (acc.1.reread e.cyl e.seq, acc.2)

/-- The arming step of a pending pulse (R66, R67). The late pulses that request at this edge are collected. -/
def State.armStep (u : Setup) (v : EdgeView) (acc : State × List ArmedEntry) (e : ArmEntry) : State × List ArmedEntry :=
  if v.passes e then State.armNow u v e (acc.1.unlist e, acc.2) else acc

/-- The late pulses' requests presented in the order of R73. -/
def State.presentLate (acc : State × List ArmedEntry) : State :=
  (sortBy ArmedEntry.presentBefore acc.2).foldl State.present acc.1

/-- The arming unit at a firing edge: every pending pulse that passes is armed, in the order of the pending list (R67), then
the late pulses' requests are presented in the order of R73. -/
def State.armAll (u : Setup) (v : EdgeView) (s : State) : State :=
  State.presentLate (s.arm.pendingList.foldl (State.armStep u v) (s, []))

/-! ## The start expiry -/

/-- An armed pulse at its start expiry, with its record re-read (R73): aborted, or its bank request. -/
def State.startRead (a : ArmedEntry) (s : State) : State :=
  if s.abortMet a.entry.cyl a.entry.seq then
    (s.resolveHeld a.entry.cyl a.entry.seq a.entry.index .abortDrop).settle a.entry.cyl
  else s.present a

/-- The start expiry of an armed pulse that has left the armed set (R73): the re-read, then its bank request. -/
def State.startPulse (a : ArmedEntry) (s : State) : State := (s.reread a.entry.cyl a.entry.seq).startRead a

end Sys2Proof.Machine
end

