-- ==== Sys2Proof/Machine/Latch.lean ====
section
/-! DEFINITION. The event latch (02, 03): next-event entries and the latch test (R25 to R27), the take and its scan (R29 to
R39), fallback and cuts (R52 to R58), overrun (R42), the latch of one cylinder (R28) and the look-ahead (R48). -/

namespace Sys2Proof.Machine

/-! ## Next-event entries -/

/-- The signed distance from the edge to the latch point of an entry (R25). -/
def latchDistance (u : Setup) (advance : Nat) (v : EdgeView) (k : CylId) (target : Word) : Int :=
  wordDiff target v.cycle * 23040 + (u.cyls.get k).tdc - advance - v.angle

/-- The cycle of the first event of a cylinder whose latch point lies at or after the edge and less than one cycle beyond
it (R26). -/
def freshTarget (u : Setup) (advance : Nat) (v : EdgeView) (k : CylId) : Word :=
  v.cycle + BitVec.ofInt 16 (-(((u.cyls.get k).tdc - advance - v.angle : Int) / 23040))

/-- The entries of the configured cylinders set afresh (R26). -/
def State.setEntries (u : Setup) (v : EdgeView) (s : State) : State :=
  s.setCyls (s.cyls.map fun k c =>
    { c with nextEvent := if k.number ≤ u.cylCount then some (freshTarget u s.su.trim.latchAdvance v k) else none })

/-- The cylinders latched at an edge (R25), in ascending order of latch point, each with its target cycle. -/
def State.latchesDue (u : Setup) (v : EdgeView) (s : State) : List (CylId × Word) :=
  let due := u.cylinders.filterMap fun k =>
    match (s.cyl k).nextEvent with
    | some target =>
      let x := latchDistance u s.su.trim.latchAdvance v k target
      if x < v.d then some (x, k, target) else none
    | none => none
  (sortBy (fun x y : Int × CylId × Word => decide (x.1 < y.1)) due).map (·.2)

/-! ## Records -/

/-- The cut decided at step 4 of R28: QUARANTINED before CUT_OVERSPEED. -/
def State.cutOf (s : State) (k : CylId) : Option EventOutcome :=
  if (s.cyl k).quarantined then some .quarantined else if s.trk.overspeedCut then some .cutOverspeed else none

/-- How the take of a latch ends (R28 step 5). -/
inductive TakeResult where
  /-- The record is taken; the event it becomes. -/
  | taken (e : Event)
  /-- A matching record is finalised without fuel: ABORTED or a cut outcome, with its NOTIFY. -/
  | closed (o : EventOutcome) (notify : Bool)
  /-- The latch falls back. -/
  | fallback
  deriving DecidableEq, Repr

/-- What a latch brings to its take: the cylinder, the target cycle, the sequence, the snapshot, the dry mark and the cut. -/
structure LatchView where
  cyl : CylId
  target : Word
  seq : Word
  snap : Snapshot
  dry : Bool
  cut : Option EventOutcome
  deriving DecidableEq, Repr

/-- Where a record lies against a latch (R33). -/
inductive Placement where
  | past | matching | future
  deriving DecidableEq, Repr

/-- The placement by cycle tag and firing position (R33). -/
def place (u : Setup) (k cyl : CylId) (tag targetTag : Byte) : Placement :=
  let d := (tag - targetTag).toNat
  if 1 ≤ d ∧ d ≤ 127 then .future
  else if 128 ≤ d then .past
  else if u.firingPos cyl < u.firingPos k then .past
  else if u.firingPos k < u.firingPos cyl then .future
  else .matching

/-- EVENT_SEQ, TAKE_TIME and TAKE_ANGLE of a record (R29, R37 step 1), TAKE_TIME with its low word first (DESIGN CHOICE,
assumption 31). -/
def State.writeTakeFields (i : Nat) (seq : Word) (s : State) : State :=
  let o := recordOffset i
  (((s.writeWord (o + 0x24) seq).writeWord (o + 0x28) (lowWord s.now)).writeWord (o + 0x2A) (highWord s.now)).writeWord
    (o + 0x2C) (BitVec.ofNat 16 s.estimate)

/-- The take position advances by one record (R39). -/
def State.advanceTake (s : State) : State :=
  s.setLatch { s.latch with takePos := (s.latch.takePos + 1) % s.ringLen }

/-- A record finalised at take (R29): its fields in their order, DONE last, and the take position advanced. -/
def State.finaliseRecord (i : Nat) (cylByte : Nat) (o : EventOutcome) (seq : Word) (s : State) : State :=
  let r := recordOffset i
  (((((s.writeTakeFields i seq).writeWord (r + 0x26) (bytePair o.code 0)).writeWord (r + 0x2E) 0).writeResults r false
    []).writeWord r (bytePair stateDone cylByte)).advanceTake

/-- The fields of pulse entry `j` of a record: KIND, PROFILE, REL_ANGLE, DURATION. -/
structure RawEntry where
  index : Nat
  kind : Nat
  profile : Nat
  relAngle : Int
  duration : Nat
  deriving DecidableEq, Repr

/-- Pulse entry `j` of the fifteen words of the pulse entries (09, Plan record). -/
def rawEntry (l : List Word) (j : Nat) : RawEntry :=
  ⟨j, loByte (l.getD (3 * j) 0), hiByte (l.getD (3 * j) 0), signed16 (l.getD (3 * j + 1) 0).toNat,
    (l.getD (3 * j + 2) 0).toNat⟩

/-- The five entries of those words. -/
def rawEntries (l : List Word) : List RawEntry := (List.range 5).map (rawEntry l)

/-- The fifteen words of the pulse entries (R30 step 3), read in rising order (DESIGN CHOICE, assumption 31). -/
def entryWords (record : Nat) : List Nat := (List.range 15).map (fun i => recordOffset record + 4 + 2 * i)

/-- REL_ANGLE does not decrease along a list of used entries (R36). -/
def anglesOrdered : List RawEntry → Bool
  | [] => true
  | [_] => true
  | x :: y :: rest => decide (x.relAngle ≤ y.relAngle) && anglesOrdered (y :: rest)

/-- The checks of R36 on the five entries of a record. -/
def planValid (profileCount : Nat) (l : List RawEntry) : Bool :=
  let used := l.filter (fun e => e.kind != 0)
  used.all (fun e => decide (e.kind ≤ 3) && decide (e.profile < profileCount) && decide (1 ≤ e.duration)
    && relAngleLegal e.relAngle)
    && anglesOrdered used && decide ((used.filter (fun e => e.kind == 2)).length ≤ 1)

/-- A used entry of a valid plan. -/
def RawEntry.entry (e : RawEntry) : Option PulseEntry :=
  (kindOf e.kind).map fun k => ⟨e.index, k, e.profile, e.relAngle, e.duration⟩

/-- A pulse newly formed at a latch. -/
def PulseEntry.pulse (e : PulseEntry) : Pulse where
  plan := e
  cond := .pending
  start := none
  outcome := none
  late := false
  boostLow := false
  crowded := false
  startAngle := 0
  slip := 0
  driven := 0
  peak := 0

/-- The event a latch forms (R40). -/
def LatchView.event (v : LatchView) (src : Source) (record : Option Nat) (notify : Bool) (plan : List PulseEntry) : Event where
  seq := v.seq
  source := src
  record := record
  notify := notify
  target := v.target
  dry := v.dry
  snap := v.snap
  drive := 0
  pulses := plan.map PulseEntry.pulse

/-! ## The take -/

/-- A record closed with STALE, INVALID or PARITY: finalised, and EVENT_DONE raised where NOTIFY was read set (R29). -/
def State.closeRecord (v : LatchView) (cylByte : Nat) (o : EventOutcome) (notify : Bool) (s : State) : State :=
  (s.finaliseRecord s.latch.takePos cylByte o v.seq).notifyDone notify

/-- The read-and-write pair once its access is served (R37 step 2): nothing comes between its read and its write. CYL is written
as the first step of R30 read it, also where the pair reads another (DESIGN CHOICE, assumption 32). -/
def State.pairServed (v : LatchView) (cylByte : Nat) (notify : Bool) (plan : List PulseEntry) (s : State) :
    State × TakeResult :=
  let i := s.latch.takePos
  let o := recordOffset i
  if s.mem.wordBad o then (s.closeRecord v cylByte .parity notify, .fallback)
  else if loByte (s.mem.readWord o) = stateReady then
    ((s.setMem (s.mem.putPart o (bytePair stateTaken cylByte))).advanceTake, .taken (v.event .plan (some i) notify plan))
  else if loByte (s.mem.readWord o) = stateAbortReq then
    (s.finaliseRecord i cylByte .aborted v.seq, .closed .aborted notify)
  else (s, .fallback)

/-- The indivisible pair on the STATE word (R37 step 2), after the fields of step 1 have been written: one access (R163). -/
def State.takePair (v : LatchView) (cylByte : Nat) (notify : Bool) (plan : List PulseEntry) (s : State) :
    State × TakeResult := s.turn.pairServed v cylByte notify plan

/-- A matching READY record whose entries have been read, or have met a parity error (R36, R37). -/
def State.takeEntries (u : Setup) (v : LatchView) (cylByte : Nat) (notify : Bool) (words : Option (List Word)) (s : State) :
    State × TakeResult :=
  match words with
  | none => (s.closeRecord v cylByte .parity notify, .fallback)
  | some l =>
    if planValid u.profiles.length (rawEntries l) then
      (s.writeTakeFields s.latch.takePos v.seq).takePair v cylByte notify ((rawEntries l).filterMap RawEntry.entry)
    else (s.closeRecord v cylByte .invalid notify, .fallback)

/-- A matching READY record with no cut (R30 step 3). -/
def State.takeReady (u : Setup) (v : LatchView) (cylByte : Nat) (notify : Bool) (s : State) : State × TakeResult :=
  (State.fetchWords (entryWords s.latch.takePos) s).2.takeEntries u v cylByte notify
    (State.fetchWords (entryWords s.latch.takePos) s).1

/-- A matching record (R35, R36, R38), whose STATE was read READY or ABORT_REQ. -/
def State.takeMatching (u : Setup) (v : LatchView) (stateByte cylByte : Nat) (notify : Bool) (s : State) :
    State × TakeResult :=
  if stateByte = stateAbortReq then
    (s.finaliseRecord s.latch.takePos cylByte .aborted v.seq, .closed .aborted notify)
  else
    match v.cut with
    | some o => (s.finaliseRecord s.latch.takePos cylByte o v.seq, .closed o notify)
    | none => s.takeReady u v cylByte notify

/-- What the second word of a record decides, once it is read: CYCLE_TAG and FLAGS beside STATE and CYL (R30 step 2). -/
inductive Placed where
  | bad (notify : Bool)
  | placed (place : Placement) (notify : Bool)
  deriving DecidableEq, Repr

/-- The second word of the record at the take position (R30 step 2, R33). FLAGS counts as read with good parity where its own
byte is good (R29). -/
def State.placeRecord (u : Setup) (v : LatchView) (c : CylId) (s : State) : Placed :=
  let o := recordOffset s.latch.takePos + 2
  let notify := hiByte (s.mem.readWord o) % 2 == 1
  if s.mem.wordBad o then .bad (notify && !s.mem.byteBad (o + 1))
  else .placed (place u v.cyl c ((s.mem.readWord o).extractLsb' 0 8) (v.target.extractLsb' 0 8)) notify

/-- The cylinder that the CYL byte of a record names, if it is configured (R32). -/
def recordCyl (u : Setup) (cylByte : Nat) : Option CylId :=
  if cylByte < 1 ∨ u.cylCount < cylByte then none else CylId.fromNumber cylByte

/-- The first word of the record at the take position (R30 step 1). -/
inductive Opening where
  | parity (cylByte : Nat)
  | notReady
  | invalid (cylByte : Nat)
  | opened (stateByte cylByte : Nat) (cyl : CylId)
  deriving DecidableEq, Repr

/-- R30 to R32, once the word is read. -/
def State.openRecord (u : Setup) (s : State) : Opening :=
  let o := recordOffset s.latch.takePos
  let stateByte := loByte (s.mem.readWord o)
  let cylByte := hiByte (s.mem.readWord o)
  if s.mem.wordBad o then .parity cylByte
  else if stateByte ≠ stateReady ∧ stateByte ≠ stateAbortReq then .notReady
  else match recordCyl u cylByte with
    | none => .invalid cylByte
    | some c => .opened stateByte cylByte c

/-- The take (R30 to R38): the record at the take position is read word by word and judged; a STALE discard continues the
scan, up to `fuel` discards (R34). -/
def State.take (u : Setup) (v : LatchView) : Nat → State → State × TakeResult
  | 0, s => (s, .fallback)
  | fuel + 1, s =>
    match s.turn.openRecord u with
    | .parity cylByte => (s.turn.closeRecord v cylByte .parity false, .fallback)
    | .notReady => (s.turn, .fallback)
    | .invalid cylByte => (s.turn.closeRecord v cylByte .invalid false, .fallback)
    | .opened stateByte cylByte c =>
      match s.turn.turn.placeRecord u v c with
      | .bad notify => (s.turn.turn.closeRecord v cylByte .parity notify, .fallback)
      | .placed .future _ => (s.turn.turn, .fallback)
      | .placed .past notify => State.take u v fuel (s.turn.turn.closeRecord v cylByte .stale notify)
      | .placed .matching notify => s.turn.turn.takeMatching u v stateByte cylByte notify

/-! ## Fallback -/

/-- A miss: MISSES, then PLAN_MISS (R52). -/
def State.countMiss (k : CylId) (s : State) : State :=
  let c := { s.cyl k with misses := satCount (s.cyl k).misses }
  ((s.setCyl k c).statusAll (missWords k c)).raise .planMiss

/-- The source of a fallback event without a cut, and its plan (R53). -/
def State.fallbackPlan (u : Setup) (k : CylId) (s : State) : Source × List PulseEntry :=
  match (s.cyl k).held with
  | some plan =>
    if (s.cyl k).holdCount < s.su.trim.holdLimit then (.held, plan)
    else match u.limp with
      | some l => (.limp, l)
      | none => (.noFuel, [])
  | none => match u.limp with
    | some l => (.limp, l)
    | none => (.noFuel, [])

/-- Whether a fall from one fuel level to a source raises LIMP (R57). -/
def fallsToLimp (fuel src : Source) : Bool :=
  (fuel == .plan || fuel == .held) && (src == .limp || src == .noFuel)

/-- The fuel level follows a latch made without a cut (R57). -/
def State.setFuel (k : CylId) (src : Source) (s : State) : State :=
  s.setCyl k { s.cyl k with fuel := src }

/-- The hold count changed to a value, and written where it changes (R51). -/
def State.holdTo (k : CylId) (n : Nat) (s : State) : State :=
  if (s.cyl k).holdCount = n then s else s.setHold k n

/-- Each used pulse of a new event is placed (R65): behind the edge it is MISSED_ANGLE, else it joins the pending list. -/
def State.placePulse (u : Setup) (x : EdgeView) (k : CylId) (e : Event) (s : State) (p : PulseEntry) : State :=
  let a := armEntryOf u k e p
  if signedDistance a.target a.offset x.cycle x.angle < 0 then s.resolveHeld k e.seq p.index .missedAngle
  else s.setArm { s.arm with pendingList := insertBy ArmEntry.before a s.arm.pendingList }

/-- Step 7 of R28: an event without used pulses completes at once; any other enters the table and its pulses are handed to
the arming unit. -/
def State.enterEvent (u : Setup) (x : EdgeView) (k : CylId) (e : Event) (s : State) : State :=
  if e.pulses.isEmpty then s.report k e
  else
    let s := s.setCyl k { s.cyl k with event := some e }
    ((e.pulses.map Pulse.plan).foldl (State.placePulse u x k e) s).settle k

/-- An event of source HELD adds one to the hold count (R54). -/
def State.useHeld (k : CylId) (src : Source) (s : State) : State :=
  if src = .held then s.setHold k ((s.cyl k).holdCount + 1) else s

/-- The fuel level follows the source, and a fall raises LIMP (R57). -/
def State.enterFuel (k : CylId) (src : Source) (s : State) : State :=
  if fallsToLimp (s.cyl k).fuel src then (s.setFuel k src).raise .limp else s.setFuel k src

/-- The fallback event of a source and a plan (R53 to R57). -/
def State.fallBackTo (u : Setup) (x : EdgeView) (v : LatchView) (choice : Source × List PulseEntry) (s : State) : State :=
  ((s.useHeld v.cyl choice.1).enterFuel v.cyl choice.1).enterEvent u x v.cyl (v.event choice.1 none false choice.2)

/-- The source is chosen as the cylinder stands (R53). -/
def State.fallBackNow (u : Setup) (x : EdgeView) (v : LatchView) (s : State) : State :=
  s.fallBackTo u x v (s.fallbackPlan u v.cyl)

/-- A fallback without a cut (R52 to R57). -/
def State.fallBack (u : Setup) (x : EdgeView) (v : LatchView) (s : State) : State := (s.countMiss v.cyl).fallBackNow u x v

/-- A fallback under a cut (R58): a miss, and an event with source NONE and the cut's outcome. -/
def State.fallBackCut (v : LatchView) (o : EventOutcome) (s : State) : State :=
  (s.countMiss v.cyl).closeEntry v.cyl .noFuel o v.seq

/-- A taken record becomes the held plan, with fuel level PLAN (R37, R50, R57). -/
def State.holdPlan (k : CylId) (plan : List PulseEntry) (s : State) : State :=
  s.setCyl k { s.cyl k with held := some plan, fuel := .plan }

/-- A taken record (R37, R50, R51, R57), then step 7 of R28. -/
def State.takeEvent (u : Setup) (x : EdgeView) (k : CylId) (e : Event) (s : State) : State :=
  ((s.holdPlan k (e.pulses.map Pulse.plan)).holdTo k 0).enterEvent u x k e

/-- An ABORTED record clears the hold count (R51). -/
def State.clearHold (k : CylId) (o : EventOutcome) (s : State) : State := if o = .aborted then s.holdTo k 0 else s

/-- A record closed without a cut is fuelling from plans (R57). -/
def State.planFuel (v : LatchView) (s : State) : State := if v.cut.isNone then s.setFuel v.cyl .plan else s

/-- A matching record finalised at take (R35, R38): the hold count and fuel level, the status entry, then EVENT_DONE. HOLD_COUNT
is written before the entry's other words (DESIGN CHOICE, assumption 31). -/
def State.closedEvent (v : LatchView) (o : EventOutcome) (notify : Bool) (s : State) : State :=
  (((s.clearHold v.cyl o).planFuel v).closeEntry v.cyl .plan o v.seq).notifyDone notify

/-! ## Overrun -/

/-- The holder of a bank is a pulse of the event with a sequence, of cylinder `k`. -/
def Holder.isOf (h : Holder) (k : CylId) (seq : Word) : Bool :=
  match h.job with
  | .event q _ _ _ => h.cyl == k && q == seq
  | .service _ => false

/-- A pulse still in QUENCH is resolved at once, with the outcome it already has (R42). -/
def Pulse.resolveQuench (p : Pulse) : Pulse := if p.cond = .quench then { p with cond := .resolved } else p

/-- An ACTIVE holder that is a pulse of the event ends TRUNCATED (R42). -/
def State.truncateOwn (bk : BankId) (k : CylId) (seq : Word) (s : State) : State :=
  match (s.bank bk).holder with
  | some h => if h.isOf k seq then s.endHolder bk .truncated else s
  | none => s

/-- An overrun (R42): the event still in the table is finalised before the new latch goes on. -/
def State.overrun (k : CylId) (s : State) : State :=
  match (s.cyl k).event with
  | none => s
  | some e =>
    ((((s.withdraw (· == k) .overrunDrop).truncateOwn (s.bankOf k) k e.seq).modEvent k e.seq fun e =>
      { e with pulses := e.pulses.map Pulse.resolveQuench }).settle k).recheck (s.bankOf k)
      (s.bank (s.bankOf k)).waiting.head?

/-! ## The latch -/

/-- The look-ahead once its word is read: PLAN_LOW unless the STATE is READY with good parity (R48). -/
def State.judgeAhead (s : State) : State :=
  let o := recordOffset ((s.latch.takePos + s.su.trim.planLowAhead) % s.ringLen)
  s.setLatch { s.latch with planLow := s.mem.wordBad o || loByte (s.mem.readWord o) != stateReady }

/-- The look-ahead (R48). -/
def State.lookAhead (s : State) : State := s.turn.judgeAhead

/-- Steps 6 and 7 of R28 after the take. -/
def State.served (u : Setup) (x : EdgeView) (v : LatchView) (out : TakeResult) (s : State) : State :=
  match out with
  | .taken e => s.takeEvent u x v.cyl e
  | .closed o notify => s.closedEvent v o notify
  | .fallback => match v.cut with
    | some o => s.fallBackCut v o
    | none => s.fallBack u x v

/-- Steps 5 to 7 of R28: the scan discards at most as many records as there are cylinders (R34). -/
def State.serveLatch (u : Setup) (x : EdgeView) (v : LatchView) (s : State) : State :=
  (State.take u v u.cylCount s).1.served u x v (State.take u v u.cylCount s).2

/-- Steps 2 to 4 of R28: the sequence given, the snapshot, the dry mark and the cut. -/
def State.latchView (k : CylId) (target : Word) (s : State) : LatchView where
  cyl := k
  target := target
  seq := s.latch.nextSeq
  snap := ⟨s.su.trim.armWindow, s.su.trim.slipPilot, s.su.trim.slipMain, s.su.trim.slipPost, s.su.trim.driveMax⟩
  dry := s.ctl.inhibit
  cut := s.cutOf k

/-- Steps 2 to 7 of R28. -/
def State.serveNext (u : Setup) (x : EdgeView) (k : CylId) (target : Word) (s : State) : State :=
  (s.modLatch fun l => { l with nextSeq := l.nextSeq + 1 }).serveLatch u x (s.latchView k target)

/-- Step 9 of R28, and the entry advances by one cycle (R26). -/
def State.closeLatch (k : CylId) (target : Word) (s : State) : State :=
  (s.statusAll (latchWords s.latch)).setCyl k { s.cyl k with nextEvent := some (target + 1) }

/-- A latch of a cylinder at an edge, with the target cycle of its entry (R28). -/
def State.latchCylinder (u : Setup) (x : EdgeView) (s : State) (p : CylId × Word) : State :=
  (((s.overrun p.1).serveNext u x p.1 p.2).lookAhead).closeLatch p.1 p.2

/-- The run conditions in which latches are made (R25). -/
def Control.latches (c : Control) : Bool := c.run == .running || (c.run == .stopping && c.stopMode == .cycle)

/-- The entries set afresh at a re-acquiring edge or the first firing edge in RUNNING (R26). -/
def State.freshEntries (u : Setup) (x : EdgeView) (s : State) : State :=
  if x.reacquiring || s.latch.entriesUnset then s.setEntries u x else s

/-- The latches due at an edge, one after another (R25). -/
def State.latchDue (u : Setup) (x : EdgeView) (s : State) : State := (s.latchesDue u x).foldl (State.latchCylinder u x) s

/-- The event latch at a firing edge (R25, R26): the entries set afresh where the edge calls for it, then the latches. -/
def State.latchAll (u : Setup) (x : EdgeView) (s : State) : State :=
  if s.ctl.latches then ((s.freshEntries u x).modLatch fun l => { l with entriesUnset := false }).latchDue u x else s

end Sys2Proof.Machine
end

