-- ==== Sys2Proof/Machine/RunControl.lean ====
section
/-! DEFINITION. Shared effects of the run controller and the tracker on the rest of the part: recovery drops (R23), the stop
modes (R134 to R137), the taking of a request (R128, R129), LOAD completion and failure (R151, R153), the resets (R143). -/

namespace Sys2Proof.Machine

/-! ## Drops and stop modes -/

/-- The recovery drops (R23): every pending, armed and waiting pulse is resolved SYNC_DROP, and events complete. -/
def State.recover (s : State) : State := (s.withdraw (fun _ => true) .syncDrop).settleAll

/-- The stop mode is changed; no flag is raised (R137). -/
def State.setStopMode (m : StopMode) (s : State) : State := s.setCtl { s.ctl with stopMode := m }

/-- Mode EVENT from this instant (R135): the event table is tested when the mode becomes EVENT. -/
def State.stopEvent (s : State) : State := (s.setStopMode .event).checkStopped

/-- CYCLE becomes EVENT at a cycle boundary, a stall or a SYNC_LOST (R134). -/
def State.endCycleMode (s : State) : State :=
  if s.ctl.run = .stopping ∧ s.ctl.stopMode = .cycle then s.stopEvent else s

/-- An ACTIVE holder of a bank ends TRUNCATED (R100, R136 step 3); completion is judged after all of them (R136). -/
def State.truncateHolder (s : State) (bk : BankId) : State := s.stopHolder bk .truncated

/-- Whether a bank is held by the service pulse. -/
def Bank.heldByService (x : Bank) : Bool :=
  match x.holder with
  | some h => match h.job with
    | .service _ => true
    | .event _ _ _ _ => false
  | none => false

/-- A service pulse in play ends TRUNCATED (R124). -/
def State.truncateService (s : State) (bk : BankId) : State :=
  if (s.bank bk).heldByService then s.endHolder bk .truncated else s

/-- Every service pulse in play ends TRUNCATED (R124), from bank A to D. -/
def State.truncateServices (s : State) : State := BankId.all.foldl State.truncateService s

/-- Every ACTIVE holder ends TRUNCATED (R136 step 3), from bank A to D (DESIGN CHOICE, assumption 33). -/
def State.truncateHolders (s : State) : State := BankId.all.foldl State.truncateHolder s

/-- Mode CUT from this instant (R136). -/
def State.stopCut (s : State) : State :=
  (((((s.setStopMode .cut).withdraw (fun _ => true) .stopDrop).truncateHolders).settleAll).checkStopped)

/-! ## Taking a request -/

/-- The REQUEST word: code in bits 3..0, argument in bits 11..4, the top four bits stored and ignored (R128). -/
def requestWord (code : BitVec 4) (arg : Byte) (top : BitVec 4) : Word := (top ++ arg) ++ code

/-- The word is stored, and the last request result becomes ACCEPTED or REFUSED (R128). -/
def State.answer (w : Word) (r : RequestResult) (s : State) : State :=
  s.setCtl { s.ctl with request := w, lastResult := r }

/-- A request taken (R128): accepted with its effect, or refused with nothing else changed. While the part is held in reset
no write is taken (R145, R161). -/
def State.takeRequest (w : Word) (accepted : Bool) (effect : State → State) (s : State) : State :=
  if s.held then s else if accepted then effect (s.answer w .accepted) else s.answer w .refused

/-- The cylinder a RELEASE or SERVICE names, if it lies in 1..count of the setup copy (R129). -/
def State.namedCylinder (s : State) (n : Nat) : Option CylId :=
  match s.su.setup with
  | some u => if n ≤ u.cylCount then CylId.fromNumber n else none
  | none => none

/-! ## LOAD -/

/-- The tracker's move to NO_SIGNAL of R1, with the words R183 names, SYNC_STATE first (DESIGN CHOICE, assumption 31). -/
def State.idleTracker (s : State) : State :=
  (s.setTrk s.trk.idle).statusAll (syncWords s.trk.idle ++ tLastWords s.trk.idle)

/-- The effect of an accepted LOAD (R131). -/
def State.beginLoad (s : State) : State :=
  ((s.setSu { s.su with staging := [] }).idleTracker).changeRun .loading

/-- The service pulse in progress, if any: its cylinder and profile. -/
def State.serviceHolder (s : State) : Option (CylId × Nat) :=
  BankId.all.findSome? fun bk =>
    match (s.bank bk).holder with
    | some h => match h.job with
      | .service profile => some (h.cyl, profile)
      | .event _ _ _ _ => none
    | none => none

/-- The service entry at a SERVICE acceptance (R123), and at LOAD completion for the pulse in progress (R183). -/
def ServiceEntry.started (k : CylId) (profile : Nat) : ServiceEntry := ⟨bytePair k.number profile, 0, 0, 0, 0⟩

def State.loadedService (s : State) : ServiceEntry :=
  match s.serviceHolder with
  | some (k, profile) => .started k profile
  | none => .zero

/-- Step 1 of R153: the copies in place, and every block at its LOAD values. -/
def State.loadBlocks (u : Setup) (s : State) : State :=
  let s := s.setSu { s.su with setup := some u, staging := [], error := ⟨0, 0⟩ }
  let s := (s.setTrk .reset).setLatch .reset
  let s := (s.setCyls (.fill .reset)).setArm ⟨[], []⟩
  (s.setBanks (s.banks.map fun _ x => { x with conflicts := 0, boostLowCount := 0 })).setFaultLimit u.faultLimit

/-- Step 2 of R153: the trim copy; one that fails leaves PLAN_LOW_AHEAD below the new RING_LEN (R158). -/
def State.loadTrim (s : State) : State := if s.fetchTrim.1.isSome then s.copyTrim else s.copyTrim.capPlanLowAhead

/-- Every other field of the status block is written. -/
def State.showAll (s : State) : State := s.statusAll s.statusWords

/-- The host reads served from here on find the status block live (R168, R181). -/
def State.goLive (s : State) : State := s.setMem s.mem.goLive

/-- LAST_PARITY_ADDR is the first word of the block that LOAD completion writes, as 0xFFFF, and the host reads served after it
record their errors (R168; DESIGN CHOICE, assumption 34). -/
def State.openStatus (s : State) : State := (s.status offLastParityAddr s.sb.lastParityAddr).goLive

/-- Step 3 of R153: the block becomes live and is written in full (R181, R183). -/
def State.loadStatus (s : State) : State := ((s.setSb ⟨true, 0xFFFF, s.loadedService⟩).openStatus).showAll

/-- LOAD completion (R153) with a staging copy that passed every check. -/
def State.completeLoad (st : List StagedByte) (s : State) : State :=
  (((s.loadBlocks (setupOf st)).loadTrim).loadStatus).changeRun .ready

/-- LOAD failure (R151): the two error fields written, live or not, SETUP_ERROR first (DESIGN CHOICE, assumption 31); the copies
absent; STOPPED. -/
def State.failLoad (e : SetupError) (s : State) : State :=
  let s := (s.setSu { s.su with setup := none, staging := [], error := e }).setTrk s.trk.idle
  ((s.writeWord offSetupError (lowByte e.code)).writeWord offSetupErrorOffset e.offset).changeRun .stopped

/-! ## Resets -/

/-- R143: every block at its reset values. The memory, the tick count and the pins are not among them. -/
def State.resetBlocks (cause : ResetCause) (s : State) : State :=
  let s := (s.setCtl (.reset cause)).setEv ⟨0, 0⟩
  let s := (s.setSu .reset).setTrk .reset
  let s := (s.setLatch .reset).setCyls (.fill .reset)
  let s := (s.setArm ⟨[], []⟩).setBanks (.fill .reset)
  (s.setFaultLimit 0).setSb .reset

end Sys2Proof.Machine
end

