-- ==== Sys2Proof/Machine/Operands.lean ====
section
/-! DEFINITION. How a command's operands reach the state: the tick count and the sense lines of an arrival or an expiry, and
the parts of a request's argument. -/

namespace Sys2Proof.Machine

/-- The tick count reaches `t` (R189), also during a power-on reset, where R189 gives the count only at the end (DESIGN CHOICE,
assumption 20). -/
def State.at (t : Time) (s : State) : State := s.setNow t

/-- The four banks' sense lines at this instant. -/
def State.seeAll (sense : Four BankSense) (s : State) : State := s.setPins { s.pins with sense := sense }

/-- One bank's sense lines at this instant. -/
def State.see (bk : BankId) (sense : BankSense) (s : State) : State :=
  s.setPins { s.pins with sense := s.pins.sense.set bk sense }

/-- A timer that stands at `t` expires: the tick count is then `t`, and the bank's lines show `sense`. -/
def State.expire (t : Time) (bk : BankId) (sense : BankSense) (s : State) : State := (s.at t).see bk sense

/-- STOP's argument: 0 CUT, 1 EVENT, 2 CYCLE (R129). -/
def stopModeOf (arg : Byte) : Option StopMode :=
  match arg.toNat with
  | 0 => some .cut
  | 1 => some .event
  | 2 => some .cycle
  | _ => none

/-- SERVICE's argument: the cylinder in its low four bits, the profile in the next three, and its top bit (R129). -/
def serviceCyl (arg : Byte) : Nat := arg.toNat % 16
def serviceProfile (arg : Byte) : Nat := arg.toNat / 16 % 8
def serviceTop (arg : Byte) : Bool := decide (128 ≤ arg.toNat)

end Sys2Proof.Machine
end

