-- ==== Sys2Proof/Machine/Port.lean ====
section
/-! DEFINITION. The port of the exchange memory: a host write and a host read (R161, R162, R166, R168), the assertion of
RESET_N (R145), and what arrives while a command makes its own accesses (R144, R163, R164, R173, R174). -/

namespace Sys2Proof.Machine

/-! ## Host accesses -/

/-- While RESET_N is asserted reads return 0x0000 (R161); while a power-on reset is in progress the port takes no access;
otherwise a read has its effect. -/
def State.takeRead (effect : State → State) (s : State) : State :=
  if s.pins.resetN then s.drive 0 else if s.pins.powerOn then s else effect s

/-- A write is not taken while the part is held in reset (R161). -/
def State.takeWrite (effect : State → State) (s : State) : State := if s.held then s else effect s

/-- The reading of the LOAD in progress, if any. -/
def State.reading (s : State) : Option Reading :=
  if s.ctl.run = .loading then some ⟨s.su.staging, s.freeCount, 0⟩ else none

/-- What a reading has come to, put in place: the staging copy, and the free values consulted. -/
def State.keepReading (r : Reading) (s : State) : State :=
  (s.setSu { s.su with staging := r.staging }).setFreeCount (s.freeCount + r.used)

/-- During LOADING a host write may fall anywhere in the reading (R147). -/
def State.readBeforeWrite (s : State) : State :=
  match s.reading with
  | some r => s.keepReading (r.advance s.mem)
  | none => s

/-- A host write of a word, with the parity of the sense in force (R166); at 0x3000 and above it is discarded (R162). -/
def State.hostWrite (addr : BitVec 13) (data : Word) (s : State) : State :=
  s.readBeforeWrite.setMem (s.mem.writeWord (byteOffset addr) data s.ctl.evenParity)

/-- MEM_PARITY is raised, then LAST_PARITY_ADDR written (R168). -/
def State.hostParityError (off : Nat) (s : State) : State :=
  let w := BitVec.ofNat 16 (s.mem.badOffset off)
  ((s.raise .memParity).setSb { s.sb with lastParityAddr := w }).status offLastParityAddr w

/-- A host read of a word: returned as stored, and checked (R168). -/
def State.hostRead (addr : BitVec 13) (s : State) : State :=
  if s.mem.wordBad (byteOffset addr) then (s.drive (s.mem.readWord (byteOffset addr))).hostParityError (byteOffset addr)
  else s.drive (s.mem.readWord (byteOffset addr))

/-! ## RESET_N and SOFT_RESET -/

/-- The cause of a RESET_N assertion: kept POWER where a power-on reset has occurred since the part last left reset
(R145; DEDUCED, assumption 20). -/
def State.pinCause (s : State) : ResetCause := if s.held then s.ctl.resetCause else .pin

/-- RESET_N is asserted (R143, R145). -/
def State.assertReset (s : State) : State := (s.resetBlocks s.pinCause).setPins { s.pins with resetN := true }

/-- SOFT_RESET (R144): REQUEST reads 0x0000 and the result NONE afterwards. -/
def State.takeSoftReset (arg : Byte) (top : BitVec 4) (s : State) : State :=
  s.takeRequest (requestWord 7 arg top) true (State.resetBlocks .soft)

/-! ## What arrives during a command -/

/-- The arbiter takes up what is to arrive during a command. -/
def State.openPort (during : List Arrival) (s : State) : State :=
  s.setMem { s.mem with port := some ⟨during, false, s.ctl.evenParity, s.sb.live, s.reading, none, false, none⟩ }

/-- The reading of a LOAD goes on from where the host writes served during a command have left it (R147), unless the command
has ended the LOAD. -/
def State.keepLoad (p : Port) (s : State) : State :=
  match p.reading with
  | some r => if s.ctl.run = .loading then s.keepReading r else s
  | none => s

/-- What the host reads served during a command leave beside the memory: the word on the data lines, MEM_PARITY, and the
owner's value of LAST_PARITY_ADDR (R168). -/
def State.keepReads (p : Port) (s : State) : State :=
  let s := match p.data with
    | some w => s.drive w
    | none => s
  let s := if p.parityError then s.raise .memParity else s
  match p.parityAddr with
  | some w => s.setSb { s.sb with lastParityAddr := w }
  | none => s

/-- An arrival taken when the command's own accesses have ended: after its last one, or cut off by a reset (R144, R173). -/
def State.afterwards (s : State) (x : Arrival) : State :=
  match x.what with
  | .hostWrite addr data => s.takeWrite (State.hostWrite addr data)
  | .hostRead addr => s.takeRead (State.hostRead addr)
  | .softReset arg top => s.takeSoftReset arg top
  | .pinReset => s.assertReset

/-- The command has ended: what the port kept is put in place, and what has not been served is taken. -/
def State.closePort (s : State) : State :=
  match s.mem.port with
  | some p => p.arrivals.foldl State.afterwards (((s.setMem { s.mem with port := none }).keepReads p).keepLoad p)
  | none => s

/-- A command's effect with what arrives while it makes its accesses (R163). A part held in reset makes none. -/
def State.meanwhile (during : List Arrival) (effect : State → State) (s : State) : State :=
  match during with
  | [] => effect s
  | _ :: _ => if s.held then during.foldl State.afterwards (effect s) else (effect (s.openPort during)).closePort

end Sys2Proof.Machine
end

