-- ==== Sys2Proof/Machine/Engine.lean ====
section
/-! DEFINITION. The meanings of CRANK_EDGE, MARKER_EDGE and STALL (01, with the work of 02 to 04 that an edge event drives). -/

namespace Sys2Proof.Machine

/-- The tracker runs while the run state is READY, RUNNING or STOPPING (R1). -/
def RunState.tracks : RunState → Bool
  | .ready => true
  | .running => true
  | .stopping => true
  | .stopped => false
  | .loading => false

/-! ## Loss of sync and marker errors -/

/-- A failed check loses crank sync (R10). SYNC_LOSSES is written before SYNC_STATE (DESIGN CHOICE, assumption 31). A missing gap
keeps the tooth index, which has no meaning in GAP_SEARCH (DESIGN CHOICE, assumption 37). -/
def State.loseSync (gap : Bool) (s : State) : State :=
  let t := { s.trk with
    sync := if gap then .gapCheck else .gapSearch
    tooth := if gap then 0 else s.trk.tooth
    phaseAssumed := false
    errorRun := 0
    markerSeen := false
    syncLosses := satCount s.trk.syncLosses }
  ((((s.setTrk t).statusAll (syncLossWords t ++ syncWords t)).raise .syncLost).recover).endCycleMode

/-- The phase assumption is taken where PHASE_ASSUME is set (R17). -/
def State.assumePhase (u : Setup) (s : State) : State :=
  if u.phaseAssume then (s.setTrk { s.trk with phaseAssumed := true }).raise .syncGained else s

/-- The assumption at the entry to CRANK_SYNC from GAP_CHECK (R17): SYNC_STATE is written before SYNC_GAINED is raised (R184). -/
def State.assumeAtEntry (u : Setup) (s : State) : State :=
  (if u.phaseAssume then s.statusAll (syncWords s.trk) else s).assumePhase u

/-- Phase is lost at the third marker error in a row (R16); R17 then applies, and where it does the next accepted edge is
re-acquiring. SYNC_LOSSES is written before SYNC_STATE (DESIGN CHOICE, assumption 31). -/
def State.losePhase (u : Setup) (s : State) : State :=
  let t := { s.trk with
    sync := .crankSync, errorRun := 0, syncLosses := satCount s.trk.syncLosses
    reacquire := s.trk.reacquire || u.phaseAssume }
  (((((s.setTrk t).statusAll (syncLossWords t ++ syncWords t)).raise .syncLost).recover).endCycleMode).assumePhase u

/-- MARKER_ERRORS counts one (R15, R16, R18). -/
def State.countMarkerError (s : State) : State :=
  let t := { s.trk with markerErrors := satCount s.trk.markerErrors }
  (s.setTrk t).status offMarkerErrors t.markerErrors

/-- A marker error run that has reached 3 loses phase (R16). -/
def State.checkRun (u : Setup) (s : State) : State := if 3 ≤ s.trk.errorRun then s.losePhase u else s

/-- A marker error in PHASED (R16). -/
def State.markerError (u : Setup) (s : State) : State :=
  (s.countMarkerError.modTrk fun t => { t with errorRun := t.errorRun + 1 }).checkRun u

/-! ## An accepted edge -/

/-- The missing-marker check of a cycle boundary (R16). -/
def State.checkMissing (u : Setup) (s : State) : State :=
  if s.trk.sync = .phased ∧ s.trk.markerSeen = false then s.markerError u else s

/-- A cycle boundary (R13): the counter, the missing-marker check, marker seen, the trim copy (R155), the stop mode (R134). -/
def State.cycleBoundary (u : Setup) (s : State) : State :=
  ((((s.modTrk fun t => { t with cycle := t.cycle + 1 }).checkMissing u).modTrk fun t =>
    { t with markerSeen := false }).copyTrim).endCycleMode

/-- The tracker after an edge that passes its check: tooth index, revolution bit and angle (R9, R12). -/
def Tracker.advance (u : Setup) (tooth : Nat) (zero : Bool) (t : Tracker) : Tracker :=
  let rev := if zero then !t.rev else t.rev
  { t with tooth := tooth, rev := rev, lastAngle := u.angle rev tooth }

/-- Whether the edge is a cycle boundary (R13). -/
def Tracker.atBoundary (u : Setup) (tooth : Nat) (zero : Bool) (t : Tracker) : Bool :=
  t.canFire && decide ((t.advance u tooth zero).lastAngle < t.lastAngle)

/-- An edge that passes its check in CRANK_SYNC or PHASED (R9, R12, R13). -/
def State.syncedEdge (u : Setup) (tooth : Nat) (zero : Bool) (s : State) : State :=
  if s.trk.atBoundary u tooth zero then (s.modTrk (Tracker.advance u tooth zero)).cycleBoundary u
  else s.modTrk (Tracker.advance u tooth zero)

/-- The tracker's own transitions at an accepted edge with an interval (R7 to R10), after the measurement of R3. A missing gap in
GAP_CHECK keeps the tooth index, which has no meaning in GAP_SEARCH (DESIGN CHOICE, assumption 37). -/
def State.trackEdge (u : Setup) (j : Judgement) (s : State) : State :=
  match j with
  | .search => s.modTrk fun t => { t with sync := .gapSearch }
  | .candidate => s.modTrk fun t => { t with sync := .gapCheck, tooth := 0 }
  | .confirmed =>
    (s.modTrk fun t => { t with sync := .crankSync, tooth := 0, rev := false, lastAngle := u.angle false 0 }).assumeAtEntry u
  | .pass tooth zero =>
    if s.trk.angleKnown then s.syncedEdge u tooth zero else s.modTrk fun t => { t with tooth := tooth }
  | .lost gap => s.loseSync gap

/-- The prediction (R19) and the overspeed decision (R22) with a trim set. -/
def Tracker.decideAtEdge (m : Trim) (t : Tracker) : Tracker :=
  { t with
    tPred := predict (m.predictMode == 1) t.tLast t.tPrev
    overspeedCut := overspeedAfter m.overspeedPeriod m.overspeedHyst t.tLast t.overspeedCut }

/-- They are made with the trim in force. -/
def State.decideEdge (s : State) : State := s.modTrk (Tracker.decideAtEdge s.su.trim)

/-- The status block's edge fields (R21, R183); their order is the model's (DESIGN CHOICE, assumption 31). -/
def edgeWords (t : Tracker) : List (Nat × Word) :=
  if t.angleKnown then edgeTimeWords t ++ edgeAngleWords t ++ tLastWords t ++ syncWords t ++ cycleWords t
  else syncWords t ++ tLastWords t

/-- What latching and arming need of an edge event (R21). -/
def State.edgeView (u : Setup) (reacquiring : Bool) (s : State) : EdgeView :=
  ⟨s.now, s.trk.lastAngle, u.distance s.trk.sync s.trk.tooth, s.trk.tPred, s.trk.cycle, reacquiring⟩

/-- At a firing edge the event latch acts, then the arming unit (R21). An edge that is not a firing edge makes the next
firing edge re-acquiring (R24). -/
def State.fireEdge (u : Setup) (reacquiring : Bool) (s : State) : State :=
  if s.trk.canFire then (s.latchAll u (s.edgeView u reacquiring)).armAll u (s.edgeView u reacquiring)
  else s.modTrk fun t => { t with reacquire := true }

/-- The edge event (R21): the status block's edge fields, and service pulses truncated at any accepted edge (R124).
That the edge fields come after the words of the tracker's transitions and of a trim copy, and before a truncated pulse's, is the
model's (DESIGN CHOICE, assumption 31). -/
def State.edgeEvent (u : Setup) (reacquiring : Bool) (s : State) : State :=
  ((s.statusAll (edgeWords s.trk)).truncateServices).fireEdge u reacquiring

/-- The transitions, the decisions and the edge event of an accepted edge, once its interval has been measured. -/
def State.judgedEdge (u : Setup) (j : Judgement) (reacquiring : Bool) (s : State) : State :=
  ((s.trackEdge u j).decideEdge).edgeEvent u reacquiring

/-- An accepted edge that has an interval. -/
def State.acceptEdge (u : Setup) (interval : Nat) (s : State) : State :=
  let j := s.trk.judge u (s.trk.gapLike u interval)
  (s.setTrk { s.trk.measure u j interval s.now with reacquire := false }).judgedEdge u j s.trk.reacquire

/-- A rejected edge adds one to NOISE_EDGES and changes nothing else (R4). -/
def State.rejectEdge (s : State) : State :=
  let t := { s.trk with noiseEdges := satCount s.trk.noiseEdges }
  (s.setTrk t).status offNoiseEdges t.noiseEdges

/-- The first edge after NO_SIGNAL (R6). -/
def State.startTracking (u : Setup) (s : State) : State := (s.setTrk (s.trk.firstEdge u s.now)).edgeEvent u false

/-- A crank edge that is taken (R3, R4, R6). -/
def State.crankTaken (u : Setup) (s : State) : State :=
  if s.trk.sync = .noSignal then s.startTracking u
  else
    match s.trk.interval s.now with
    | none => s.startTracking u
    | some interval => if s.trk.isNoise u interval then s.rejectEdge else s.acceptEdge u interval

/-- A crank edge arrives. Edges are not taken in STOPPED or LOADING, nor of the other polarity (R1). -/
def State.crankArrives (edge : Edge) (s : State) : State :=
  match s.su.setup with
  | some u => if s.ctl.run.tracks && edge == u.crankEdge then s.crankTaken u else s
  | none => s

/-- CRANK_EDGE. -/
def execCrankEdge (edge : Edge) (t : Time) (sense : Four BankSense) (s : State) (during : List Arrival := []) :
    Host.Outcome State Fault Refusal := .next (((s.at t).seeAll sense).meanwhile during (State.crankArrives edge))

/-! ## The marker -/

/-- The tracker phased by a marker edge: PHASED, marker seen set, the error run cleared (R15, R18). -/
def Tracker.phasedBy (t : Tracker) : Tracker :=
  { t with sync := .phased, phaseAssumed := false, markerSeen := true, errorRun := 0 }

/-- A phase slip (R16) or a contradicting marker (R18): the angle shifted, PHASE_SLIP, the recovery drops, and the next
accepted edge re-acquiring (R24). LAST_EDGE_ANGLE is written before SYNC_STATE (DESIGN CHOICE, assumption 31). -/
def State.phaseSlip (s : State) : State :=
  let t := { s.trk.phasedBy.shift with reacquire := true }
  (((s.setTrk t).statusAll (edgeAngleWords t ++ syncWords t)).raise .phaseSlip).recover

/-- A marker edge in CRANK_SYNC without the phase assumption (R15); the order of the words as at a slip (assumption 31). -/
def State.markerUnphased (c : MarkerClass) (s : State) : State :=
  match c with
  | .window => ((s.setTrk s.trk.phasedBy).statusAll (syncWords s.trk.phasedBy)).raise .syncGained
  | .twin =>
    let t := s.trk.phasedBy.shift
    ((s.setTrk t).statusAll (edgeAngleWords t ++ syncWords t)).raise .syncGained
  | .outside => s.countMarkerError

/-- A marker edge in CRANK_SYNC with the assumption in force (R18). -/
def State.markerAssumed (c : MarkerClass) (s : State) : State :=
  match c with
  | .window => (s.setTrk s.trk.phasedBy).statusAll (syncWords s.trk.phasedBy)
  | .twin => s.phaseSlip
  | .outside => s.countMarkerError

/-- A marker edge in PHASED (R16): marker seen is set in every case. -/
def State.markerPhased (u : Setup) (c : MarkerClass) (s : State) : State :=
  match c with
  | .window => s.modTrk fun t => { t with markerSeen := true, errorRun := 0 }
  | .twin => s.phaseSlip
  | .outside => (s.modTrk fun t => { t with markerSeen := true }).markerError u

/-- A marker edge that is taken, by sync state (R14). -/
def State.markerTaken (u : Setup) (s : State) : State :=
  let c := u.classify s.estimate
  match s.trk.sync with
  | .crankSync => if s.trk.phaseAssumed then s.markerAssumed c else s.markerUnphased c
  | .phased => s.markerPhased u c
  | .noSignal => s
  | .gapSearch => s
  | .gapCheck => s

/-- A marker edge arrives: taken as a crank edge is, of the marker polarity (R1). -/
def State.markerArrives (edge : Edge) (s : State) : State :=
  match s.su.setup with
  | some u => if s.ctl.run.tracks && edge == u.markerEdge then s.markerTaken u else s
  | none => s

/-- MARKER_EDGE. -/
def execMarkerEdge (edge : Edge) (t : Time) (s : State) (during : List Arrival := []) : Host.Outcome State Fault Refusal :=
  .next ((s.at t).meanwhile during (State.markerArrives edge))

/-! ## Stall -/

/-- Stall expiry (R11): NO_SIGNAL, STALL, the recovery drops, and the stop mode (R134). SYNC_STATE is written before T_LAST
(DESIGN CHOICE, assumption 31). -/
def State.stallNow (s : State) : State :=
  let t := s.trk.stalled
  ((((s.setTrk t).statusAll (syncWords t ++ tLastWords t)).raise .stall).recover).endCycleMode

/-- The stall timer expires, if it runs. -/
def State.stallExpires (s : State) : State :=
  match s.trk.stallAt with
  | some t => (s.at t).stallNow
  | none => s

/-- STALL. -/
def execStall (s : State) (during : List Arrival := []) : Host.Outcome State Fault Refusal :=
  .next (s.meanwhile during State.stallExpires)

end Sys2Proof.Machine
end

