-- ==== Sys2Proof/Machine/Timers.lean ====
section
/-! DEFINITION. The meanings of the nine timer expiries: START, SLIP_DEADLINE and HEAD_TIMER (04, 05), SETTLE and CAP (05),
DURATION, RISE_LIMIT, FREEWHEEL and QUENCH (06). An expiry comes at the time its timer stands at (R189); a timer that is
stopped does not expire, and the command then changes nothing (DESIGN CHOICE and DEDUCED, assumptions 3 and 4). -/

namespace Sys2Proof.Machine

/-! ## Which timer runs -/

/-- The duration expiry of a bank (R111): of a channel that plays a phase. -/
def Bank.durationTimer (x : Bank) : Option Time :=
  match x.channel with
  | some p => if p.cond = .quench then none else some p.durationAt
  | none => none

/-- Whether a condition is a rise phase. -/
def ChannelCond.isRise : ChannelCond → Bool
  | .boostRise _ _ => true
  | .batteryRise _ => true
  | .freewheel => false
  | .hold _ => false
  | .quench => false

/-- The rise limit of a bank (R108): the phase timer of a channel in a rise phase. -/
def Bank.riseTimer (x : Bank) : Option Time :=
  match x.channel with
  | some p => if p.cond.isRise then p.phaseTimer else none
  | none => none

/-- The FREEWHEEL time of a bank (R109): the phase timer of a channel in FREEWHEEL. -/
def Bank.freewheelTimer (x : Bank) : Option Time :=
  match x.channel with
  | some p => if p.cond = .freewheel then p.phaseTimer else none
  | none => none

/-- The quench expiry of a bank (R115). -/
def Bank.quenchTimer (x : Bank) : Option Time :=
  match x.channel with
  | some p => if p.cond = .quench then p.quenchAt else none
  | none => none

/-- The settle expiry of a bank (R83): of a SETTLING bank. -/
def Bank.settleTimer (x : Bank) : Option Time := if x.mode = .settling then x.settleAt else none

/-- A timer of a bank expires with an effect on the state at that time. -/
def State.onTimer (timer : Option Time) (bk : BankId) (sense : BankSense) (effect : State → State) (s : State) : State :=
  match timer with
  | some t => effect (s.expire t bk sense)
  | none => s

/-! ## START_EXPIRY -/

/-- The start expiry of the first pulse of the armed set, which leaves the set (R73). -/
def State.startNow (a : ArmedEntry) (rest : List ArmedEntry) (sense : BankSense) (s : State) : State :=
  ((s.setArm { s.arm with armedSet := rest }).expire a.start (s.bankOf a.entry.cyl) sense).startPulse a

/-- The start expiry, if a pulse is armed. -/
def State.startExpires (sense : BankSense) (s : State) : State :=
  match s.arm.armedSet with
  | a :: rest => s.startNow a rest sense
  | [] => s

/-- START_EXPIRY. -/
def execStartExpiry (sense : BankSense) (s : State) (during : List Arrival := []) : Host.Outcome State Fault Refusal :=
  .next (s.meanwhile during (State.startExpires sense))

/-! ## SLIP_DEADLINE_EXPIRY -/

/-- The waiting pulse of a bank with a sequence and an entry index. -/
def Bank.waitingPulse (x : Bank) (seq : Word) (entry : Nat) : Option Request :=
  x.waiting.find? (fun r => r.seq == seq && r.index == entry)

/-- A waiting pulse's deadline expires (R91): it leaves the wait list and is resolved SLIP_DROP with its slip limit. If it was
the head, the grant check is made for the new head. The deadlines of two pulses at one tick are two commands, and either comes
first (R92): the second pulse, if the head's is taken first, is the new head there and is granted if the bank is available to it;
if its own is taken first, it is dropped, and the head's deadline is then met as before. -/
def State.deadlineNow (bk : BankId) (r : Request) (s : State) : State :=
  ((s.setBank bk ((s.bank bk).remove r)).slipDrop bk r false r.deadline).recheck bk (s.bank bk).waiting.head?

/-- The slip deadline of a pulse, if it waits. -/
def State.deadlineExpires (bk : BankId) (seq : Word) (entry : Nat) (sense : BankSense) (s : State) : State :=
  match (s.bank bk).waitingPulse seq entry with
  | some r => (s.expire r.deadline bk sense).deadlineNow bk r
  | none => s

/-- SLIP_DEADLINE_EXPIRY. -/
def execSlipDeadlineExpiry (bk : BankId) (seq : Word) (entry : BitVec 3) (sense : BankSense) (s : State)
    (during : List Arrival := []) : Host.Outcome State Fault Refusal :=
  .next (s.meanwhile during (State.deadlineExpires bk seq entry.toNat sense))

/-! ## The other timers of a bank -/

/-- HEAD_TIMER_EXPIRY: the grant check is made again (R89). -/
def execHeadTimerExpiry (bk : BankId) (sense : BankSense) (s : State) (during : List Arrival := []) :
    Host.Outcome State Fault Refusal :=
  .next (s.meanwhile during (State.onTimer (s.bank bk).headAt bk sense (State.grantCheck bk)))

/-- A SETTLING bank becomes IDLE and its timer stops (R83). -/
def State.settleNow (bk : BankId) (s : State) : State :=
  (s.setBank bk { s.bank bk with settleAt := none }).setMode bk .idle

/-- The settle expiry of a bank, if it runs. -/
def State.settleExpires (bk : BankId) (s : State) : State :=
  match (s.bank bk).settleTimer with
  | some t => (s.at t).settleNow bk
  | none => s

/-- SETTLE_EXPIRY. -/
def execSettleExpiry (bk : BankId) (s : State) (during : List Arrival := []) : Host.Outcome State Fault Refusal :=
  .next (s.meanwhile during (State.settleExpires bk))

/-- CAP_EXPIRY: the holder ends CAPPED (R97). -/
def execCapExpiry (bk : BankId) (sense : BankSense) (s : State) (during : List Arrival := []) : Host.Outcome State Fault Refusal :=
  .next (s.meanwhile during (State.onTimer (s.bank bk).capAt bk sense (State.endHolder bk .capped)))

/-- A played pulse ends FIRED (R111), and so does a dry holder, whose expiry the arbiter keeps (R98). -/
def State.durationExpires (bk : BankId) (sense : BankSense) (s : State) : State :=
  match (s.bank bk).durationTimer with
  | some t => (s.expire t bk sense).endPlayed bk .fired
  | none => s.onTimer (s.bank bk).dryEndAt bk sense (State.endHolder bk .fired)

/-- DURATION_EXPIRY. -/
def execDurationExpiry (bk : BankId) (sense : BankSense) (s : State) (during : List Arrival := []) :
    Host.Outcome State Fault Refusal := .next (s.meanwhile during (State.durationExpires bk sense))

/-- RISE_LIMIT_EXPIRY: the pulse ends OPEN_FAULT (R108). -/
def execRiseLimitExpiry (bk : BankId) (sense : BankSense) (s : State) (during : List Arrival := []) :
    Host.Outcome State Fault Refusal :=
  .next (s.meanwhile during (State.onTimer (s.bank bk).riseTimer bk sense (State.endPlayed bk .openFault)))

/-- The phase after the one being played is entered (R106). -/
def State.nextPhase (bk : BankId) (s : State) : State :=
  match (s.bank bk).channel with
  | some p => s.enterPhase bk (p.phase + 1)
  | none => s

/-- FREEWHEEL_EXPIRY: the next phase is entered (R109). -/
def execFreewheelExpiry (bk : BankId) (sense : BankSense) (s : State) (during : List Arrival := []) :
    Host.Outcome State Fault Refusal :=
  .next (s.meanwhile during (State.onTimer (s.bank bk).freewheelTimer bk sense (State.nextPhase bk)))

/-- QUENCH_EXPIRY: the quench ends (R115). -/
def execQuenchExpiry (bk : BankId) (sense : BankSense) (s : State) (during : List Arrival := []) :
    Host.Outcome State Fault Refusal :=
  .next (s.meanwhile during (State.onTimer (s.bank bk).quenchTimer bk sense (State.quenchEnd bk)))

end Sys2Proof.Machine
end

