-- ==== Sys2Proof/Machine/SenseCommands.lean ====
section
/-! DEFINITION. The meanings of the changes of a bank's three comparator inputs (R104, R107, R110, R112, R115). A change of
an input that is not in use is ignored. -/

namespace Sys2Proof.Machine

/-- The upper input in use reports current at or above the upper code: a rise phase ends, or HOLD decays (R107, R110). -/
def State.upperChange (bk : BankId) (s : State) : State :=
  match (s.bank bk).channel with
  | none => s
  | some p =>
    match p.cond with
    | .boostRise _ level => if senseAtLeast (s.senseOf bk) level then s.levelReached bk p else s
    | .batteryRise level => if senseAtLeast (s.senseOf bk) level then s.levelReached bk p else s
    | .hold charging =>
      if charging && senseAtLeast (s.senseOf bk) p.profile.holdUpper then s.setHolding bk p false else s
    | .freewheel => s
    | .quench => s

/-- The lower input in use reports current below the lower code: HOLD charges (R110), or the quench ends (R115). -/
def State.lowerChange (bk : BankId) (s : State) : State :=
  match (s.bank bk).channel with
  | none => s
  | some p =>
    match p.cond with
    | .hold charging =>
      if !charging && senseUnder (s.senseOf bk) p.profile.holdLower then s.setHolding bk p true else s
    | .quench => if senseUnder (s.senseOf bk) p.quenchLevel then s.quenchEnd bk else s
    | .boostRise _ _ => s
    | .batteryRise _ => s
    | .freewheel => s

/-- The short input reports current at or above SHORT_LEVEL while a phase is played (R112). -/
def State.shortChange (bk : BankId) (s : State) : State :=
  match (s.bank bk).channel with
  | none => s
  | some p => if senseAtLeast (s.senseOf bk) p.shortLevel then s.endPlayed bk .shortFault else s

/-- UPPER_INPUT_CHANGE. -/
def execUpperInputChange (bk : BankId) (t : Time) (sense : BankSense) (s : State) (during : List Arrival := []) :
    Host.Outcome State Fault Refusal := .next ((s.expire t bk sense).meanwhile during (State.upperChange bk))

/-- LOWER_INPUT_CHANGE. -/
def execLowerInputChange (bk : BankId) (t : Time) (sense : BankSense) (s : State) (during : List Arrival := []) :
    Host.Outcome State Fault Refusal := .next ((s.expire t bk sense).meanwhile during (State.lowerChange bk))

/-- SHORT_INPUT_CHANGE. -/
def execShortInputChange (bk : BankId) (t : Time) (sense : BankSense) (s : State) (during : List Arrival := []) :
    Host.Outcome State Fault Refusal := .next ((s.expire t bk sense).meanwhile during (State.shortChange bk))

end Sys2Proof.Machine
end

