-- ==== Sys2Proof/Machine/Requests.lean ====
section
/-! DEFINITION. The meanings of the requests (07) and of the two ends of a LOAD. A request is a write of the REQUEST word
(R128); what its table row and argument check (R129) decide is `accepted`. -/

namespace Sys2Proof.Machine

/-! ## Where a request is accepted (the table of R128) -/

/-- LOAD: in STOPPED and READY. -/
def RunState.takesLoad : RunState → Bool
  | .stopped => true
  | .ready => true
  | .loading => false
  | .running => false
  | .stopping => false

/-- STOP, INHIBIT and RELEASE: in READY, RUNNING and STOPPING. -/
def RunState.isLoaded : RunState → Bool
  | .ready => true
  | .running => true
  | .stopping => true
  | .stopped => false
  | .loading => false

/-- An on/off argument: 0 or 1 (R129). -/
def switchArg (arg : Byte) : Bool := decide (arg.toNat ≤ 1)

/-! ## LOAD -/

/-- LOAD (R131). -/
def execLoad (arg : Byte) (top : BitVec 4) (s : State) (during : List Arrival := []) : Host.Outcome State Fault Refusal :=
  .next (s.meanwhile during (State.takeRequest (requestWord 1 arg top) s.ctl.run.takesLoad State.beginLoad))

/-- The staging copy as it stands when the reading has ended (R147). -/
def State.stagedAll (s : State) : List StagedByte := stageAll s.mem s.su.staging

/-- The completion of the LOAD in progress, where it has read and checked everything and every check has passed (R153;
DEDUCED, assumption 5). -/
def State.loadPasses (s : State) : State :=
  if s.ctl.run = .loading then
    match loadError s.stagedAll with
    | none => s.completeLoad s.stagedAll
    | some _ => s
  else s

/-- LOAD_COMPLETE. -/
def execLoadComplete (s : State) (during : List Arrival := []) : Host.Outcome State Fault Refusal :=
  .next (s.meanwhile during State.loadPasses)

/-- The failure of the LOAD in progress, where a check has failed (R151; DEDUCED, assumption 5). -/
def State.loadFails (s : State) : State :=
  if s.ctl.run = .loading then
    match loadError s.stagedAll with
    | some e => s.failLoad e
    | none => s
  else s

/-- LOAD_FAIL. -/
def execLoadFail (s : State) (during : List Arrival := []) : Host.Outcome State Fault Refusal :=
  .next (s.meanwhile during State.loadFails)

/-! ## RUN and STOP -/

/-- An accepted RUN (R132): the trim copy, and the next firing edge sets the next-event entries afresh (R26). -/
def State.beginRun (s : State) : State :=
  (s.copyTrim.modLatch fun l => { l with entriesUnset := true }).changeRun .running

/-- RUN. -/
def execRun (arg : Byte) (top : BitVec 4) (s : State) (during : List Arrival := []) : Host.Outcome State Fault Refusal :=
  .next (s.meanwhile during (State.takeRequest (requestWord 2 arg top) (s.ctl.run == .ready) State.beginRun))

/-- A stop mode taken in RUNNING (R133): CYCLE where firing is not possible becomes EVENT at once (R134). -/
def State.enterStop (m : StopMode) (s : State) : State :=
  match m with
  | .cycle => if s.trk.canFire then s.setStopMode .cycle else s.stopEvent
  | .event => s.stopEvent
  | .cut => s.stopCut
  | .none => s

/-- A stop mode judged against the one in force (R137; DEDUCED, assumption 28). -/
def State.strengthenStop (m : StopMode) (s : State) : State :=
  match s.ctl.stopMode, m with
  | .cycle, .event => s.stopEvent
  | .cycle, .cut => s.stopCut
  | .event, .cut => s.stopCut
  | _, _ => s

/-- An accepted STOP by run state (R133). In READY a CUT truncates the service pulse (R124). -/
def State.stopBy (m : StopMode) (s : State) : State :=
  match s.ctl.run with
  | .ready => if m = .cut then s.truncateServices else s
  | .running => (s.changeRun .stopping).enterStop m
  | .stopping => s.strengthenStop m
  | .stopped => s
  | .loading => s

/-- A STOP request with an argument (R129, R133). -/
def State.takeStop (arg : Byte) (top : BitVec 4) (s : State) : State :=
  match stopModeOf arg with
  | some m => s.takeRequest (requestWord 3 arg top) s.ctl.run.isLoaded (State.stopBy m)
  | none => s.takeRequest (requestWord 3 arg top) false id

/-- STOP, taken at tick `t` with the four sense stages showing `sense`. -/
def execStop (arg : Byte) (top : BitVec 4) (t : Time) (sense : Four BankSense) (s : State) (during : List Arrival := []) :
    Host.Outcome State Fault Refusal := .next (((s.at t).seeAll sense).meanwhile during (State.takeStop arg top))

/-! ## INHIBIT and RELEASE -/

/-- The inhibit takes the argument's value (R140). -/
def State.setInhibit (arg : Byte) (s : State) : State := s.setCtl { s.ctl with inhibit := arg == 1 }

/-- INHIBIT. -/
def execInhibit (arg : Byte) (top : BitVec 4) (s : State) : Host.Outcome State Fault Refusal :=
  .next (s.takeRequest (requestWord 4 arg top) (s.ctl.run.isLoaded && switchArg arg) (State.setInhibit arg))

/-- RELEASE makes the cylinder ENABLED and clears its consecutive faults, and writes both (R122), STATE first (DESIGN CHOICE,
assumption 31). -/
def State.releaseCyl (k : CylId) (s : State) : State :=
  let c := { s.cyl k with quarantined := false, faults := 0 }
  (s.setCyl k c).statusAll (cylStateWords k c ++ faultWords k c)

/-- A RELEASE request with an argument (R129). -/
def State.takeRelease (arg : Byte) (top : BitVec 4) (s : State) : State :=
  match s.namedCylinder arg.toNat with
  | some k => s.takeRequest (requestWord 5 arg top) s.ctl.run.isLoaded (State.releaseCyl k)
  | none => s.takeRequest (requestWord 5 arg top) false id

/-- RELEASE. -/
def execRelease (arg : Byte) (top : BitVec 4) (s : State) (during : List Arrival := []) : Host.Outcome State Fault Refusal :=
  .next (s.meanwhile during (State.takeRelease arg top))

/-! ## SERVICE -/

/-- PROFILE_COUNT of the setup copy. -/
def State.profileCount (s : State) : Nat :=
  match s.su.setup with
  | some u => u.profiles.length
  | none => 0

/-- The conditions of R141 beside the argument's cylinder. -/
def State.serviceAllowed (k : CylId) (arg : Byte) (s : State) : Bool :=
  s.ctl.run == .ready && decide (serviceProfile arg < s.profileCount) && !serviceTop arg && s.trk.sync == .noSignal
    && !(s.cyl k).quarantined && (s.bank (s.bankOf k)).mode == .idle && s.serviceHolder.isNone

/-- Step 1 of R123: the bank enters ACTIVE with the service pulse as holder. -/
def State.holdService (bk : BankId) (k : CylId) (profile : Nat) (s : State) : State :=
  (s.setBank bk { s.bank bk with holder := some ⟨.service profile, k, s.now⟩ }).setMode bk .active

/-- Step 2 of R123: the service entry. -/
def State.startEntry (k : CylId) (profile : Nat) (s : State) : State :=
  (s.setSb { s.sb with service := .started k profile }).statusAll (serviceStartWords (.started k profile))

/-- An accepted SERVICE (R123): the holder, the service entry, the channel engaged. -/
def State.beginService (k : CylId) (profile : Nat) (sense : BankSense) (s : State) : State :=
  (((s.see (s.bankOf k) sense).holdService (s.bankOf k) k profile).startEntry k profile).engage (s.bankOf k)
    (.service profile) k profile s.su.trim.serviceDuration

/-- A SERVICE request with an argument (R141). -/
def State.takeService (arg : Byte) (top : BitVec 4) (sense : BankSense) (s : State) : State :=
  match s.namedCylinder (serviceCyl arg) with
  | some k =>
    s.takeRequest (requestWord 6 arg top) (s.serviceAllowed k arg) (State.beginService k (serviceProfile arg) sense)
  | none => s.takeRequest (requestWord 6 arg top) false id

/-- SERVICE, taken at tick `t` with the cylinder's bank showing `sense`. -/
def execService (arg : Byte) (top : BitVec 4) (t : Time) (sense : BankSense) (s : State) (during : List Arrival := []) :
    Host.Outcome State Fault Refusal := .next ((s.at t).meanwhile during (State.takeService arg top sense))

/-! ## SOFT_RESET, PARITY_SENSE, undefined codes -/

/-- SOFT_RESET, between the accesses of no command; one among them arrives during the command (R144). -/
def execSoftReset (arg : Byte) (top : BitVec 4) (s : State) : Host.Outcome State Fault Refusal :=
  .next (s.takeSoftReset arg top)

/-- The parity sense takes the argument's value (R142). -/
def State.setParitySense (arg : Byte) (s : State) : State := s.setCtl { s.ctl with evenParity := arg == 1 }

/-- PARITY_SENSE: refused in LOADING. -/
def execParitySense (arg : Byte) (top : BitVec 4) (s : State) : Host.Outcome State Fault Refusal :=
  .next (s.takeRequest (requestWord 8 arg top) (s.ctl.run != .loading && switchArg arg) (State.setParitySense arg))

/-- A REQUEST write with a code that no request has is refused (R128). -/
def execUndefinedRequest (code : BitVec 4) (arg : Byte) (top : BitVec 4) (s : State) : Host.Outcome State Fault Refusal :=
  .next (s.takeRequest (requestWord code arg top) false id)

end Sys2Proof.Machine
end

