-- ==== Sys2Proof/Machine/Bus.lean ====
section
/-! DEFINITION. The meanings of the register and memory accesses of the bus port (09, 10) that are not requests. The word a
read returns is left on the data lines, `pins.busData`. -/

namespace Sys2Proof.Machine

/-! ## Registers -/

/-- EVENT is returned and the sticky flags returned as 1 are cleared (R179). -/
def State.readEvent (s : State) : State := (s.drive s.event).clearReturned

/-- EVENT_READ. -/
def execEventRead (s : State) : Host.Outcome State Fault Refusal := .next (s.takeRead State.readEvent)

/-- The mask takes the written word (R180). -/
def State.setMask (mask : Word) (s : State) : State := s.setEv { s.ev with mask := mask }

/-- EVENT_MASK_WRITE. -/
def execEventMaskWrite (mask : Word) (s : State) : Host.Outcome State Fault Refusal := .next (s.takeWrite (State.setMask mask))

/-- REGISTER_WRITE_IGNORED: taken and discarded (R169). -/
def execRegisterWriteIgnored (_reg : BitVec 3) (_data : Word) (s : State) : Host.Outcome State Fault Refusal := .next s

/-! ## Memory -/

/-- HOST_MEMORY_WRITE. -/
def execHostMemoryWrite (addr : BitVec 13) (data : Word) (s : State) : Host.Outcome State Fault Refusal :=
  .next (s.takeWrite (State.hostWrite addr data))

/-- HOST_MEMORY_READ. -/
def execHostMemoryRead (addr : BitVec 13) (s : State) : Host.Outcome State Fault Refusal :=
  .next (s.takeRead (State.hostRead addr))

end Sys2Proof.Machine
end

