-- ==== Sys2Proof/Machine/ResetCommands.lean ====
section
/-! DEFINITION. The meanings of the power-on reset, its end, and the assertion and release of RESET_N (R143, R145, R189). -/

namespace Sys2Proof.Machine

/-- POWER_ON_RESET: every block at its reset values with cause POWER, memory and parity undefined. The tick count is set
to 0 here as well as at the end (DESIGN CHOICE, assumption 20). -/
def execPowerOnReset (s : State) : Host.Outcome State Fault Refusal :=
  .next ((((s.resetBlocks .power).setMem s.mem.powerOn).setPins { s.pins with powerOn := true }).setNow 0)

/-- POWER_ON_RESET_END: the tick count starts from 0 (R189). The part leaves reset unless RESET_N still holds it
(DESIGN CHOICE, assumption 22). -/
def execPowerOnResetEnd (s : State) : Host.Outcome State Fault Refusal :=
  if s.pins.powerOn then .next ((s.setPins { s.pins with powerOn := false }).setNow 0) else .next s

/-- PIN_RESET. -/
def execPinReset (s : State) : Host.Outcome State Fault Refusal := .next s.assertReset

/-- PIN_RESET_RELEASE: the part leaves reset in STOPPED, unless a power-on reset still holds it. -/
def execPinResetRelease (s : State) : Host.Outcome State Fault Refusal :=
  .next (s.setPins { s.pins with resetN := false })

end Sys2Proof.Machine
end

