-- ==== Sys2Proof/Machine/BusPort.lean ====
section
/-! DEFINITION. The bus port (R161, R169): which command an access of the port is, and the word a read access returns. One
access is one command of the queue; reads of the registers without a row in the command table have no effect on the part
and are given here by their word alone (DEDUCED, assumption 24). -/

namespace Sys2Proof.Machine

/-- An access cycle of the port: chip select and the two strobes as asserted, register select, word address, and the word
on the data lines when the write strobe is released. -/
structure BusCycle where
  cs : Bool
  rd : Bool
  wr : Bool
  rs : Bool
  addr : BitVec 13
  data : Word
  deriving DecidableEq, Repr

/-- What an access cycle is (R161): none without chip select, without a strobe, or with both strobes. -/
inductive BusAccess where
  | noAccess
  | memoryRead (addr : BitVec 13)
  | memoryWrite (addr : BitVec 13) (data : Word)
  | registerRead (reg : BitVec 3)
  | registerWrite (reg : BitVec 3) (data : Word)
  deriving DecidableEq, Repr

/-- The register word named by the low three address lines (R161). -/
def registerWord (addr : BitVec 13) : BitVec 3 := addr.extractLsb' 0 3

def BusCycle.access (c : BusCycle) : BusAccess :=
  if !c.cs || c.rd == c.wr then .noAccess
  else if c.rd then (if c.rs then .registerRead (registerWord c.addr) else .memoryRead c.addr)
  else (if c.rs then .registerWrite (registerWord c.addr) c.data else .memoryWrite c.addr c.data)

/-- The code, the argument and the ignored top bits of a REQUEST word (R128). -/
def requestCode (w : Word) : BitVec 4 := w.extractLsb' 0 4
def requestArg (w : Word) : Byte := w.extractLsb' 4 8
def requestTop (w : Word) : BitVec 4 := w.extractLsb' 12 4

/-- The request that a written REQUEST word is (R128), taken at tick `t` with the sense stages showing `sense`, and with what
arrives during its accesses. -/
def requestCommand (s : State) (w : Word) (t : Time) (sense : Four BankSense) (during : List Arrival) : Instr :=
  let arg := requestArg w
  let top := requestTop w
  match (requestCode w).toNat with
  | 1 => .load arg top during
  | 2 => .run arg top during
  | 3 => .stop arg top t sense during
  | 4 => .inhibit arg top
  | 5 => .release arg top during
  | 6 => .service arg top t (sense.get (s.bankOf ((CylId.fromNumber (serviceCyl arg)).getD .c1))) during
  | 7 => .softReset arg top
  | 8 => .paritySense arg top
  | _ => .undefinedRequest (requestCode w) arg top

/-- Whether the port takes accesses: not while a power-on reset is in progress (R173). Where RESET_N is asserted beside it,
reads are taken and drive 0x0000 (R161; DEDUCED, assumption 20). -/
def State.portTakes (s : State) : Bool := !s.pins.powerOn || s.pins.resetN

/-- The command that an access puts into the queue, if its access has a row in the command table. -/
def BusAccess.row (s : State) (t : Time) (sense : Four BankSense) (during : List Arrival) : BusAccess → Option Instr
  | .noAccess => none
  | .memoryRead addr => some (.hostMemoryRead addr)
  | .memoryWrite addr data => some (.hostMemoryWrite addr data)
  | .registerRead reg => if reg = 3 then some .eventRead else none
  | .registerWrite reg data =>
    if reg = 2 then some (requestCommand s data t sense during)
    else if reg = 5 then some (.eventMaskWrite data)
    else some (.registerWriteIgnored reg data)

/-- The command of an access that the port takes. -/
def BusAccess.command (s : State) (t : Time) (sense : Four BankSense) (during : List Arrival) (x : BusAccess) : Option Instr :=
  if s.portTakes then x.row s t sense during else none

/-- What a read access reads; an access that is no read reads nothing. -/
def BusAccess.read (s : State) : BusAccess → Option Word
  | .noAccess => none
  | .memoryRead addr => some (s.mem.readWord (byteOffset addr))
  | .memoryWrite _ _ => none
  | .registerRead reg => some (s.readRegister reg)
  | .registerWrite _ _ => none

/-- The word a read access drives on the data lines: none while the port takes no access (R173), and 0x0000 while RESET_N is
asserted (R161). -/
def BusAccess.returned (s : State) (x : BusAccess) : Option Word :=
  if s.portTakes then (x.read s).map fun w => if s.pins.resetN then 0 else w else none

end Sys2Proof.Machine
end

