-- ==== Sys2Proof/Machine/Dispatch.lean ====
section
/-! DEFINITION. The meaning of each command: one arm per constructor of Instr. -/

namespace Sys2Proof.Machine

/-- The effect of a command on everything but the queue. -/
def exec (i : Instr) (s : State) : Host.Outcome State Fault Refusal :=
  match i with
  | .crankEdge edge t sense during => Sys2Proof.Machine.execCrankEdge edge t sense s during
  | .markerEdge edge t during => Sys2Proof.Machine.execMarkerEdge edge t s during
  | .stall during => Sys2Proof.Machine.execStall s during
  | .startExpiry sense during => Sys2Proof.Machine.execStartExpiry sense s during
  | .slipDeadlineExpiry bk seq entry sense during => Sys2Proof.Machine.execSlipDeadlineExpiry bk seq entry sense s during
  | .headTimerExpiry bk sense during => Sys2Proof.Machine.execHeadTimerExpiry bk sense s during
  | .settleExpiry bk during => Sys2Proof.Machine.execSettleExpiry bk s during
  | .capExpiry bk sense during => Sys2Proof.Machine.execCapExpiry bk sense s during
  | .durationExpiry bk sense during => Sys2Proof.Machine.execDurationExpiry bk sense s during
  | .riseLimitExpiry bk sense during => Sys2Proof.Machine.execRiseLimitExpiry bk sense s during
  | .freewheelExpiry bk sense during => Sys2Proof.Machine.execFreewheelExpiry bk sense s during
  | .upperInputChange bk t sense during => Sys2Proof.Machine.execUpperInputChange bk t sense s during
  | .lowerInputChange bk t sense during => Sys2Proof.Machine.execLowerInputChange bk t sense s during
  | .shortInputChange bk t sense during => Sys2Proof.Machine.execShortInputChange bk t sense s during
  | .quenchExpiry bk sense during => Sys2Proof.Machine.execQuenchExpiry bk sense s during
  | .load arg top during => Sys2Proof.Machine.execLoad arg top s during
  | .loadComplete during => Sys2Proof.Machine.execLoadComplete s during
  | .loadFail during => Sys2Proof.Machine.execLoadFail s during
  | .run arg top during => Sys2Proof.Machine.execRun arg top s during
  | .stop arg top t sense during => Sys2Proof.Machine.execStop arg top t sense s during
  | .inhibit arg top => Sys2Proof.Machine.execInhibit arg top s
  | .release arg top during => Sys2Proof.Machine.execRelease arg top s during
  | .service arg top t sense during => Sys2Proof.Machine.execService arg top t sense s during
  | .softReset arg top => Sys2Proof.Machine.execSoftReset arg top s
  | .paritySense arg top => Sys2Proof.Machine.execParitySense arg top s
  | .undefinedRequest code arg top => Sys2Proof.Machine.execUndefinedRequest code arg top s
  | .eventRead => Sys2Proof.Machine.execEventRead s
  | .eventMaskWrite mask => Sys2Proof.Machine.execEventMaskWrite mask s
  | .registerWriteIgnored reg data => Sys2Proof.Machine.execRegisterWriteIgnored reg data s
  | .hostMemoryWrite addr data => Sys2Proof.Machine.execHostMemoryWrite addr data s
  | .hostMemoryRead addr => Sys2Proof.Machine.execHostMemoryRead addr s
  | .powerOnReset => Sys2Proof.Machine.execPowerOnReset s
  | .powerOnResetEnd => Sys2Proof.Machine.execPowerOnResetEnd s
  | .pinReset => Sys2Proof.Machine.execPinReset s
  | .pinResetRelease => Sys2Proof.Machine.execPinResetRelease s

end Sys2Proof.Machine
end

