-- ==== Sys2Proof/Machine/Step.lean ====
section
/-! DEFINITION. The step of the block: the command at the front of the queue is taken whole, and with an empty queue one tick
of the time base passes (R189). -/

namespace Sys2Proof.Machine

/-- One tick (R189; DESIGN CHOICE, assumption 2). It is counted during a power-on reset too, where R189 gives the count only at
the end (DESIGN CHOICE, assumption 20). -/
def State.tick (s : State) : State := s.setNow (s.now + 1)

/-- The step of the block. -/
def step (s : State) : Host.Outcome State Fault Refusal :=
  match s.pending with
  | c :: rest => exec c (s.setPending rest)
  | [] => .next s.tick

/-- The command a word spells put at the front of the queue; no word spells one. -/
def State.withFetchWord (s : State) (nbits w : Nat) : State :=
  match decodeTableWord nbits w with
  | some c => s.setPending (c :: s.pending)
  | none => s

end Sys2Proof.Machine
end

