-- ==== Sys2Proof/Safety.lean ====
section
/-! DEFINITION. The terms the claims use: what a command leaves of the memory, the invariants of a state that every command
keeps, and the pins of a part held in reset. -/

namespace Sys2Proof.Machine

/-! ## The memory before and after a command -/

/-- The memory as it stands between commands: nothing is in the word arbiter's hands. -/
def Memory.calm (m : Memory) : Prop := m.port = none

/-- Every byte outside the words at the offsets of `l` reads as before, with the parity it had, for a memory as it stands
between commands. -/
def Memory.SameOutside (l : List Nat) (m m' : Memory) : Prop :=
  m.calm → m'.calm ∧
    ∀ a, (∀ off ∈ l, a ≠ off ∧ a ≠ off + 1) → m'.readByte a = m.readByte a ∧ m'.byteBad a = m.byteBad a

/-- A word of the memory reads `w`, with good parity. -/
def Memory.Shows (m : Memory) (off : Nat) (w : Word) : Prop := m.readWord off = w ∧ m.wordBad off = false

/-- The part has written the words of `l`, and nothing else. -/
def Memory.Stored (l : List (Nat × Word)) (m m' : Memory) : Prop :=
  m.SameOutside (l.map Prod.fst) m' ∧ (m.calm → ∀ p ∈ l, m'.Shows p.1 p.2)

/-- The status block's owner has shown the words of `l` (R181): written where the block is live; where it is not, the memory
is as before. -/
def Memory.Shown (live : Bool) (l : List (Nat × Word)) (m m' : Memory) : Prop :=
  if live then m.Stored l m' else m' = m

/-! ## Banks -/

/-- A holder is present in ACTIVE and QUENCH, and in no other state (R81). -/
def Bank.holderOk (x : Bank) : Prop := x.holder.isSome = true ↔ (x.mode = .active ∨ x.mode = .quench)

/-- A channel that is not IDLE plays for its bank's holder, which is not dry, and is in QUENCH exactly while the bank is
(R89, R95, R98, R103). -/
def Bank.channelOk (x : Bank) : Prop :=
  ∀ p, x.channel = some p →
    (∃ h, x.holder = some h ∧ h.cyl = p.cyl ∧ h.job = p.job ∧ h.dry = false) ∧ (x.mode = .quench ↔ p.cond = .quench)

/-- The wait list holds at most four requests (R87). -/
def Bank.waitOk (x : Bank) : Prop := x.waiting.length ≤ 4

def Bank.ok (x : Bank) : Prop := x.holderOk ∧ x.channelOk ∧ x.waitOk

/-- Every bank keeps its rules. -/
def State.banksOk (s : State) : Prop := ∀ bk, (s.bank bk).ok

/-! ## The part as a whole -/

/-- The memory keeps its canonical form. -/
def State.memOk (s : State) : Prop := s.mem.wf = true

/-- The stop mode is NONE in every run state except STOPPING (R127); the tracker is in NO_SIGNAL in STOPPED and LOADING
(R1); a copy from a completed LOAD is in force in READY, RUNNING and STOPPING (R129). -/
def State.runOk (s : State) : Prop :=
  (s.ctl.run = .stopping ↔ s.ctl.stopMode ≠ .none) ∧ (s.ctl.run.tracks = false → s.trk.sync = .noSignal)
    ∧ (s.ctl.run.tracks = true → s.su.setup.isSome = true)

/-- While the part is held in reset, every block stands at its reset values, with cause POWER or PIN (R145): resetting it
again changes nothing. -/
def State.heldOk (s : State) : Prop :=
  s.held = true → ∃ cause, cause ≠ .soft ∧ s.resetBlocks cause = s

/-- No gate pin is driven high, and the three codes of every threshold link are 0 (R187, R188). -/
def State.quietPins (s : State) : Prop :=
  (∀ bk, s.boostPin bk = false ∧ s.batteryPin bk = false ∧ (s.bank bk).codes = (0, 0, 0)) ∧ ∀ k, s.lowSidePin k = false

/-- No hold count exceeds HOLD_LIMIT of the trim in force (R51). -/
def State.holdsOk (s : State) : Prop := ∀ k, (s.cyl k).holdCount ≤ s.su.trim.holdLimit

end Sys2Proof.Machine

namespace Sys2Proof

open Machine

/-! ## Kinds of command -/

/-- What arrives while a command's own accesses are made (R163). The commands without that operand make none. -/
def Instr.during : Instr → List Arrival
  | .crankEdge _ _ _ l => l
  | .markerEdge _ _ l => l
  | .stall l => l
  | .startExpiry _ l => l
  | .slipDeadlineExpiry _ _ _ _ l => l
  | .headTimerExpiry _ _ l => l
  | .settleExpiry _ l => l
  | .capExpiry _ _ l => l
  | .durationExpiry _ _ l => l
  | .riseLimitExpiry _ _ l => l
  | .freewheelExpiry _ _ l => l
  | .quenchExpiry _ _ l => l
  | .upperInputChange _ _ _ l => l
  | .lowerInputChange _ _ _ l => l
  | .shortInputChange _ _ _ l => l
  | .load _ _ l => l
  | .loadComplete l => l
  | .loadFail l => l
  | .run _ _ l => l
  | .stop _ _ _ _ l => l
  | .release _ _ l => l
  | .service _ _ _ _ l => l
  | _ => []

/-- Whether an arrival is a reset. -/
def resetArrives : Meanwhile → Bool
  | .hostWrite _ _ => false
  | .hostRead _ => false
  | .softReset _ _ => true
  | .pinReset => true

/-- The commands that reset every block (R143): the three resets, and a command in whose midst SOFT_RESET or RESET_N arrives
(R144, R145). -/
def Instr.resets (c : Instr) : Prop :=
  (∃ arg top, c = .softReset arg top) ∨ c = .powerOnReset ∨ c = .pinReset ∨ ∃ x ∈ c.during, resetArrives x.what = true

/-- A host write of the word at address `addr` arrives among a command's accesses. -/
def Instr.meets (c : Instr) (addr : BitVec 13) : Prop := ∃ x ∈ c.during, ∃ data, x.what = .hostWrite addr data

/-- The commands that are writes of the REQUEST register, with the word each writes (R128). -/
def Instr.requestWord? : Instr → Option Word
  | .load arg top _ => some (requestWord 1 arg top)
  | .run arg top _ => some (requestWord 2 arg top)
  | .stop arg top _ _ _ => some (requestWord 3 arg top)
  | .inhibit arg top => some (requestWord 4 arg top)
  | .release arg top _ => some (requestWord 5 arg top)
  | .service arg top _ _ _ => some (requestWord 6 arg top)
  | .softReset arg top => some (requestWord 7 arg top)
  | .paritySense arg top => some (requestWord 8 arg top)
  | .undefinedRequest code arg top => some (requestWord code arg top)
  | _ => none

/-- The moves of the run state that each command can make (R127, R131 to R136), the resets apart. -/
def Instr.moves (c : Instr) (r r' : RunState) : Prop :=
  match c with
  | .load _ _ _ => (r = .stopped ∨ r = .ready) ∧ r' = .loading
  | .loadComplete _ => r = .loading ∧ r' = .ready
  | .loadFail _ => r = .loading ∧ r' = .stopped
  | .run _ _ _ => r = .ready ∧ r' = .running
  | .stop _ _ _ _ _ => (r = .running ∧ (r' = .stopping ∨ r' = .ready)) ∨ (r = .stopping ∧ r' = .ready)
  | .softReset _ _ => False
  | .powerOnReset => False
  | .pinReset => False
  | .inhibit _ _ => False
  | .release _ _ _ => False
  | .service _ _ _ _ _ => False
  | .paritySense _ _ => False
  | .undefinedRequest _ _ _ => False
  | .eventRead => False
  | .eventMaskWrite _ => False
  | .registerWriteIgnored _ _ => False
  | .hostMemoryWrite _ _ => False
  | .hostMemoryRead _ => False
  | .powerOnResetEnd => False
  | .pinResetRelease => False
  | _ => r = .stopping ∧ r' = .ready

end Sys2Proof

namespace Sys2Proof.Machine

/-! ## Drops -/

/-- A pulse that waits for an angle, a start or a bank, dropped at tick `t` with an outcome. Its SLIP counts from its armed
start once it has requested its bank, and is 0 before (R47, R75, R99). Any other pulse is left as it is. -/
def Pulse.dropped (t : Time) (o : PulseOutcome) (p : Pulse) : Pulse :=
  if p.cond = .pending ∨ p.cond = .armed ∨ p.cond = .waiting then
    { p with
      cond := .resolved
      outcome := some o
      slip := if p.cond = .waiting then (p.start.map fun x => Time.since t x).getD 0 else 0 }
  else p

/-- An event with its waiting pulses dropped. -/
def Event.dropped (t : Time) (o : PulseOutcome) (e : Event) : Event := { e with pulses := e.pulses.map (Pulse.dropped t o) }

/-- What has become of an event of cylinder `k` whose pulses stand as in `e` (R45, R46, R77): while one is unresolved it is in
the table; with all of them RESOLVED it has completed, and the status entry's owner has its source, outcome and sequence. -/
def State.judged (y : State) (k : CylId) (e : Event) : Prop :=
  ((∃ p ∈ e.pulses, p.cond ≠ .resolved) → (y.cyl k).event = some e)
    ∧ ((∀ p ∈ e.pulses, p.cond = .resolved) → (y.cyl k).event = none ∧ (y.cyl k).lastSource = e.source
      ∧ (y.cyl k).lastOutcome = some (eventOutcome e.pulses) ∧ (y.cyl k).lastSeq = e.seq)

/-- Every pending, armed and waiting pulse of every event has been dropped at tick `t` with an outcome: the pending list, the
armed set and every wait list are empty, and the events have been judged. -/
def State.allDropped (s y : State) (o : PulseOutcome) (t : Time) : Prop :=
  y.arm.pendingList = [] ∧ y.arm.armedSet = [] ∧ (∀ bk, (y.bank bk).waiting = [])
    ∧ ∀ k, ((s.cyl k).event = none → (y.cyl k).event = none) ∧ ∀ e, (s.cyl k).event = some e → y.judged k (e.dropped t o)

/-- No pulse of a cylinder is left in the pending list, the armed set or a wait list. -/
def State.unlisted (y : State) (k : CylId) : Prop :=
  (∀ q ∈ y.arm.pendingList, q.cyl ≠ k) ∧ (∀ q ∈ y.arm.armedSet, q.entry.cyl ≠ k) ∧ ∀ j, ∀ r ∈ (y.bank j).waiting, r.cyl ≠ k

/-! ## Crank and marker edges -/

/-- A crank edge of polarity `edge` at tick `t` is taken with interval `i`, and is no noise (R1, R3, R4, R188; assumption 30). -/
structure EdgeTaken (u : Setup) (s : State) (edge : Edge) (t : Time) (i : Nat) : Prop where
  setup : s.su.setup = some u
  runs : s.ctl.run.tracks = true
  polarity : edge = u.crankEdge
  sync : s.trk.sync ≠ .noSignal
  interval : ∃ l, s.trk.lastTime = some l ∧ i = min 16777215 (Time.since t l)
  accepted : ∀ x, s.trk.expected u = some x → x ≤ 4 * i ∧ 0 < i

/-- What the interval of an accepted edge makes of the tracker, with a span and a trim set (R3, R11, R19, R22); `fresh` where
T_prev is set absent. -/
def Tracker.measured (u : Setup) (m : Trim) (span : Nat) (fresh : Bool) (i : Nat) (t : Time) (x : Tracker) : Tracker :=
  { x with
    lastTime := some t
    lastInterval := some i
    tLast := some (i / span)
    tPrev := if fresh then none else x.tLast
    tPred := predict (m.predictMode == 1) (some (i / span)) (if fresh then none else x.tLast)
    overspeedCut := overspeedAfter m.overspeedPeriod m.overspeedHyst (some (i / span)) x.overspeedCut
    stallAt := some (Time.add t u.stallTicks) }

/-- A marker edge of polarity `edge` is taken, with the class of its angle at tick `t` (R1, R14). -/
structure MarkerTaken (u : Setup) (s : State) (edge : Edge) (t : Time) (c : MarkerClass) : Prop where
  setup : s.su.setup = some u
  runs : s.ctl.run.tracks = true
  polarity : edge = u.markerEdge
  angle : u.classify (s.trk.estimate u t) = c

/-- Stop mode CYCLE of `s` has become EVENT in `t`: STOPPING while an event is left, and READY with RUN_STATE (bit 11) when none
is (R134, R135, R139). -/
def State.cycleEnds (s t : State) : Prop :=
  s.ctl.run = .stopping → s.ctl.stopMode = .cycle →
    ((∃ k, (t.cyl k).event ≠ none) → t.ctl.run = .stopping ∧ t.ctl.stopMode = .event)
    ∧ ((∀ k, (t.cyl k).event = none) → t.ctl.run = .ready ∧ t.ctl.stopMode = .none ∧ t.ev.sticky.getLsbD 11 = true)

/-- No bank is held by the service pulse. -/
def State.noService (s : State) : Prop := ∀ bk, (s.bank bk).heldByService = false

/-- Banks go on with what holds them: state, holder and channel are as they were. -/
def State.holdersKept (s t : State) : Prop :=
  ∀ bk, (t.bank bk).mode = (s.bank bk).mode ∧ (t.bank bk).holder = (s.bank bk).holder
    ∧ (t.bank bk).channel = (s.bank bk).channel

/-- What latching and arming see of an accepted edge, the tracker and the tick count standing in `z` as the edge leaves them (R12,
R21): the distance to the next real edge is P, and (M+1)·P after the last tooth. -/
def State.viewAt (u : Setup) (reacquiring : Bool) (z : State) : EdgeView where
  time := z.now
  angle := z.trk.lastAngle
  d := if z.trk.tooth = u.n - u.m - 1 then (u.m + 1) * (11520 / u.n) else 11520 / u.n
  tPred := z.trk.tPred
  cycle := z.trk.cycle
  reacquiring := reacquiring

/-- The edge event of an accepted edge takes `z`, where the tracker's transitions and decisions have been made and the edge's words
written, to `y` (R21, R24, R124): a service pulse in play is truncated; then, where firing is possible, the event latch acts and
after it the arming unit, and where it is not neither acts. Without a service pulse ACTIVE nothing is truncated. -/
def State.edgeServed (u : Setup) (fires reacquiring : Bool) (z y : State) : Prop :=
  (fires = true →
    y = ((z.truncateServices).latchAll u (z.viewAt u reacquiring)).armAll u (z.viewAt u reacquiring))
  ∧ ((∀ bk, (z.bank bk).heldByService = true → (z.bank bk).mode ≠ .active) →
    z.truncateServices = z ∧ (fires = false → y = z))

/-! ## Pulses -/

/-- An event keeps a pulse that is not RESOLVED beside those with entry index `i`. -/
def Event.others (e : Event) (i : Nat) : Prop := ∃ q ∈ e.pulses, q.plan.index ≠ i ∧ q.cond ≠ .resolved

/-- The channel of a bank plays a phase of an event pulse, and its current is not below QUENCH_LEVEL. -/
structure Playing (s : State) (bk : BankId) (p : Player) (sense : BankSense) : Prop where
  channel : (s.bank bk).channel = some p
  phase : p.cond ≠ .quench
  current : p.quenchLevel ≤ sense.current.toNat

/-- The channel of a bank plays a phase, and its current is already below QUENCH_LEVEL, so that a quench of its pulse ends at its
own entry (R115). -/
structure Spent (s : State) (bk : BankId) (p : Player) (sense : BankSense) : Prop where
  channel : (s.bank bk).channel = some p
  phase : p.cond ≠ .quench
  current : sense.current.toNat < p.quenchLevel

/-- A bank has been released at tick `t` (R83, R95, R116). -/
def Bank.freed (x : Bank) (t : Time) : Prop :=
  x.mode = .settling ∧ x.holder = none ∧ x.channel = none ∧ x.releaseAt = some t ∧ x.capAt = none

/-- The service entry at the end of its pulse (R125): FLAGS, DRIVEN, PEAK_TIME and OUTCOME written over. -/
def ServiceEntry.closed (e : ServiceEntry) (r : PulseResult) : ServiceEntry :=
  ⟨e.cylWord, BitVec.ofNat 16 (2 * r.boostLow.toNat), BitVec.ofNat 16 (min 65535 r.driven),
    BitVec.ofNat 16 (min 65535 r.peak), BitVec.ofNat 16 r.outcome.code⟩

/-- The player after its pulse has ended with a result at tick `t`, in its quench (R113, R115). -/
def Player.ended (p : Player) (o : PulseOutcome) (t : Time) : Player :=
  { p with
    cond := .quench
    phaseTimer := none
    result := some ⟨o, Time.since t p.grantedAt, p.peak.getD 0, p.boostLow⟩
    quenchAt := some (Time.add t p.quenchMax) }

/-- The bank of a played pulse that has ended at tick `t` (R84, R95, R113). -/
def Bank.ended (x : Bank) (p : Player) (o : PulseOutcome) (t : Time) : Bank :=
  { x with
    mode := .quench
    channel := some (p.ended o t)
    boostEnd := if p.cond.boostGate then some t else x.boostEnd
    capAt := none }

/-- The results of an ended pulse in its event (R47, R95, R96). -/
def Event.ended (e : Event) (index : Nat) (c : PulseCond) (r : PulseResult) : Event :=
  { e with
    drive := e.drive + r.driven
    pulses := modPulses index (fun q =>
      { q with cond := c, outcome := some r.outcome, driven := r.driven, peak := r.peak, boostLow := r.boostLow }) e.pulses }

/-! ## Records -/

/-- The record at the take position has been finalised at take (R29): its fields as they then read, DONE with CYL as it was read,
the take position advanced, and EVENT_DONE, bit 0, raised where `notify`. -/
def State.finalisedAs (u : Setup) (s y : State) (seq : Word) (code : Nat) (notify : Bool) : Prop :=
  ∃ o m, o = 0x1000 + 128 * s.latch.takePos
    ∧ y = { s with
        latch := { s.latch with takePos := (s.latch.takePos + 1) % u.ringLen }
        ev := { s.ev with sticky := if notify then s.ev.sticky ||| 1 else s.ev.sticky }
        mem := m }
    ∧ Memory.Stored
      ([(o + 0x24, seq), (o + 0x28, s.now.extractLsb' 0 16), (o + 0x2A, s.now.extractLsb' 16 16),
          (o + 0x2C, BitVec.ofNat 16 s.estimate), (o + 0x26, BitVec.ofNat 16 code), (o + 0x2E, 0)]
        ++ (List.range 25).map (fun j => (o + 0x30 + 2 * j, 0))
        ++ [(o, BitVec.ofNat 16 (3 + 256 * (s.mem.readByte (o + 1)).toNat))]) s.mem m

/-! ## Starts -/

/-- The first pulse of the armed set, its event and its place in it, with the bank of its cylinder (R73). -/
structure Starting (u : Setup) (s : State) (a : ArmedEntry) (rest : List ArmedEntry) (e : Event) (p : Pulse) (bk : BankId) :
    Prop where
  setup : s.su.setup = some u
  first : s.arm.armedSet = a :: rest
  event : (s.cyl a.entry.cyl).event = some e
  seq : e.seq = a.entry.seq
  pulse : e.pulses.find? (fun q => q.plan.index == a.entry.index) = some p
  cond : p.cond.droppable = true
  bank : bk = (u.cyls.get a.entry.cyl).bank
  calm : s.mem.calm

/-- The re-read of R43 finds neither ABORT_REQ nor a parity error, or there is no record to read. -/
def State.noAbort (s : State) (e : Event) : Prop :=
  ∀ i, e.record = some i → s.mem.wordBad (0x1000 + 128 * i) = false ∧ s.mem.readByte (0x1000 + 128 * i) ≠ 4

/-- The state right after a start expiry, with the pulse changed by `f` and the armed set shortened (R73). -/
def State.started (s : State) (a : ArmedEntry) (rest : List ArmedEntry) (e : Event) (bk : BankId) (sense : BankSense)
    (f : Pulse → Pulse) : State :=
  { s with
    now := a.start
    pins := { s.pins with sense := s.pins.sense.set bk sense }
    arm := { s.arm with armedSet := rest }
    cyls := s.cyls.set a.entry.cyl { s.cyl a.entry.cyl with
      event := some { e with pulses := modPulses a.entry.index f e.pulses } } }

/-- Neither the dwell nor the recharge guard holds a bank back at tick `t` (R85). -/
def Bank.openAt (x : Bank) (boost : Bool) (minDwell recharge : Nat) (t : Time) : Prop :=
  (∀ r, x.releaseAt = some r → Time.later (Time.add r minDwell) t = false)
    ∧ (boost = true → ∀ b, x.boostEnd = some b → Time.later (Time.add b recharge) t = false)

/-- The player of a bank plays for a grant made at tick `t` (R105). -/
structure Engaged (y : State) (bk : BankId) (job : Job) (k : CylId) (f : Profile) (duration : Nat) (t : Time) : Prop where
  plays : ∃ q, (y.bank bk).channel = some q ∧ q.job = job ∧ q.cyl = k ∧ q.profile = f ∧ q.grantedAt = t
    ∧ q.durationAt = Time.add t duration ∧ q.cond ≠ .quench
  low : y.lowSidePin k = true

/-- Where a player comes to rest when it enters the first of the phases `rest` at tick `t`, none of them ending at its entry
(R106 to R110): the condition and its phase timer. -/
def Rests (sense : BankSense) (upper : Nat) (t : Time) (rest : List Ramp) (cond : ChannelCond) (timer : Option Time) : Prop :=
  (rest = [] ∧ cond = .hold (decide (sense.current.toNat < upper)) ∧ timer = none)
    ∨ (∃ time l, rest = .freewheel time :: l ∧ time ≠ 0 ∧ cond = .freewheel ∧ timer = some (Time.add t time))
    ∨ (∃ level limit l, rest = .batteryRise level limit :: l ∧ sense.current.toNat < level ∧ cond = .batteryRise level
        ∧ timer = some (Time.add t limit))
    ∨ (∃ level limit l, rest = .boostRise level limit :: l ∧ sense.current.toNat < level
        ∧ cond = .boostRise sense.boostOk level ∧ timer = some (Time.add t limit))

/-- A phase ends at its own entry (R106, R107): a rise whose level is reached there, or a FREEWHEEL of time 0. -/
def Ramp.passes (sense : BankSense) (r : Ramp) : Prop :=
  r = .freewheel 0 ∨ ∃ level limit, (r = .boostRise level limit ∨ r = .batteryRise level limit) ∧ level ≤ sense.current.toNat

/-- A bank released at tick `t` with an empty wait list (R83, R95). -/
def Bank.released (x : Bank) (m : Trim) (t : Time) : Bank :=
  { x with
    mode := .settling
    holder := none
    channel := none
    releaseAt := some t
    settleAt := match x.boostEnd with
      | none => some (Time.add t m.minDwell)
      | some b => some (Time.latest (Time.add t m.minDwell) (Time.add b m.rechargeGuard))
    headAt := none }

/-! ## Requests -/

/-- The run controller once a request has been taken (R128). -/
def Control.taken (c : Control) (w : Word) (r : RequestResult) : Control := { c with request := w, lastResult := r }

end Sys2Proof.Machine
end

