-- ==== Sys2Proof/Certificates/Slice0/Obligations.lean ====
section
/-! DEFINITION. The statements for the provers. Offsets, codes and flag bits stand here as the manual's tables give them, not by
the model's names, so that a statement also says where a value goes. A command written with `[]` is one during whose own accesses
nothing arrives; what arrives among them is the subject of ArbiterOrder, ResetDuringCommand, TakeRecord and the statements over
every command. -/

open Sys2Proof Sys2Proof.Machine

/-! ## The step, and every command -/

/-- The step takes the command at the front of the queue, whole, with the queue's rest. On an empty queue a step is one tick of
the time base (R189): that is the model's choice (assumption 2). -/
def Obligations.StepTakesFrontCommand : Prop :=
  (∀ (c : Instr) (rest : List Instr) (s : State), s.pending = c :: rest → step s = exec c { s with pending := rest })
    ∧ ∀ s : State, s.pending = [] → step s = .next { s with now := s.now + 1 }

/-- No command stops the part: each answers a next state, whatever arrives during it, and none touches the queue. -/
def Obligations.EveryCommandAnswersNext : Prop :=
  ∀ (c : Instr) (s : State), ∃ t, exec c s = .next t ∧ t.pending = s.pending

/-- The memory keeps its canonical form, and nothing is left in the word arbiter's hands. -/
def Obligations.StepKeepsMemoryForm : Prop :=
  ∀ s t : State, s.memOk → step s = .next t → t.memOk

/-- Every bank keeps its rules: a holder exactly in ACTIVE and QUENCH (R81), a player only for a holder that is not dry, in
QUENCH with its bank (R98, R103), at most four requests waiting (R87). -/
def Obligations.StepKeepsBankRules : Prop :=
  ∀ s t : State, s.banksOk → step s = .next t → t.banksOk

/-- The stop mode is NONE outside STOPPING (R127), the tracker rests in STOPPED and LOADING (R1), and a setup copy is in force in
the other run states (R129). -/
def Obligations.StepKeepsRunRules : Prop :=
  ∀ s t : State, s.runOk → step s = .next t → t.runOk

/-- A part held in reset stays at its reset values whatever arrives (R143, R145). -/
def Obligations.StepKeepsHeldReset : Prop :=
  ∀ s t : State, s.heldOk → step s = .next t → t.heldOk

/-- No hold count exceeds HOLD_LIMIT of the trim in force (R51). -/
def Obligations.StepKeepsHoldLimit : Prop :=
  ∀ s t : State, s.holdsOk → step s = .next t → t.holdsOk

/-- The five invariants hold right after reset. -/
def Obligations.ResetMeetsInvariants : Prop :=
  State.reset.memOk ∧ State.reset.banksOk ∧ State.reset.runOk ∧ State.reset.heldOk ∧ State.reset.holdsOk

/-- The part writes the status block and the plan ring and nothing else (R162): a byte of the setup block, the trim selector and
slots, the profile table or the general area is left by every command but a power-on reset and a host write; what arrives during
a command leaves it too, unless it is a host write of that byte's word. -/
def Obligations.HostRegionsKept : Prop :=
  ∀ (c : Instr) (s t : State), exec c s = .next t → s.mem.calm → (∀ addr data, c ≠ .hostMemoryWrite addr data) →
    c ≠ .powerOnReset →
    ∀ a, a < 0x180 ∨ (0x300 ≤ a ∧ a < 0x1000) → (∀ addr, c.meets addr → a ≠ 2 * addr.toNat ∧ a ≠ 2 * addr.toNat + 1) →
      t.mem.readByte a = s.mem.readByte a ∧ t.mem.byteBad a = s.mem.byteBad a

/-- The run state changes only as R127 and R131 to R136 let each command change it, and each such change raises RUN_STATE, bit
11 (R130); a reset, also one that arrives during a command, leaves STOPPED (R143). -/
def Obligations.RunStateMoves : Prop :=
  ∀ (c : Instr) (s t : State), exec c s = .next t → t.ctl.run ≠ s.ctl.run →
    (c.moves s.ctl.run t.ctl.run ∧ t.ev.sticky.getLsbD 11 = true) ∨ (c.resets ∧ t.ctl.run = .stopped)

/-- Only a read of EVENT and the resets clear a sticky flag (R176, R179); the mask, the inhibit, the parity sense, the REQUEST
word, the reset cause and the setup copy change only by the commands named for them. -/
def Obligations.FlagsAndSettingsKept : Prop :=
  ∀ (c : Instr) (s t : State), exec c s = .next t → ¬ c.resets →
    (c ≠ .eventRead → s.ev.sticky &&& t.ev.sticky = s.ev.sticky)
      ∧ ((∀ m, c ≠ .eventMaskWrite m) → t.ev.mask = s.ev.mask)
      ∧ ((∀ arg top, c ≠ .inhibit arg top) → t.ctl.inhibit = s.ctl.inhibit)
      ∧ ((∀ arg top, c ≠ .paritySense arg top) → t.ctl.evenParity = s.ctl.evenParity)
      ∧ (c.requestWord? = none → t.ctl.request = s.ctl.request ∧ t.ctl.lastResult = s.ctl.lastResult)
      ∧ t.ctl.resetCause = s.ctl.resetCause
      ∧ ((∀ l, c ≠ .loadComplete l) → (∀ l, c ≠ .loadFail l) → t.su.setup = s.su.setup)

/-! ## What arrives during a command -/

/-- R163, R164, R173, R174: a sequence of words that the part writes, with an arrival after `n` of its accesses. The first `n`
words are written; a host write is then taken, before the rest of the words, so that a later word of the part at the same offset
stands and an earlier one does not; a host read reads what then stands; and with a reset the rest is not written. The same of a
real command: a LOAD that fails writes SETUP_ERROR and SETUP_ERROR_OFFSET, in that order, which is the model's choice
(assumption 31). In LOADING a host write that arrives in a
command of another cause meets the reading (R147): a free number of further words is read before it, as the memory then stands, which
is the model's choice (assumption 9), as it is that an arrival's time is given by the accesses served before it (assumption 13). -/
def Obligations.ArbiterOrder : Prop :=
  ∀ (put : List (Nat × Word) → Memory → Memory) (s : State), s.held = false → s.mem.calm → s.ctl.run ≠ .loading →
    (∀ l m, put l m = l.foldl (fun m p => m.writeWord p.1 p.2 false) m) →
    (∀ (l : List (Nat × Word)) (n : Nat) (f : State → State), (∀ x, f x = l.foldl (fun x p => x.writeWord p.1 p.2) x) →
      (∀ addr data, s.meanwhile [⟨n, .hostWrite addr data⟩] f =
        { s with mem := put (l.drop n) ((put (l.take n) s.mem).writeWord (2 * addr.toNat) data s.ctl.evenParity) })
      ∧ (∀ addr, (put (l.take n) s.mem).wordBad (2 * addr.toNat) = false →
        s.meanwhile [⟨n, .hostRead addr⟩] f =
          { s with
            pins := { s.pins with busData := (put (l.take n) s.mem).readWord (2 * addr.toNat) }
            mem := put l s.mem })
      ∧ (∀ arg top, (s.meanwhile [⟨n, .softReset arg top⟩] f).mem = put (l.take n) s.mem)
      ∧ (s.meanwhile [⟨n, .pinReset⟩] f).mem = put (l.take n) s.mem)
    ∧ (∀ (z : State) (l : List (Nat × Word)) (n : Nat) (f : State → State) (addr : BitVec 13) (data : Word),
      z = { s with ctl := { s.ctl with run := .loading } } → (∀ x, f x = l.foldl (fun x p => x.writeWord p.1 p.2) x) →
      z.meanwhile [⟨n, .hostWrite addr data⟩] f =
        { z with
          mem := put (l.drop n) ((put (l.take n) s.mem).writeWord (2 * addr.toNat) data s.ctl.evenParity)
          su := { s.su with staging := stageMore (put (l.take n) s.mem) (Config.loadReads s.freeCount) s.su.staging }
          freeCount := s.freeCount + 1 })
    ∧ ∀ (z : State) (e : SetupError) (n : Nat) (l : List (Nat × Word)),
      z = { s with ctl := { s.ctl with run := .loading } } → loadError (stageAll s.mem s.su.staging) = some e →
      l = [(0x194, BitVec.ofNat 16 (e.code % 256)), (0x196, e.offset)] →
      (∀ addr data, ∃ y, exec (.loadFail [⟨n, .hostWrite addr data⟩]) z = .next y ∧ y.ctl.run = .stopped
        ∧ y.mem = put (l.drop n) ((put (l.take n) s.mem).writeWord (2 * addr.toNat) data s.ctl.evenParity))
      ∧ (∀ arg top, ∃ y, exec (.loadFail [⟨n, .softReset arg top⟩]) z = .next y ∧ y.mem = put (l.take n) s.mem)

/-- R143, R144, R145, R173: SOFT_RESET or RESET_N arriving during any command, after whatever host accesses, resets every block.
Nothing is left of the command but the memory, the sense lines and the data lines, and the tick count, of which nothing is said
here: that the memory holds the words written before the reset and none after it is what ArbiterOrder says, and that the host's
regions are kept what HostRegionsKept says. The model's choices in it: the values at reset that no rule gives (assumption 18), and
how an arrival's time is given (assumption 13). -/
def Obligations.ResetDuringCommand : Prop :=
  ∀ (c : Instr) (s : State) (pre : List Arrival) (x : Arrival), c.during = pre ++ [x] → s.held = false → s.mem.calm →
    (∀ w ∈ pre, resetArrives w.what = false) →
    (∀ arg top, x.what = .softReset arg top →
      ∃ y, exec c s = .next y ∧ y.pins.powerOn = s.pins.powerOn ∧ y.pins.resetN = s.pins.resetN
        ∧ y = { State.reset with
          pending := s.pending, now := y.now, pins := y.pins, ctl := { State.reset.ctl with resetCause := .soft }
          mem := y.mem, freeCount := y.freeCount })
    ∧ (x.what = .pinReset →
      ∃ y, exec c s = .next y ∧ y.pins.powerOn = s.pins.powerOn ∧ y.pins.resetN = true
        ∧ y = { State.reset with
          pending := s.pending, now := y.now, pins := y.pins, ctl := { State.reset.ctl with resetCause := .pin }
          mem := y.mem, freeCount := y.freeCount })

/-! ## Crank edges -/

/-- R1, R14: crank and marker edges are not taken in STOPPED and LOADING, nor of the other polarity, nor without a setup copy; a
marker edge is ignored in NO_SIGNAL, GAP_SEARCH and GAP_CHECK. Then only time passes, and the sense lines show what they
show. -/
def Obligations.EdgesNotTaken : Prop :=
  (∀ (s : State) (edge : Edge) (t : Time) (sense : Four BankSense),
    (s.ctl.run = .stopped ∨ s.ctl.run = .loading ∨ s.su.setup = none ∨ ∃ u, s.su.setup = some u ∧ edge ≠ u.crankEdge) →
    exec (.crankEdge edge t sense []) s = .next { s with now := t, pins := { s.pins with sense := sense } })
  ∧ ∀ (s : State) (edge : Edge) (t : Time),
    (s.ctl.run = .stopped ∨ s.ctl.run = .loading ∨ s.su.setup = none ∨ (∃ u, s.su.setup = some u ∧ edge ≠ u.markerEdge)
      ∨ s.trk.sync = .noSignal ∨ s.trk.sync = .gapSearch ∨ s.trk.sync = .gapCheck) →
    exec (.markerEdge edge t []) s = .next { s with now := t }

/-- R6: the first crank edge taken in NO_SIGNAL is accepted without a noise test. Its timestamp becomes the last edge time, the
stall timer starts, and the state becomes GAP_SEARCH. The edge event is no firing edge: with no service pulse in play nothing but
the tracker and its status words changes, and overspeed is not decided. A service pulse in play ends TRUNCATED (R124). -/
def Obligations.FirstEdge : Prop :=
  ∀ (u : Setup) (s : State) (t : Time) (sense : Four BankSense), s.su.setup = some u → s.ctl.run.tracks = true →
    s.trk.sync = .noSignal →
    ∃ y, exec (.crankEdge u.crankEdge t sense []) s = .next y
      ∧ y.trk = { s.trk with
          sync := .gapSearch, lastTime := some t, lastInterval := none, tLast := none, tPrev := none, tPred := 0,
          stallAt := some (Time.add t u.stallTicks), reacquire := true }
      ∧ (s.noService →
        y = { s with now := t, pins := { s.pins with sense := sense }, trk := y.trk, mem := y.mem }
          ∧ Memory.Shown s.sb.live [(0x186, 1), (0x188, 0), (0x18A, 0)] s.mem y.mem)
      ∧ ∀ bk p h f, Playing s bk p (sense.get bk) → (s.bank bk).holder = some h → (s.bank bk).mode = .active →
        h.job = .service f → p.job = .service f →
        (y.bank bk).mode = .quench ∧ (y.bank bk).holder = some h ∧ (y.bank bk).channel = some (p.ended .truncated t)
          ∧ (y.cyl p.cyl).faults = 0

/-- R4, R188: where an expected interval exists, an edge whose interval, four times, is less than it, and an edge whose interval is
0, is noise: it adds one to NOISE_EDGES, which saturates, and changes nothing else. The expected interval is the last interval in
GAP_SEARCH, and T_pred for each pitch expected in GAP_CHECK, CRANK_SYNC and PHASED. Any other edge that is taken is accepted, every
edge in NO_SIGNAL among them: its timestamp becomes the last edge time. That an interval of 0 is rejected also where the expected
interval is 0, as R188 says and R4's own comparison does not, is the model's choice between the two rules (assumption 30). -/
def Obligations.NoiseEdge : Prop :=
  ∀ (u : Setup) (s : State) (t : Time) (sense : Four BankSense) (noise : Prop), s.su.setup = some u →
    s.ctl.run.tracks = true →
    (noise ↔ ∃ l x i, s.trk.lastTime = some l ∧ i = min 16777215 (Time.since t l) ∧ (4 * i < x ∨ i = 0)
      ∧ ((s.trk.sync = .gapSearch ∧ s.trk.lastInterval = some x)
        ∨ ((s.trk.sync = .gapCheck ∨ s.trk.sync = .crankSync ∨ s.trk.sync = .phased)
          ∧ x = s.trk.tPred * (if s.trk.tooth = u.n - u.m - 1 then u.m + 1 else 1)))) →
    (noise → ∃ m, exec (.crankEdge u.crankEdge t sense []) s = .next
        { s with
          now := t
          pins := { s.pins with sense := sense }
          trk := { s.trk with noiseEdges := satCount s.trk.noiseEdges }
          mem := m }
      ∧ Memory.Shown s.sb.live [(0x1A0, satCount s.trk.noiseEdges)] s.mem m)
    ∧ (¬ noise → ∃ y, exec (.crankEdge u.crankEdge t sense []) s = .next y ∧ y.trk.lastTime = some t)

/-- R3, R5, R9, R12, R19, R22: an accepted edge in CRANK_SYNC or PHASED whose interval is gap-like exactly after the last tooth
moves the tooth index on, toggles the revolution bit at tooth 0, and gives the edge its angle, periods, prediction and
overspeed decision. This edge is no cycle boundary. With the tracker and its status words so changed and nothing else, the edge
event follows (R21): where firing is possible, in PHASED or under the assumption, the latch acts and then the arming unit, with this
edge's view; where it is not, neither does. In READY the edge latches and arms nothing, and nothing else changes. -/
def Obligations.PassedEdge : Prop :=
  ∀ (u : Setup) (s : State) (t : Time) (sense : Four BankSense) (i x : Nat), EdgeTaken u s u.crankEdge t i →
    (s.trk.sync = .crankSync ∨ s.trk.sync = .phased) → s.trk.tLast = some x →
    (u.gapRatio * x ≤ 16 * i ↔ s.trk.tooth = u.n - u.m - 1) →
    ∀ (zero : Bool) (k : Nat) (r : Bool) (a : Nat), zero = decide (s.trk.tooth = u.n - u.m - 1) →
    k = (if zero then 0 else s.trk.tooth + 1) → r = (if zero then !s.trk.rev else s.trk.rev) →
    a = (u.wheelOffset + (if r then 11520 else 0) + k * (11520 / u.n)) % 23040 →
    (s.trk.lastAngle ≤ a ∨ (s.trk.sync = .crankSync ∧ s.trk.phaseAssumed = false)) →
    ∃ y z, exec (.crankEdge u.crankEdge t sense []) s = .next y
      ∧ z = { s with now := t, pins := { s.pins with sense := sense }, trk := z.trk, mem := z.mem }
      ∧ z.trk = { (s.trk.measured u s.su.trim (if zero then u.m + 1 else 1) false i t) with
          tooth := k, rev := r, lastAngle := a, reacquire := !(s.trk.sync == .phased || s.trk.phaseAssumed) }
      ∧ Memory.Shown s.sb.live
        [(0x190, t.extractLsb' 0 16), (0x192, t.extractLsb' 16 16), (0x18C, BitVec.ofNat 16 a),
          (0x188, BitVec.ofNat 16 (z.trk.tLast.getD 0)), (0x18A, BitVec.ofNat 16 (z.trk.tLast.getD 0 / 65536)),
          (0x186, if s.trk.sync = .phased then 4 else 3), (0x184, s.trk.cycle)] s.mem z.mem
      ∧ State.edgeServed u (s.trk.sync == .phased || s.trk.phaseAssumed) s.trk.reacquire z y
      ∧ y.trk = z.trk ∧ y.now = t ∧ y.su = s.su
      ∧ (s.ctl.run = .ready → s.arm.pendingList = [] → s.noService → y = z)

/-- R7, R8, R17: an accepted edge in GAP_SEARCH or GAP_CHECK, gap-like or not. In GAP_SEARCH a gap makes the edge tooth 0 of a
candidate in GAP_CHECK, with T_prev absent, and any other edge leaves GAP_SEARCH. In GAP_CHECK a gap before the last tooth makes a
new candidate, a missing gap after it goes back to GAP_SEARCH, any other edge before it counts a tooth, and a gap after it makes
its edge tooth 0 of revolution 0 in CRANK_SYNC; with PHASE_ASSUME set the phase is then taken on assumption, SYNC_GAINED,
bit 4, is raised, and this edge, at which firing is possible, is latched and armed at (R21). But for that, and with no service pulse
in play, only the tracker and its status words change. That a missing gap
keeps the tooth index, which has no meaning in GAP_SEARCH, is the model's choice (assumption 37). -/
def Obligations.GapFound : Prop :=
  ∀ (u : Setup) (s : State) (t : Time) (sense : Four BankSense) (i : Nat) (gap last : Bool),
    EdgeTaken u s u.crankEdge t i → (gap = true ↔ ∃ x, s.trk.tLast = some x ∧ u.gapRatio * x ≤ 16 * i) →
    last = decide (s.trk.tooth = u.n - u.m - 1) → s.trk.phaseAssumed = false →
    ((s.trk.sync = .gapSearch ∨ (s.trk.sync = .gapCheck ∧ ¬ (gap = true ∧ last = true))) → s.noService →
      ∃ m, exec (.crankEdge u.crankEdge t sense []) s = .next
          { s with
            now := t
            pins := { s.pins with sense := sense }
            trk := { (s.trk.measured u s.su.trim (if gap then u.m + 1 else 1) gap i t) with
              sync := if gap then .gapCheck else if s.trk.sync = .gapCheck ∧ last = false then .gapCheck else .gapSearch
              tooth := if gap then 0 else if s.trk.sync = .gapCheck ∧ last = false then s.trk.tooth + 1 else s.trk.tooth
              reacquire := true }
            mem := m }
        ∧ Memory.Shown s.sb.live
          [(0x186, if gap then 2 else if s.trk.sync = .gapCheck ∧ last = false then 2 else 1),
            (0x188, BitVec.ofNat 16 (i / (if gap then u.m + 1 else 1))),
            (0x18A, BitVec.ofNat 16 (i / (if gap then u.m + 1 else 1) / 65536))] s.mem m)
    ∧ (s.trk.sync = .gapCheck → gap = true → last = true →
      ∃ y z, exec (.crankEdge u.crankEdge t sense []) s = .next y
        ∧ z = { s with
            now := t
            pins := { s.pins with sense := sense }
            trk := { (s.trk.measured u s.su.trim (u.m + 1) false i t) with
              sync := .crankSync, tooth := 0, rev := false, lastAngle := u.wheelOffset % 23040,
              phaseAssumed := u.phaseAssume, reacquire := !u.phaseAssume }
            ev := { s.ev with sticky := if u.phaseAssume then s.ev.sticky ||| 0x0010 else s.ev.sticky }
            mem := z.mem }
        ∧ Memory.Shown s.sb.live
          [(0x190, t.extractLsb' 0 16), (0x192, t.extractLsb' 16 16), (0x18C, BitVec.ofNat 16 (u.wheelOffset % 23040)),
            (0x188, BitVec.ofNat 16 (i / (u.m + 1))), (0x18A, BitVec.ofNat 16 (i / (u.m + 1) / 65536)),
            (0x186, 3), (0x184, s.trk.cycle)] s.mem z.mem
        ∧ State.edgeServed u u.phaseAssume s.trk.reacquire z y
        ∧ y.trk = z.trk ∧ (u.phaseAssume = true → y.ev.sticky.getLsbD 4 = true) ∧ y.su = s.su)

/-- R10, R23, R134, R135: an accepted edge in CRANK_SYNC or PHASED with an unexpected or a missing gap loses crank sync. SYNC_LOST,
bit 5, is raised, SYNC_LOSSES counts one, and its word alone of the three counters is written (R183). Every pending, armed and waiting
pulse of every event is RESOLVED with SYNC_DROP, and events whose last pulse that was complete; what holds a bank goes on. A
stop in mode CYCLE goes on in mode EVENT, or ends in READY with no event left. It is no firing edge: nothing is latched (R21). That a
missing gap keeps the tooth index, which has no meaning in GAP_SEARCH, is the model's choice (assumption 37). -/
def Obligations.SyncLost : Prop :=
  ∀ (u : Setup) (s : State) (t : Time) (sense : Four BankSense) (i x : Nat) (gap : Bool), EdgeTaken u s u.crankEdge t i →
    (s.trk.sync = .crankSync ∨ s.trk.sync = .phased) → s.trk.tLast = some x →
    gap = decide (u.gapRatio * x ≤ 16 * i) → gap ≠ decide (s.trk.tooth = u.n - u.m - 1) →
    ∃ y, exec (.crankEdge u.crankEdge t sense []) s = .next y
      ∧ y.trk = { (s.trk.measured u s.su.trim (if gap then u.m + 1 else 1) gap i t) with
          sync := if gap then .gapCheck else .gapSearch
          tooth := if gap then 0 else s.trk.tooth
          phaseAssumed := false, errorRun := 0, markerSeen := false
          syncLosses := satCount s.trk.syncLosses, reacquire := true }
      ∧ y.ev.sticky.getLsbD 5 = true ∧ (s.banksOk → s.allDropped y .syncDrop t) ∧ (s.noService → s.holdersKept y)
      ∧ s.cycleEnds y ∧ y.latch = s.latch ∧ (∀ k, (y.cyl k).nextEvent = (s.cyl k).nextEvent)
      ∧ (s.mem.calm → s.sb.live = true → y.mem.Shows 0x1A4 (satCount s.trk.syncLosses)
          ∧ y.mem.Shows 0x186 (if gap then 2 else 1) ∧ y.mem.readWord 0x1A0 = s.mem.readWord 0x1A0
          ∧ y.mem.readWord 0x1A2 = s.mem.readWord 0x1A2)

/-- R13, R16, R22, R134, R155, R157, R158: a cycle boundary, at tooth 0 or at another tooth, in PHASED or in CRANK_SYNC under the
assumption. The cycle counter counts one and marker seen is cleared. The trim set that the selector names comes into force,
clamped, and already decides this edge's prediction and overspeed cut; where the copy meets a parity error the set in force is
kept and TRIM_FAULT, bit 12, is raised. In PHASED a boundary without a marker is a marker error, and the third in a row loses
phase: CRANK_SYNC, SYNC_LOST (bit 5), the drops with SYNC_DROP, and the assumption where PHASE_ASSUME is set (SYNC_GAINED, bit
4). A stop in mode CYCLE goes on in mode EVENT, or ends in READY with no event left. All of this is done in `z`, before the edge
event (R21): where phase is lost, every pulse then pending, armed or waiting is RESOLVED there, and where it is not, only the tracker,
the trim set, the hold counts above the new HOLD_LIMIT, the flag of a failed copy and the status block have changed, and what an ended
stop changes. The latch and then the arming unit act upon `z`, but where phase is lost without the assumption. -/
def Obligations.CycleBoundary : Prop :=
  ∀ (u : Setup) (s : State) (t : Time) (sense : Four BankSense) (i x : Nat), EdgeTaken u s u.crankEdge t i → s.mem.calm →
    ((s.trk.sync = .phased ∧ s.trk.phaseAssumed = false) ∨ (s.trk.sync = .crankSync ∧ s.trk.phaseAssumed = true)) →
    s.trk.tLast = some x → (u.gapRatio * x ≤ 16 * i ↔ s.trk.tooth = u.n - u.m - 1) →
    ∀ (zero : Bool) (k : Nat) (r : Bool) (a : Nat) (missing third : Bool) (m : Trim),
    zero = decide (s.trk.tooth = u.n - u.m - 1) →
    k = (if zero then 0 else s.trk.tooth + 1) → r = (if zero then !s.trk.rev else s.trk.rev) →
    a = (u.wheelOffset + (if r then 11520 else 0) + k * (11520 / u.n)) % 23040 → a < s.trk.lastAngle →
    missing = (s.trk.sync == .phased && !s.trk.markerSeen) → third = (missing && decide (2 ≤ s.trk.errorRun)) →
    m = (match readTrim s.mem with | some (_, raw) => clampTrim u.ringLen raw | none => s.su.trim) →
    ∃ y z, exec (.crankEdge u.crankEdge t sense []) s = .next y
      ∧ State.edgeServed u (!third || u.phaseAssume) s.trk.reacquire z y
      ∧ z.now = t ∧ z.pins = { s.pins with sense := sense } ∧ z.latch = s.latch ∧ s.holdersKept z ∧ z.mem.calm
      ∧ (∀ k, (z.cyl k).holdCount = min (s.cyl k).holdCount m.holdLimit)
      ∧ (s.sb.live = true → z.mem.Shows 0x184 (s.trk.cycle + 1) ∧ z.mem.Shows 0x18C (BitVec.ofNat 16 a))
      ∧ y.trk = z.trk ∧ y.su = z.su
      ∧ (∀ slot raw, readTrim s.mem = some (slot, raw) →
        z.su = { s.su with
          trim := m, slot := slot, clampMask := BitVec.ofNat 16 (changedMask raw.fields m.fields) })
      ∧ (readTrim s.mem = none → z.su = s.su ∧ y.ev.sticky.getLsbD 12 = true)
      ∧ z.trk = { (s.trk.measured u m (if zero then u.m + 1 else 1) false i t) with
          sync := if third then .crankSync else s.trk.sync
          phaseAssumed := if third then u.phaseAssume else s.trk.phaseAssumed
          tooth := k, rev := r, lastAngle := a, cycle := s.trk.cycle + 1, markerSeen := false, reacquire := third
          errorRun := if third then 0 else if missing then s.trk.errorRun + 1 else s.trk.errorRun
          markerErrors := if missing then satCount s.trk.markerErrors else s.trk.markerErrors
          syncLosses := if third then satCount s.trk.syncLosses else s.trk.syncLosses }
      ∧ (third = true → y.ev.sticky.getLsbD 5 = true ∧ (u.phaseAssume = true → y.ev.sticky.getLsbD 4 = true)
          ∧ (s.banksOk → s.allDropped z .syncDrop t) ∧ (u.phaseAssume = false → s.banksOk → s.allDropped y .syncDrop t))
      ∧ (third = false →
        z = { s with
            now := t
            pins := { s.pins with sense := sense }
            ctl := z.ctl
            ev := z.ev
            su := z.su
            trk := z.trk
            cyls := s.cyls.map fun _ c => { c with holdCount := min c.holdCount m.holdLimit }
            mem := z.mem }
          ∧ (∀ b, b < 0x180 ∨ 0x300 ≤ b → z.mem.readByte b = s.mem.readByte b ∧ z.mem.byteBad b = s.mem.byteBad b)
          ∧ (¬ (s.ctl.run = .stopping ∧ s.ctl.stopMode = .cycle) → z.ctl = s.ctl
            ∧ z.ev = { s.ev with
              sticky := if readTrim s.mem = none then s.ev.sticky ||| 0x1000 else s.ev.sticky }))
      ∧ (s.ctl.run = .stopping → y.ctl.stopMode ≠ .cycle) ∧ s.cycleEnds z ∧ s.cycleEnds y

/-! ## Marker edges and the stall -/

/-- R15, R16, R18: a marker edge in its window or outside both windows, with no phase lost. In CRANK_SYNC it phases the tracker
or confirms the assumption, and in its twin window, without the assumption, it turns the revolution over first; outside, it is
counted. In PHASED it clears the marker error run or adds to it. SYNC_GAINED is bit 4. -/
def Obligations.MarkerPhases : Prop :=
  ∀ (u : Setup) (s : State) (t : Time) (c : MarkerClass), MarkerTaken u s u.markerEdge t c →
    (s.trk.sync = .crankSync → c = .window →
      ∃ m, exec (.markerEdge u.markerEdge t []) s = .next
          { s with
            now := t
            trk := { s.trk with sync := .phased, phaseAssumed := false, markerSeen := true, errorRun := 0 }
            ev := { s.ev with sticky := if s.trk.phaseAssumed then s.ev.sticky else s.ev.sticky ||| 0x0010 }
            mem := m }
        ∧ Memory.Shown s.sb.live [(0x186, 4)] s.mem m)
    ∧ (s.trk.sync = .crankSync → s.trk.phaseAssumed = false → c = .twin →
      ∃ m, exec (.markerEdge u.markerEdge t []) s = .next
          { s with
            now := t
            trk := { s.trk with
              sync := .phased, markerSeen := true, errorRun := 0
              rev := !s.trk.rev, lastAngle := (s.trk.lastAngle + 11520) % 23040 }
            ev := { s.ev with sticky := s.ev.sticky ||| 0x0010 }
            mem := m }
        ∧ Memory.Shown s.sb.live [(0x18C, BitVec.ofNat 16 ((s.trk.lastAngle + 11520) % 23040)), (0x186, 4)] s.mem m)
    ∧ (s.trk.sync = .crankSync → c = .outside →
      ∃ m, exec (.markerEdge u.markerEdge t []) s = .next
          { s with now := t, trk := { s.trk with markerErrors := satCount s.trk.markerErrors }, mem := m }
        ∧ Memory.Shown s.sb.live [(0x1A2, satCount s.trk.markerErrors)] s.mem m)
    ∧ (s.trk.sync = .phased → c = .window →
      exec (.markerEdge u.markerEdge t []) s = .next
        { s with now := t, trk := { s.trk with markerSeen := true, errorRun := 0 } })
    ∧ (s.trk.sync = .phased → c = .outside → s.trk.errorRun < 2 →
      ∃ m, exec (.markerEdge u.markerEdge t []) s = .next
          { s with
            now := t
            trk := { s.trk with
              markerSeen := true, errorRun := s.trk.errorRun + 1, markerErrors := satCount s.trk.markerErrors }
            mem := m }
        ∧ Memory.Shown s.sb.live [(0x1A2, satCount s.trk.markerErrors)] s.mem m)

/-- R16, R17, R18, R23, R24, R134, R135: a marker edge in the twin window, in PHASED or against the assumption, shifts the angle by a
revolution and raises PHASE_SLIP, bit 6; the cycle counter is kept. The third marker error in a row, outside both windows, loses
phase: CRANK_SYNC, SYNC_LOST (bit 5), SYNC_LOSSES and MARKER_ERRORS count one, their words written and that of NOISE_EDGES not
(R183), and with PHASE_ASSUME set the assumption is taken with SYNC_GAINED (bit 4). In both, every pending, armed and waiting
pulse is RESOLVED with SYNC_DROP, what holds a bank goes on, and the next accepted edge is re-acquiring. A stop in mode CYCLE goes on in
mode EVENT at a loss of phase, or ends in READY with no event left, and keeps its mode at a slip. After a loss of phase without
PHASE_ASSUME no edge fires, and that the mark then stays as it was, none being set until an edge comes, is the model's choice,
since R24's list can be read otherwise (assumption 16). -/
def Obligations.MarkerSlipOrLoss : Prop :=
  (∀ (u : Setup) (s : State) (t : Time), MarkerTaken u s u.markerEdge t .twin →
    (s.trk.sync = .phased ∨ (s.trk.sync = .crankSync ∧ s.trk.phaseAssumed = true)) →
    ∃ y, exec (.markerEdge u.markerEdge t []) s = .next y ∧ y.now = t
      ∧ y.trk = { s.trk with
          sync := .phased, phaseAssumed := false, markerSeen := true, errorRun := 0, rev := !s.trk.rev
          lastAngle := (s.trk.lastAngle + 11520) % 23040, reacquire := true }
      ∧ y.ev.sticky.getLsbD 6 = true ∧ s.allDropped y .syncDrop t ∧ s.holdersKept y
      ∧ (s.ctl.stopMode = .cycle → y.ctl = s.ctl))
  ∧ ∀ (u : Setup) (s : State) (t : Time), MarkerTaken u s u.markerEdge t .outside → s.trk.sync = .phased →
    s.trk.phaseAssumed = false → s.trk.errorRun = 2 →
    ∃ y, exec (.markerEdge u.markerEdge t []) s = .next y ∧ y.now = t
      ∧ y.trk = { s.trk with
          sync := .crankSync, phaseAssumed := u.phaseAssume, markerSeen := true, errorRun := 0
          markerErrors := satCount s.trk.markerErrors, syncLosses := satCount s.trk.syncLosses
          reacquire := s.trk.reacquire || u.phaseAssume }
      ∧ y.ev.sticky.getLsbD 5 = true ∧ (u.phaseAssume = true → y.ev.sticky.getLsbD 4 = true)
      ∧ s.allDropped y .syncDrop t ∧ s.holdersKept y ∧ s.cycleEnds y
      ∧ (s.mem.calm → s.sb.live = true → y.mem.Shows 0x1A4 (satCount s.trk.syncLosses)
          ∧ y.mem.Shows 0x1A2 (satCount s.trk.markerErrors) ∧ y.mem.readWord 0x1A0 = s.mem.readWord 0x1A0)

/-- R11, R23, R134, R135: at the stall expiry the tracker goes to NO_SIGNAL and STALL, bit 14, is raised; the last edge time, the interval and
the periods become absent, the assumption, the marker run and the cut are cleared. Every pending, armed and waiting pulse is
RESOLVED with SYNC_DROP, and what holds a bank goes on. A stop in mode CYCLE goes on in mode EVENT, or ends in READY with no event
left. The model's choices in it: that T_pred and the other items R11 does not
name are kept (assumption 17), and that a stopped stall timer's command changes nothing, the tick included (assumption 4). -/
def Obligations.StallExpiry : Prop :=
  (∀ (s : State) (t : Time), s.trk.stallAt = some t →
    ∃ y, exec (.stall []) s = .next y ∧ y.now = t
      ∧ y.trk = { s.trk with
          sync := .noSignal, lastTime := none, lastInterval := none, tLast := none, tPrev := none, phaseAssumed := false
          errorRun := 0, markerSeen := false, overspeedCut := false, stallAt := none, reacquire := true }
      ∧ y.ev.sticky.getLsbD 14 = true ∧ s.allDropped y .syncDrop t ∧ s.holdersKept y ∧ s.cycleEnds y)
  ∧ ∀ s : State, s.trk.stallAt = none → exec (.stall []) s = .next s

/-! ## Latch, take and fallback -/

/-- R25, R26: where a latch point lies against an edge, and what is latched there. A fresh entry is the current cycle or one of the
next two, with its latch point at or after the edge and less than one cycle beyond it. A cylinder is due when it is configured,
its entry is present, and its latch point is less than the edge's D ahead; the due are in ascending order of latch point. In
RUNNING, and in STOPPING under mode CYCLE, the entries are set afresh at a re-acquiring edge and at the first firing edge, and
the due cylinders are latched one after another; in any other condition nothing is latched and no entry changes. -/
def Obligations.NextEntries : Prop :=
  (∀ (u : Setup) (adv : Nat) (v : EdgeView) (k : CylId) (target : Word) (d : Int), 960 ≤ adv → adv ≤ 5760 →
    (u.cyls.get k).tdc < 23040 → v.angle < 23040 → target = freshTarget u adv v k →
    d = (target - v.cycle).toInt * 23040 + (u.cyls.get k).tdc - adv - v.angle →
    0 ≤ d ∧ d < 23040 ∧ (target = v.cycle ∨ target = v.cycle + 1 ∨ target = v.cycle + 2))
  ∧ (∀ (u : Setup) (v : EdgeView) (s : State) (dist : CylId × Word → Int),
    (∀ p, dist p = (p.2 - v.cycle).toInt * 23040 + (u.cyls.get p.1).tdc - s.su.trim.latchAdvance - v.angle) →
    (∀ k target, (k, target) ∈ s.latchesDue u v ↔
      k.number ≤ u.cylCount ∧ (s.cyl k).nextEvent = some target ∧ dist (k, target) < v.d)
    ∧ (s.latchesDue u v).Pairwise fun p q => dist p ≤ dist q)
  ∧ ∀ (u : Setup) (v : EdgeView) (s z : State),
    (¬ (s.ctl.run = .running ∨ (s.ctl.run = .stopping ∧ s.ctl.stopMode = .cycle)) → s.latchAll u v = s)
    ∧ (s.ctl.run = .running ∨ (s.ctl.run = .stopping ∧ s.ctl.stopMode = .cycle) →
      z = { s with
        latch := { s.latch with entriesUnset := false }
        cyls := if v.reacquiring ∨ s.latch.entriesUnset then
          s.cyls.map fun k c => { c with
            nextEvent := if k.number ≤ u.cylCount then some (freshTarget u s.su.trim.latchAdvance v k) else none }
          else s.cyls } →
      s.latchAll u v = (z.latchesDue u v).foldl (State.latchCylinder u v) z)

/-- R26, R28, R48: what every latch of a cylinder does, here with no event of it left in the table. The event sequence counter
counts one, the entry advances by one cycle, and the event that enters the table has the sequence, the target cycle, the trim
snapshot and the dry mark of the latch. The cut is QUARANTINED before CUT_OVERSPEED. PLAN_LOW is the look-ahead's result: set
unless the record PLAN_LOW_AHEAD beyond the take position is READY with good parity. TAKE_POSITION and EVENT_SEQ are written. -/
def Obligations.LatchMade : Prop :=
  ∀ (u : Setup) (v : EdgeView) (s y : State) (k : CylId) (target : Word) (o : Nat), s.su.setup = some u → s.mem.calm →
    (s.cyl k).event = none → y = s.latchCylinder u v (k, target) →
    o = 0x1000 + 128 * ((y.latch.takePos + s.su.trim.planLowAhead) % u.ringLen) →
    y.latch.nextSeq = s.latch.nextSeq + 1 ∧ (y.cyl k).nextEvent = some (target + 1)
      ∧ (∀ e, (y.cyl k).event = some e → e.seq = s.latch.nextSeq ∧ e.target = target ∧ e.dry = s.ctl.inhibit ∧ e.drive = 0
        ∧ e.snap = ⟨s.su.trim.armWindow, s.su.trim.slipPilot, s.su.trim.slipMain, s.su.trim.slipPost, s.su.trim.driveMax⟩)
      ∧ (s.latchView k target).cut = (if (s.cyl k).quarantined then some .quarantined
          else if s.trk.overspeedCut then some .cutOverspeed else none)
      ∧ (y.latch.planLow = true ↔ y.mem.wordBad o = true ∨ y.mem.readByte o ≠ 1)
      ∧ (s.sb.live = true → y.mem.Shows 0x180 (BitVec.ofNat 16 y.latch.takePos) ∧ y.mem.Shows 0x182 y.latch.nextSeq)

/-- R42, R45, R98: an event still in the table when its cylinder latches again is overrun, and completes at once. Its pending, armed
and waiting pulses end OVERRUN_DROP; a pulse in QUENCH keeps its outcome, and its bank runs on; an ACTIVE one that is played ends
TRUNCATED, its bank goes to QUENCH, and no conflict is counted. An ACTIVE dry one ends TRUNCATED too and releases its bank at once,
with the boost end and the fault counts as they were, here with no other cylinder's pulse waiting. -/
def Obligations.Overrun : Prop :=
  ∀ (s : State) (k : CylId) (e : Event) (bk : BankId), (s.cyl k).event = some e → bk = s.bankOf k → s.banksOk →
    ∀ y, y = s.overrun k →
    ((y.cyl k).event = none ∧ y.unlisted k ∧ (y.cyl k).lastSource = e.source ∧ (y.cyl k).lastSeq = e.seq
      ∨ ∃ p ∈ e.pulses, p.cond = .active)
    ∧ ((∀ p ∈ e.pulses, p.cond ≠ .active) → (∀ h i kind d, (s.bank bk).holder = some h → h.job = .event e.seq i kind d →
        h.cyl = k → (s.bank bk).mode = .quench) →
      (y.cyl k).lastOutcome = some (eventOutcome (e.dropped s.now .overrunDrop).pulses)
      ∧ ((s.bank bk).holder.isSome = true → (y.bank bk).mode = (s.bank bk).mode ∧ (y.bank bk).holder = (s.bank bk).holder
        ∧ (y.bank bk).channel = (s.bank bk).channel))
    ∧ (∀ p i kind h, Playing s bk p (s.pins.sense.get bk) → (s.bank bk).holder = some h → (s.bank bk).mode = .active →
      p.job = .event e.seq i kind false → p.cyl = k →
      (∀ q ∈ e.pulses, q.cond = .active → q.plan.index = i) →
      (y.cyl k).event = none ∧ y.unlisted k ∧ (y.bank bk).mode = .quench ∧ (y.bank bk).holder = some h
        ∧ (y.bank bk).channel = some (p.ended .truncated s.now) ∧ (y.bank bk).conflicts = (s.bank bk).conflicts
        ∧ (y.cyl k).lastSeq = e.seq
        ∧ (y.cyl k).lastOutcome = some (eventOutcome ((e.dropped s.now .overrunDrop).ended i .resolved
          ⟨.truncated, Time.since s.now p.grantedAt, p.peak.getD 0, p.boostLow⟩).pulses))
    ∧ ∀ h i kind, (s.bank bk).holder = some h → (s.bank bk).mode = .active → h.job = .event e.seq i kind true → h.cyl = k →
      (∀ q ∈ e.pulses, q.cond = .active → q.plan.index = i) → (∀ r ∈ (s.bank bk).waiting, r.cyl = k) →
      (y.cyl k).event = none ∧ y.unlisted k ∧ (y.bank bk).mode = .settling ∧ (y.bank bk).holder = none
        ∧ (y.bank bk).releaseAt = some s.now ∧ (y.bank bk).boostEnd = (s.bank bk).boostEnd
        ∧ (y.bank bk).conflicts = (s.bank bk).conflicts ∧ (y.cyl k).faults = (s.cyl k).faults
        ∧ (y.cyl k).lastSource = e.source ∧ (y.cyl k).lastSeq = e.seq
        ∧ (y.cyl k).lastOutcome = some (eventOutcome ((e.dropped s.now .overrunDrop).ended i .resolved
          ⟨.truncated, Time.since s.now h.grantedAt, 0, false⟩).pulses)

/-- R33, R152: where a record lies against a latch, by the difference of its tag from the target tag and by firing position: the
place, 1 to count, of a cylinder among those configured, by ascending TDC_ANGLE. With the TDC angles distinct, an equal firing position
means CYL is the latch's cylinder. A record for the future, READY or
ABORT_REQ, makes the latch fall back, with the take position unchanged and the record unwritten. -/
def Obligations.RecordPlacement : Prop :=
  (∀ (u : Setup) (k c : CylId) (tag target : Byte),
    (place u k c tag target = .future ↔
      (1 ≤ (tag - target).toNat ∧ (tag - target).toNat ≤ 127) ∨ (tag = target ∧ u.firingPos k < u.firingPos c))
    ∧ (place u k c tag target = .past ↔
      128 ≤ (tag - target).toNat ∨ (tag = target ∧ u.firingPos c < u.firingPos k))
    ∧ (place u k c tag target = .matching ↔ tag = target ∧ u.firingPos c = u.firingPos k))
  ∧ (∀ (u : Setup) (k c : CylId), k.number ≤ u.cylCount → c.number ≤ u.cylCount →
    1 ≤ u.firingPos k ∧ u.firingPos k ≤ u.cylCount
      ∧ u.firingPos k = 1 + (CylId.all.filter fun j =>
          decide (j.number ≤ u.cylCount ∧ (u.cyls.get j).tdc < (u.cyls.get k).tdc)).length
      ∧ (u.firingPos k < u.firingPos c ↔ (u.cyls.get k).tdc < (u.cyls.get c).tdc))
  ∧ (∀ (u : Setup) (k c : CylId),
    (∀ i j : CylId, i ≠ j → i.number ≤ u.cylCount → j.number ≤ u.cylCount → (u.cyls.get i).tdc ≠ (u.cyls.get j).tdc) →
    k.number ≤ u.cylCount → c.number ≤ u.cylCount → (u.firingPos c = u.firingPos k ↔ c = k))
  ∧ ∀ (u : Setup) (s : State) (v : LatchView) (n o : Nat) (c : CylId), s.mem.calm → o = 0x1000 + 128 * s.latch.takePos →
    s.mem.wordBad o = false → s.mem.wordBad (o + 2) = false → (s.mem.readByte o = 1 ∨ s.mem.readByte o = 4) →
    (s.mem.readByte (o + 1)).toNat = c.number → c.number ≤ u.cylCount →
    place u v.cyl c (s.mem.readByte (o + 2)) (v.target.extractLsb' 0 8) = .future →
    State.take u v (n + 1) s = (s, .fallback)

/-- R29 to R32, R34 to R36, R38: records finalised at take. A record whose first word has bad parity ends PARITY (7), and one whose
CYL is not configured INVALID (6), without its FLAGS being read; bad parity in the second word is PARITY too. A past record ends
STALE (5), and the scan goes on. A matching one ends ABORTED (4) where STATE is ABORT_REQ, and under a cut CUT_OVERSPEED (8) or
QUARANTINED (9); else PARITY where an entry has bad parity and INVALID where the entries fail the checks of R36. EVENT_DONE is
raised here for STALE, INVALID and PARITY alone, where NOTIFY was read set with good parity. Any other STATE leaves the record. -/
def Obligations.RecordsFinalised : Prop :=
  (∀ (u : Setup) (s : State) (v : LatchView) (n o cyl : Nat) (raw : Nat → RawEntry) (notify : Bool),
    s.su.setup = some u → s.mem.calm → s.latch.takePos < 64 → o = 0x1000 + 128 * s.latch.takePos →
    cyl = (s.mem.readByte (o + 1)).toNat → notify = ((s.mem.readByte (o + 3)).toNat % 2 == 1) →
    (∀ j, raw j = ⟨j, (s.mem.readByte (o + 4 + 6 * j)).toNat, (s.mem.readByte (o + 5 + 6 * j)).toNat,
      (s.mem.readWord (o + 6 + 6 * j)).toInt, (s.mem.readWord (o + 8 + 6 * j)).toNat⟩) →
    State.take u v 0 s = (s, .fallback)
    ∧ (s.mem.wordBad o = true → ∃ y, State.take u v (n + 1) s = (y, .fallback) ∧ s.finalisedAs u y v.seq 7 false)
    ∧ (s.mem.wordBad o = false →
      (s.mem.readByte o ≠ 1 → s.mem.readByte o ≠ 4 → State.take u v (n + 1) s = (s, .fallback))
      ∧ (s.mem.readByte o = 1 ∨ s.mem.readByte o = 4 →
        (cyl = 0 ∨ u.cylCount < cyl → ∃ y, State.take u v (n + 1) s = (y, .fallback) ∧ s.finalisedAs u y v.seq 6 false)
        ∧ ∀ c : CylId, cyl = c.number → cyl ≤ u.cylCount →
          (s.mem.wordBad (o + 2) = true →
            ∃ y, State.take u v (n + 1) s = (y, .fallback)
              ∧ s.finalisedAs u y v.seq 7 (notify && !s.mem.byteBad (o + 3)))
          ∧ ∀ at', at' = place u v.cyl c (s.mem.readByte (o + 2)) (v.target.extractLsb' 0 8) →
            s.mem.wordBad (o + 2) = false →
            (at' = .past → ∃ y, State.take u v (n + 1) s = State.take u v n y ∧ s.finalisedAs u y v.seq 5 notify)
            ∧ (at' = .matching → s.mem.readByte o = 4 →
              ∃ y, State.take u v (n + 1) s = (y, .closed .aborted notify) ∧ s.finalisedAs u y v.seq 4 false)
            ∧ (at' = .matching → s.mem.readByte o = 1 →
              (v.cut = some .cutOverspeed →
                ∃ y, State.take u v (n + 1) s = (y, .closed .cutOverspeed notify) ∧ s.finalisedAs u y v.seq 8 false)
              ∧ (v.cut = some .quarantined →
                ∃ y, State.take u v (n + 1) s = (y, .closed .quarantined notify) ∧ s.finalisedAs u y v.seq 9 false)
              ∧ (v.cut = none → (∃ j, j < 15 ∧ s.mem.wordBad (o + 4 + 2 * j) = true) →
                ∃ y, State.take u v (n + 1) s = (y, .fallback) ∧ s.finalisedAs u y v.seq 7 notify)
              ∧ (v.cut = none → (∀ j, j < 15 → s.mem.wordBad (o + 4 + 2 * j) = false) →
                planValid u.profiles.length ((List.range 5).map raw) = false →
                ∃ y, State.take u v (n + 1) s = (y, .fallback) ∧ s.finalisedAs u y v.seq 6 notify)))))
  ∧ ∀ (count : Nat) (l : List RawEntry), planValid count l = true ↔
    (∀ e ∈ l, e.kind = 0 ∨ (e.kind ≤ 3 ∧ e.profile < count ∧ 1 ≤ e.duration ∧ -5760 ≤ e.relAngle ∧ e.relAngle ≤ 5759))
      ∧ (l.filter fun e => e.kind != 0).Pairwise (fun x y => x.relAngle ≤ y.relAngle)
      ∧ (l.filter fun e => e.kind == 2).length ≤ 1

/-- R37, R39, R163, R164: a matching READY record that passes R36, read with good parity and met with no cut, is taken. EVENT_SEQ,
TAKE_TIME and TAKE_ANGLE are written into it, and TAKEN with its CYL, and the take position advances by one modulo RING_LEN. A
host write of its STATE word that arrives in the course of the take is met by the pair on that word, which is the part's
twenty-second access: after fewer than 22 of them ABORT_REQ makes it ABORTED, and any other value but READY leaves it, a fallback;
after 22 it is taken. -/
def Obligations.TakeRecord : Prop :=
  ∀ (u : Setup) (s : State) (v : LatchView) (n o : Nat) (raw : Nat → RawEntry), s.su.setup = some u → s.mem.calm →
    s.latch.takePos < 64 → o = 0x1000 + 128 * s.latch.takePos →
    (∀ j, j < 17 → s.mem.wordBad (o + 2 * j) = false) →
    s.mem.readByte o = 1 → (s.mem.readByte (o + 1)).toNat = v.cyl.number → v.cyl.number ≤ u.cylCount →
    s.mem.readByte (o + 2) = v.target.extractLsb' 0 8 → v.cut = none →
    (∀ j, raw j = ⟨j, (s.mem.readByte (o + 4 + 6 * j)).toNat, (s.mem.readByte (o + 5 + 6 * j)).toNat,
      (s.mem.readWord (o + 6 + 6 * j)).toInt, (s.mem.readWord (o + 8 + 6 * j)).toNat⟩) →
    planValid u.profiles.length ((List.range 5).map raw) = true →
    (∃ y m, State.take u v (n + 1) s = (y, .taken
        { seq := v.seq, source := .plan, record := some s.latch.takePos
          notify := (s.mem.readByte (o + 3)).toNat % 2 == 1
          target := v.target, dry := v.dry, snap := v.snap, drive := 0
          pulses := (((List.range 5).map raw).filterMap RawEntry.entry).map PulseEntry.pulse })
      ∧ y = { s with latch := { s.latch with takePos := (s.latch.takePos + 1) % u.ringLen }, mem := m }
      ∧ Memory.Stored
        [(o + 0x24, v.seq), (o + 0x28, s.now.extractLsb' 0 16), (o + 0x2A, s.now.extractLsb' 16 16),
          (o + 0x2C, BitVec.ofNat 16 s.estimate), (o, BitVec.ofNat 16 (2 + 256 * v.cyl.number))] s.mem m)
    ∧ ∀ (j : Nat) (addr : BitVec 13) (w : Word) (x : State × TakeResult), 2 * addr.toNat = o → s.ctl.evenParity = false →
      w.extractLsb' 8 8 = s.mem.readByte (o + 1) → x = State.take u v (n + 1) (s.openPort [⟨j, .hostWrite addr w⟩]) →
      (j < 22 → w.extractLsb' 0 8 = 4 → x.2 = .closed .aborted ((s.mem.readByte (o + 3)).toNat % 2 == 1))
      ∧ (j < 22 → w.extractLsb' 0 8 ≠ 4 → w.extractLsb' 0 8 ≠ 1 → x.2 = .fallback ∧ x.1.latch = s.latch)
      ∧ (22 ≤ j → ∃ e, x.2 = .taken e)

/-- R52, R53, R56, R57: a fallback without a usable held plan and without a limp plan counts a miss, raises PLAN_MISS (bit 2),
gives no fuel, and completes at once: source NONE, outcome COMPLETE. LIMP (bit 3) is raised when the fuel level was PLAN or
HELD. -/
def Obligations.FallbackWithoutFuel : Prop :=
  ∀ (u : Setup) (x : EdgeView) (v : LatchView) (s : State), u.limp = none →
    ((s.cyl v.cyl).held = none ∨ s.su.trim.holdLimit ≤ (s.cyl v.cyl).holdCount) →
    ∃ m, s.fallBack u x v =
        { s with
          cyls := s.cyls.set v.cyl { s.cyl v.cyl with
            misses := satCount (s.cyl v.cyl).misses, fuel := .noFuel
            lastSource := .noFuel, lastOutcome := some .complete, lastSeq := v.seq }
          ev := { s.ev with
            sticky := s.ev.sticky ||| 0x0004
              ||| (if (s.cyl v.cyl).fuel = .plan ∨ (s.cyl v.cyl).fuel = .held then 0x0008 else 0) }
          mem := m }
      ∧ Memory.Shown s.sb.live
        [(0x1C0 + 16 * (v.cyl.number - 1) + 12, satCount (s.cyl v.cyl).misses),
          (0x1C0 + 16 * (v.cyl.number - 1) + 2, 3), (0x1C0 + 16 * (v.cyl.number - 1) + 4, 1),
          (0x1C0 + 16 * (v.cyl.number - 1) + 10, v.seq)] s.mem m

/-- R52 to R55, R57, R58: a fallback from the held plan or the limp plan counts a miss and raises PLAN_MISS (bit 2). From the held
plan, usable while the hold count is below HOLD_LIMIT, the hold count rises by one and no LIMP is raised; from the limp plan the
hold count stays and LIMP (bit 3) is raised when the fuel level was PLAN or HELD. The event has no record and no NOTIFY. Its
pulses are pending, at the target cycle and TDC_ANGLE + REL_ANGLE, where none lies behind the edge; where all do, they are
MISSED_ANGLE and the event completes at once, NONE_FIRED; a plan without pulses completes at once, COMPLETE. Latches are made in
RUNNING, and in STOPPING under mode CYCLE (R25). A fallback under a cut completes at once with source NONE and the cut's outcome, and
moves neither fuel level nor count. -/
def Obligations.FallbackPlans : Prop :=
  (∀ (u : Setup) (x : EdgeView) (v : LatchView) (s y : State) (plan : List PulseEntry) (src : Source) (c : Cylinder)
    (dist : PulseEntry → Int), (s.ctl.run = .running ∨ (s.ctl.run = .stopping ∧ s.ctl.stopMode = .cycle)) →
    (∀ p, dist p = (v.target - x.cycle).toInt * 23040 + (u.cyls.get v.cyl).tdc + p.relAngle - x.angle) →
    (((s.cyl v.cyl).held = some plan ∧ (s.cyl v.cyl).holdCount < s.su.trim.holdLimit ∧ src = .held)
      ∨ (((s.cyl v.cyl).held = none ∨ s.su.trim.holdLimit ≤ (s.cyl v.cyl).holdCount) ∧ u.limp = some plan ∧ src = .limp)) →
    y = s.fallBack u x v →
    c = { s.cyl v.cyl with
      misses := satCount (s.cyl v.cyl).misses, fuel := src
      holdCount := if src = .held then (s.cyl v.cyl).holdCount + 1 else (s.cyl v.cyl).holdCount } →
    y.ev.sticky = s.ev.sticky ||| 0x0004
        ||| (if src = .limp ∧ ((s.cyl v.cyl).fuel = .plan ∨ (s.cyl v.cyl).fuel = .held) then 0x0008 else 0)
      ∧ (plan = [] → y.arm = s.arm
        ∧ y.cyls = s.cyls.set v.cyl { c with lastSource := src, lastOutcome := some .complete, lastSeq := v.seq })
      ∧ (plan ≠ [] → (∀ p ∈ plan, dist p < 0) → y.arm = s.arm
        ∧ y.cyls = s.cyls.set v.cyl { c with
            event := none, lastSource := src, lastOutcome := some .noneFired, lastSeq := v.seq })
      ∧ (plan ≠ [] → (∀ p ∈ plan, 0 ≤ dist p) →
        ∃ e : Event, e =
          { seq := v.seq, source := src, record := none, notify := false, target := v.target, dry := v.dry
            snap := v.snap, drive := 0, pulses := plan.map PulseEntry.pulse }
        ∧ y.cyls = s.cyls.set v.cyl { c with event := some e } ∧ y.arm.armedSet = s.arm.armedSet
        ∧ ∀ q, q ∈ y.arm.pendingList ↔ q ∈ s.arm.pendingList ∨ ∃ p ∈ plan, q =
          { seq := v.seq, cyl := v.cyl, index := p.index, kind := p.kind, target := v.target
            offset := (u.cyls.get v.cyl).tdc + p.relAngle, window := v.snap.armWindow
            slipLimit := (match p.kind with
              | .pilot => v.snap.slipPilot | .main => v.snap.slipMain | .post => v.snap.slipPost)
            lead := (u.cyls.get v.cyl).lead }))
  ∧ ∀ (v : LatchView) (o : EventOutcome) (s : State),
    ∃ m, s.fallBackCut v o =
        { s with
          cyls := s.cyls.set v.cyl { s.cyl v.cyl with
            misses := satCount (s.cyl v.cyl).misses, lastSource := .noFuel, lastOutcome := some o, lastSeq := v.seq }
          ev := { s.ev with sticky := s.ev.sticky ||| 0x0004 }
          mem := m }
      ∧ Memory.Shown s.sb.live
        [(0x1C0 + 16 * (v.cyl.number - 1) + 12, satCount (s.cyl v.cyl).misses),
          (0x1C0 + 16 * (v.cyl.number - 1) + 2, 3),
          (0x1C0 + 16 * (v.cyl.number - 1) + 4, BitVec.ofNat 16 (outcomeCode (some o))),
          (0x1C0 + 16 * (v.cyl.number - 1) + 10, v.seq)] s.mem m

/-- R28, R35, R37, R38, R46, R50, R51, R57: what a latch does with what its take has come to, its cylinder's place in the table being
empty. A taken record's plan becomes the held plan, the hold count becomes 0, its word written where it changes (the model's choice,
assumption 27), and the fuel level PLAN. Its pulses are pending where none lies behind the edge; a plan without pulses completes at
once, COMPLETE, and one whose pulses all lie behind the edge NONE_FIRED: the record is DONE with its outcome, the status entry has
source PLAN, outcome and sequence, and EVENT_DONE (bit 0) is raised where NOTIFY is set. A record finalised at take as ABORTED, or
under a cut, gives the status entry source PLAN, its outcome and the sequence, and raises EVENT_DONE, once, where NOTIFY is set;
ABORTED makes the hold count 0, the fuel level becomes PLAN where there is no cut, and no event enters the table. Any other take is
a fallback, under the cut where there is one. -/
def Obligations.TakeServed : Prop :=
  ∀ (u : Setup) (x : EdgeView) (v : LatchView) (s y : State) (c : Cylinder) (q : Nat) (notify : Bool)
    (dist : PulseEntry → Int), s.mem.calm → (s.cyl v.cyl).event = none → q = 0x1C0 + 16 * (v.cyl.number - 1) →
    (∀ p, dist p = (v.target - x.cycle).toInt * 23040 + (u.cyls.get v.cyl).tdc + p.relAngle - x.angle) →
    (∀ (e : Event) (plan : List PulseEntry) (i o : Nat), i < 64 → o = 0x1000 + 128 * i →
      (s.ctl.run = .running ∨ (s.ctl.run = .stopping ∧ s.ctl.stopMode = .cycle)) →
      e = { seq := v.seq, source := .plan, record := some i, notify := notify, target := v.target, dry := v.dry
            snap := v.snap, drive := 0, pulses := plan.map PulseEntry.pulse } →
      c = { s.cyl v.cyl with held := some plan, fuel := .plan, holdCount := 0 } → y = s.served u x v (.taken e) →
      (∀ out code, (plan = [] ∧ out = .complete ∧ code = 1)
          ∨ (plan ≠ [] ∧ (∀ p ∈ plan, dist p < 0) ∧ out = .noneFired ∧ code = 3) →
        y = { s with
          cyls := s.cyls.set v.cyl { c with lastSource := .plan, lastOutcome := some out, lastSeq := v.seq }
          ev := { s.ev with sticky := if notify then s.ev.sticky ||| 1 else s.ev.sticky }
          mem := y.mem }
        ∧ y.mem.Shows o (BitVec.ofNat 16 (3 + 256 * v.cyl.number))
        ∧ y.mem.Shows (o + 0x26) (BitVec.ofNat 16 (code + 256 * v.dry.toNat)) ∧ y.mem.Shows (o + 0x2E) 0
        ∧ (s.sb.live = true → y.mem.Shows (q + 2) 0 ∧ y.mem.Shows (q + 4) (BitVec.ofNat 16 code)
            ∧ y.mem.Shows (q + 10) v.seq ∧ ((s.cyl v.cyl).holdCount ≠ 0 → y.mem.Shows (q + 6) 0)))
      ∧ (plan ≠ [] → (∀ p ∈ plan, 0 ≤ dist p) →
        y = { s with
          cyls := s.cyls.set v.cyl { c with event := some e }
          arm := { s.arm with pendingList := y.arm.pendingList }
          mem := y.mem }
        ∧ (∀ r, r ∈ y.arm.pendingList ↔ r ∈ s.arm.pendingList ∨ ∃ p ∈ plan, r = armEntryOf u v.cyl e p)
        ∧ ((s.cyl v.cyl).holdCount = 0 → y.mem = s.mem)
        ∧ ((s.cyl v.cyl).holdCount ≠ 0 → Memory.Shown s.sb.live [(q + 6, 0)] s.mem y.mem)))
    ∧ (∀ o, y = s.served u x v (.closed o notify) →
      c = { s.cyl v.cyl with
        holdCount := if o = .aborted then 0 else (s.cyl v.cyl).holdCount
        fuel := if v.cut = none then .plan else (s.cyl v.cyl).fuel
        lastSource := .plan, lastOutcome := some o, lastSeq := v.seq } →
      y = { s with
        cyls := s.cyls.set v.cyl c
        ev := { s.ev with sticky := if notify then s.ev.sticky ||| 1 else s.ev.sticky }
        mem := y.mem }
      ∧ Memory.Shown s.sb.live
        ((if o = .aborted ∧ (s.cyl v.cyl).holdCount ≠ 0 then [(q + 6, 0)] else [])
          ++ [(q + 2, 0), (q + 4, BitVec.ofNat 16 (outcomeCode (some o))), (q + 10, v.seq)]) s.mem y.mem)
    ∧ (v.cut = none → s.served u x v .fallback = s.fallBack u x v)
    ∧ ∀ o, v.cut = some o → s.served u x v .fallback = s.fallBackCut v o

/-- R45, R46, R47: an event is COMPLETE when every used pulse FIRED or it has none, PARTIAL when some pulse was delivered and not
all FIRED, NONE_FIRED when it has pulses and none was delivered; FIRED, TRUNCATED and CAPPED are delivered. An event of source
PLAN whose last pulse has resolved is written back: five results of five words (OUTCOME with PFLAGS, START_ANGLE, SLIP, DRIVEN,
PEAK_TIME; all 0 for an unused entry), TOTAL_DRIVE, EVENT_OUTCOME with EVENT_FLAGS, and DONE with CYL; LAST_SOURCE, LAST_OUTCOME
and LAST_SEQ; EVENT_DONE (bit 0) where NOTIFY is set; and it leaves the table. The part is not STOPPING here. -/
def Obligations.WriteBack : Prop :=
  (∀ l : List Pulse,
    (eventOutcome l = .complete ↔ ∀ p ∈ l, p.outcome = some .fired)
    ∧ (eventOutcome l = .partlyFired ↔
      (∃ p ∈ l, p.outcome = some .fired ∨ p.outcome = some .truncated ∨ p.outcome = some .capped)
        ∧ ∃ p ∈ l, p.outcome ≠ some .fired)
    ∧ (eventOutcome l = .noneFired ↔
      l ≠ [] ∧ ∀ p ∈ l, p.outcome ≠ some .fired ∧ p.outcome ≠ some .truncated ∧ p.outcome ≠ some .capped))
  ∧ ∀ (s : State) (k : CylId) (e : Event) (i o q code : Nat), s.mem.calm → (s.cyl k).event = some e → e.source = .plan →
    e.record = some i → i < 64 → o = 0x1000 + 128 * i → q = 0x1C0 + 16 * (k.number - 1) →
    (∀ p ∈ e.pulses, p.cond = .resolved) → s.ctl.run ≠ .stopping →
    code = (match eventOutcome e.pulses with
      | .complete => 1 | .partlyFired => 2 | .noneFired => 3 | .aborted => 4 | .stale => 5 | .invalid => 6 | .parity => 7
      | .cutOverspeed => 8 | .quarantined => 9) →
    ∃ m, s.settle k =
        { s with
          cyls := s.cyls.set k { s.cyl k with
            event := none, lastSource := .plan, lastOutcome := some (eventOutcome e.pulses), lastSeq := e.seq }
          ev := { s.ev with sticky := if e.notify then s.ev.sticky ||| 1 else s.ev.sticky }
          mem := m }
      ∧ s.mem.SameOutside ([o, o + 0x26, o + 0x2E] ++ (List.range 25).map (fun j => o + 0x30 + 2 * j)
          ++ (if s.sb.live then [q + 2, q + 4, q + 10] else [])) m
      ∧ m.Shows o (BitVec.ofNat 16 (3 + 256 * k.number))
      ∧ m.Shows (o + 0x26) (BitVec.ofNat 16 (code + 256 * e.dry.toNat))
      ∧ m.Shows (o + 0x2E) (BitVec.ofNat 16 (min 65535 e.drive))
      ∧ (∀ j, j < 5 → ∀ r, r = o + 0x30 + 10 * j →
        ((∀ p ∈ e.pulses, p.plan.index ≠ j) → ∀ n, n < 5 → m.Shows (r + 2 * n) 0)
        ∧ ∀ p outcome, e.pulses.find? (fun p => p.plan.index == j) = some p → p.outcome = some outcome →
          m.Shows r (BitVec.ofNat 16
              ((match outcome with
                | .fired => 1 | .truncated => 2 | .capped => 3 | .openFault => 4 | .shortFault => 5 | .missedAngle => 6
                | .slipDrop => 7 | .capDrop => 8 | .syncDrop => 9 | .stopDrop => 10 | .abortDrop => 11
                | .quarantineDrop => 12 | .overrunDrop => 13)
                + 256 * (p.late.toNat + 2 * p.boostLow.toNat + 4 * e.dry.toNat + 8 * p.crowded.toNat)))
            ∧ m.Shows (r + 2) (BitVec.ofInt 16 p.startAngle) ∧ m.Shows (r + 4) (BitVec.ofNat 16 (min 65535 p.slip))
            ∧ m.Shows (r + 6) (BitVec.ofNat 16 (min 65535 p.driven))
            ∧ m.Shows (r + 8) (BitVec.ofNat 16 (min 65535 p.peak)))
      ∧ (s.sb.live = true → m.Shows (q + 2) 0 ∧ m.Shows (q + 4) (BitVec.ofNat 16 code)
          ∧ m.Shows (q + 10) e.seq)

/-! ## Arming -/

/-- R12, R14, R19, R20, R22, R47, R68, R69, R90: FLAT predicts T_last, and LINEAR the line through the last two periods clamped to
floor(3·T_last/4)..floor(5·T_last/4), or T_last while T_prev is absent. The result saturates at 2^24 − 1, which for a T_last of at
most that still lies inside the clamp. Without T_last it is 0. The overspeed cut is cleared where OVERSPEED_PERIOD is 0, set by a
T_last below it, cleared by one above OVERSPEED_PERIOD + OVERSPEED_HYST, and kept by any other and where T_last is absent. For every
distance an arming step can meet, every prediction and every pitch, the angle-to-time offset is s × T_pred divided by P, rounded
half-up, below 2^29 ticks, and nothing overflows the 48 bits. The estimated angle is the last
edge angle and floor(elapsed × P / T_pred) more, at most D − 1, where D is P, or (M+1)·P after the last tooth; with T_pred 0 it is
D − 1 more as soon as time has elapsed. A marker angle lies in the window from MARKER_LO up to MARKER_HI, through 0 where
MARKER_HI is less, in its twin shifted by 11,520, or outside both. START_ANGLE is the estimate less TDC_ANGLE, in −11,520..11,519,
and 0 while no angle is known. -/
def Obligations.PredictionAndAngles : Prop :=
  ((∀ (mode : Bool) (y : Option Nat), predict mode none y = 0) ∧
    ∀ x, x ≤ 16777215 → (∀ y, predict false (some x) y = x) ∧ predict true (some x) none = x ∧
      ∀ y, ((predict true (some x) (some y) : Nat) : Int) = min 16777215 (max (3 * x / 4 : Nat) (min (5 * x / 4 : Nat) (2 * x - y)))
        ∧ 3 * x / 4 ≤ predict true (some x) (some y) ∧ predict true (some x) (some y) ≤ 5 * x / 4)
  ∧ (∀ (period hyst : Nat) (cut : Bool), overspeedAfter period hyst none cut = cut
    ∧ ∀ x, (period = 0 → overspeedAfter period hyst (some x) cut = false)
      ∧ (x < period → overspeedAfter period hyst (some x) cut = true)
      ∧ (period + hyst < x → overspeedAfter period hyst (some x) cut = false)
      ∧ (period ≠ 0 → period ≤ x → x ≤ period + hyst → overspeedAfter period hyst (some x) cut = cut))
  ∧ (∀ (d p tPred : Nat), d ≤ 2399 → tPred ≤ 16777215 → 160 ≤ p → p ≤ 480 →
    (angleToTime d tPred p).toNat = (d * tPred + p / 2) / p ∧ (angleToTime d tPred p).toNat < 2 ^ 29)
  ∧ (∀ (u : Setup) (x : Tracker) (l t : Time) (p d n : Nat), x.sync = .crankSync ∨ x.sync = .phased → x.lastTime = some l →
    p = 11520 / u.n → d = (if x.tooth = u.n - u.m - 1 then (u.m + 1) * p else p) → n = (t - l).toNat →
    (x.tPred ≠ 0 → x.estimate u t = (x.lastAngle + min (n * p / x.tPred) (d - 1)) % 23040)
    ∧ (x.tPred = 0 → x.estimate u t = (x.lastAngle + (if n = 0 then 0 else d - 1)) % 23040))
  ∧ (∀ (u : Setup) (within : Nat → Prop), u.markerLo < 23040 → u.markerHi < 23040 →
    (u.markerHi + 23040 - u.markerLo) % 23040 < 5760 →
    (∀ a, within a ↔ if u.markerLo ≤ u.markerHi then u.markerLo ≤ a ∧ a ≤ u.markerHi else u.markerLo ≤ a ∨ a ≤ u.markerHi) →
    ∀ a, a < 23040 → (u.classify a = .window ↔ within a) ∧ (u.classify a = .twin ↔ within ((a + 11520) % 23040))
      ∧ (u.classify a = .outside ↔ ¬ within a ∧ ¬ within ((a + 11520) % 23040)))
  ∧ ∀ (u : Setup) (s : State) (k : CylId), s.su.setup = some u → s.estimate = s.trk.estimate u s.now
    ∧ (s.trk.sync = .crankSync ∨ s.trk.sync = .phased →
      -11520 ≤ s.startAngle k ∧ s.startAngle k ≤ 11519
        ∧ (s.startAngle k - (s.trk.estimate u s.now - (u.cyls.get k).tdc : Int)) % 23040 = 0)
    ∧ (s.trk.sync ≠ .crankSync → s.trk.sync ≠ .phased → s.startAngle k = 0)

/-- R43, R62 to R68, R70, R71, R73, R74: a pulse of a new event that lies behind the edge is MISSED_ANGLE, any other joins the pending list
in its place, with its event's sequence, target and snapshot, its position offset TDC_ANGLE + REL_ANGLE, the slip limit of its kind
and its cylinder's LEAD. A place in an ordered list lies right before the first entry that the new one comes before. A pending pulse at a firing edge: at W + D or beyond it stays. Nearer, it leaves the list; with ABORT_REQ or a parity
error in its record it is ABORT_DROP; with its start ahead of the edge it is ARMED in its place in the armed set; late within its
slip limit it gets LATE and requests at this edge; later than that it is SLIP_DROP with LATE, and CONFLICT (bit 9) counts one at
its bank. Here other pulses of the event go on. The pulses of the pending list are taken in its order, and the late requests made at
this edge are then presented one after another: MAIN before PILOT before POST, then the earlier armed start, the lower sequence, the
lower entry index, where starts and sequences lie within half their range of one another. The armed set stands in the order of
armed start; that equal starts stand there in the order just named is the model's choice (assumption 14). Each is its pulse's bank request, unless
the pulse has been resolved meanwhile. That the pending order compares two sequences by signed difference is the model's choice,
since R62 says only 'lower' (assumption 14). -/
def Obligations.ArmingStep : Prop :=
  (∀ (u : Setup) (k : CylId) (e : Event) (p : PulseEntry), armEntryOf u k e p =
    { seq := e.seq, cyl := k, index := p.index, kind := p.kind, target := e.target
      offset := (u.cyls.get k).tdc + p.relAngle, window := e.snap.armWindow
      slipLimit := (match p.kind with | .pilot => e.snap.slipPilot | .main => e.snap.slipMain | .post => e.snap.slipPost)
      lead := (u.cyls.get k).lead })
  ∧ (∀ (α : Type) (before : α → α → Bool) (x : α) (l : List α), ∃ front back, l = front ++ back
    ∧ insertBy before x l = front ++ x :: back ∧ (∀ y ∈ front, before x y = false) ∧ ∀ y, back.head? = some y → before x y = true)
  ∧ (∀ (u : Setup) (x : EdgeView) (s : State) (k : CylId) (e : Event) (p : PulseEntry) (d : Int),
    (s.cyl k).event = some e → d = (e.target - x.cycle).toInt * 23040 + (u.cyls.get k).tdc + p.relAngle - x.angle →
    (d < 0 → State.placePulse u x k e s p =
      { s with cyls := s.cyls.set k { s.cyl k with
          event := some { e with
            pulses := modPulses p.index (fun q => { q with cond := .resolved, outcome := some .missedAngle }) e.pulses } } })
    ∧ (0 ≤ d → State.placePulse u x k e s p =
      { s with arm := { s.arm with pendingList := insertBy ArmEntry.before (armEntryOf u k e p) s.arm.pendingList } }))
  ∧ (∀ x y : ArmEntry, ArmEntry.before x y = true ↔ (x.target ≠ y.target ∧ (x.target - y.target).toInt < 0)
    ∨ (x.target = y.target ∧ (x.offset < y.offset ∨ (x.offset = y.offset
      ∧ ((x.seq ≠ y.seq ∧ (x.seq - y.seq).toInt < 0) ∨ (x.seq = y.seq ∧ x.index < y.index))))))
  ∧ (∀ (x y : ArmedEntry) (rank : Kind → Nat), rank .main = 0 → rank .pilot = 1 → rank .post = 2 →
    (ArmedEntry.presentBefore x y = true ↔ rank x.entry.kind < rank y.entry.kind ∨ (x.entry.kind = y.entry.kind
      ∧ ((x.start ≠ y.start ∧ 0 < (y.start - x.start).toInt) ∨ (x.start = y.start
        ∧ ((x.entry.seq ≠ y.entry.seq ∧ (x.entry.seq - y.entry.seq).toInt < 0)
          ∨ (x.entry.seq = y.entry.seq ∧ x.entry.index < y.entry.index)))))))
  ∧ (∀ x y : ArmedEntry, ArmedEntry.before x y = true ↔ (x.start ≠ y.start ∧ 0 < (y.start - x.start).toInt)
    ∨ (x.start = y.start ∧ ArmedEntry.presentBefore x y = true))
  ∧ (∀ (u : Setup) (v : EdgeView) (s : State) (held : List ArmedEntry) (first : Word),
    s.armAll u v = State.presentLate (s.arm.pendingList.foldl (State.armStep u v) (s, []))
    ∧ ((∀ a ∈ held, (v.time - a.start).toNat < 2 ^ 31 ∧ (a.entry.seq - first).toNat < 2 ^ 15) →
      ∃ l : List ArmedEntry, l.Perm held ∧ l.Pairwise (fun a b => ArmedEntry.presentBefore b a = false)
        ∧ State.presentLate (s, held) = l.foldl State.present s))
  ∧ (∀ (u : Setup) (s : State) (a : ArmedEntry) (e : Event) (p : Pulse) (f : Profile), s.su.setup = some u →
    (s.cyl a.entry.cyl).event = some e → e.seq = a.entry.seq →
    e.pulses.find? (fun q => q.plan.index == a.entry.index) = some p → u.profiles[p.plan.profile]? = some f →
    (p.cond = .active ∨ p.cond = .quench ∨ p.cond = .resolved → s.present a = s)
    ∧ (p.cond = .pending ∨ p.cond = .armed ∨ p.cond = .waiting → s.present a = s.request (u.cyls.get a.entry.cyl).bank
      { seq := e.seq, index := a.entry.index, cyl := a.entry.cyl, kind := a.entry.kind, start := a.start
        deadline := Time.add a.start a.entry.slipLimit, boost := f.boostMark, minDwell := s.su.trim.minDwell
        recharge := s.su.trim.rechargeGuard, profile := p.plan.profile, duration := p.plan.duration
        late := p.late, dry := e.dry }))
  ∧ ∀ (u : Setup) (v : EdgeView) (s z : State) (held : List ArmedEntry) (q : ArmEntry) (e : Event) (d tPred n : Nat)
    (start : Time) (g : (Pulse → Pulse) → State), s.su.setup = some u → 24 ≤ u.n → u.n ≤ 72 → tPred = v.tPred →
    (d : Int) = (q.target - v.cycle).toInt * 23040 + q.offset - v.angle → n = 11520 / u.n →
    start = v.time + BitVec.ofNat 32 ((d * tPred + n / 2) / n) - BitVec.ofNat 32 q.lead → d ≤ 2399 → tPred ≤ 16777215 →
    (s.cyl q.cyl).event = some e → e.seq = q.seq → e.others q.index → s.mem.calm →
    z = { s with arm := { s.arm with pendingList := s.arm.pendingList.filter (· != q) } } →
    (∀ f, g f = { z with cyls := s.cyls.set q.cyl { s.cyl q.cyl with
      event := some { e with pulses := modPulses q.index f e.pulses } } }) →
    (q.window + v.d ≤ d → State.armStep u v (s, held) q = (s, held))
    ∧ (d < q.window + v.d →
      (∀ i, e.record = some i → s.mem.wordBad (0x1000 + 128 * i) = true ∨ s.mem.readByte (0x1000 + 128 * i) = 4 →
        State.armStep u v (s, held) q = (g fun p => { p with cond := .resolved, outcome := some .abortDrop }, held))
      ∧ (s.noAbort e →
        (0 < (start - v.time).toInt → State.armStep u v (s, held) q =
          ({ (g fun p => { p with cond := .armed, start := some start }) with
              arm := { z.arm with armedSet := insertBy ArmedEntry.before ⟨q, start⟩ s.arm.armedSet } }, held))
        ∧ ((start - v.time).toInt ≤ 0 → (v.time - start).toNat ≤ q.slipLimit → State.armStep u v (s, held) q =
          (g fun p => { p with late := true, start := some start }, held ++ [⟨q, start⟩]))
        ∧ ((start - v.time).toInt ≤ 0 → q.slipLimit < (v.time - start).toNat →
          ∃ m bk, bk = (u.cyls.get q.cyl).bank ∧ State.armStep u v (s, held) q =
            ({ (g fun p => { p with late := true, start := some start, cond := .resolved, outcome := some .slipDrop }) with
                banks := s.banks.set bk { s.bank bk with conflicts := satCount (s.bank bk).conflicts }
                ev := { s.ev with sticky := s.ev.sticky ||| 0x0200 }
                mem := m }, held)
            ∧ Memory.Shown s.sb.live [(0x240 + 8 * bk.index + 2, satCount (s.bank bk).conflicts)] s.mem m)))

/-! ## Starts, deadlines, grants -/

/-- R73, R86, R90, R96, R98, R105: at its start expiry a pulse whose bank is free, with nobody waiting, and available is granted
at once. It leaves the armed set, the bank becomes ACTIVE with it as holder, its SLIP is 0 and its START_ANGLE is fixed, and the
cap expiry starts. A dry pulse is held by the arbiter; any other is handed to the drive channel, here without a standing short
report. -/
def Obligations.StartGrants : Prop :=
  ∀ (u : Setup) (s : State) (a : ArmedEntry) (rest : List ArmedEntry) (e : Event) (p : Pulse) (bk : BankId)
    (sense : BankSense) (f : Profile) (x : Bank), Starting u s a rest e p bk → s.noAbort e →
    u.profiles[p.plan.profile]? = some f → (s.bank bk).holder = none → (s.bank bk).waiting = [] →
    (s.bank bk).openAt f.boostMark s.su.trim.minDwell s.su.trim.rechargeGuard a.start →
    x = { s.bank bk with
      mode := .active
      holder := some ⟨.event e.seq a.entry.index a.entry.kind e.dry, a.entry.cyl, a.start⟩
      settleAt := none
      headAt := none
      capAt := some (Time.add a.start (e.snap.driveMax - e.drive))
      dryEndAt := if e.dry then some (Time.add a.start p.plan.duration) else none } →
    ∀ z : State, z = s.started a rest e bk sense (fun q =>
      { q with cond := .active, slip := 0, startAngle := (s.setNow a.start).startAngle a.entry.cyl }) →
    (e.dry = true →
      ∃ m, exec (.startExpiry sense []) s = .next { z with banks := s.banks.set bk x, mem := m }
        ∧ Memory.Shown s.sb.live [(0x240 + 8 * bk.index, 1)] s.mem m)
    ∧ (e.dry = false → sense.current.toNat < (u.banks.get bk).shortLevel →
      ∃ y, exec (.startExpiry sense []) s = .next y
        ∧ Engaged y bk (.event e.seq a.entry.index a.entry.kind false) a.entry.cyl f p.plan.duration a.start
        ∧ (y.bank bk).mode = .active ∧ (y.bank bk).holder = x.holder ∧ (y.bank bk).capAt = x.capAt
        ∧ (∀ j, j ≠ bk → y.bank j = s.bank j) ∧ y.cyls = z.cyls ∧ y.arm = z.arm ∧ y.ev = s.ev ∧ y.trk = s.trk)

/-- R73, R74, R86, R87, R91: a pulse whose bank has a holder that it does not preempt (R94) joins the wait list in its place,
with its deadline and the MIN_DWELL and RECHARGE_GUARD then in force, and becomes WAITING. The list's order: MAIN before PILOT
before POST, then the earlier armed start, the lower sequence, the lower entry index. -/
def Obligations.StartJoins : Prop :=
  (∀ (x y : Request) (rank : Kind → Nat), rank .main = 0 → rank .pilot = 1 → rank .post = 2 →
    (Request.before x y = true ↔ rank x.kind < rank y.kind ∨ (x.kind = y.kind
      ∧ ((x.start ≠ y.start ∧ 0 < (y.start - x.start).toInt) ∨ (x.start = y.start
        ∧ ((x.seq ≠ y.seq ∧ (x.seq - y.seq).toInt < 0) ∨ (x.seq = y.seq ∧ x.index < y.index)))))))
  ∧ ∀ (u : Setup) (s : State) (a : ArmedEntry) (rest : List ArmedEntry) (e : Event) (p : Pulse) (bk : BankId)
    (sense : BankSense) (f : Profile) (h : Holder) (r : Request) (w : List Request), Starting u s a rest e p bk →
    s.noAbort e → u.profiles[p.plan.profile]? = some f → (s.bank bk).holder = some h → (s.bank bk).waiting.length < 4 →
    ¬ (a.entry.kind = .main ∧ (s.bank bk).mode = .active
      ∧ ∃ seq i dry, h.job = .event seq i .post dry ∧ seq ≠ e.seq) →
    r = { seq := e.seq, index := a.entry.index, cyl := a.entry.cyl, kind := a.entry.kind, start := a.start
          deadline := Time.add a.start a.entry.slipLimit, boost := f.boostMark, minDwell := s.su.trim.minDwell
          recharge := s.su.trim.rechargeGuard, profile := p.plan.profile, duration := p.plan.duration
          late := p.late, dry := e.dry } →
    w = insertBy Request.before r (s.bank bk).waiting →
    exec (.startExpiry sense []) s = .next
      { s.started a rest e bk sense (fun q => { q with cond := .waiting }) with
        banks := s.banks.set bk { s.bank bk with
          waiting := w, headAt := if w.head? = (s.bank bk).waiting.head? then (s.bank bk).headAt else none } }

/-- R85, R86, R88, R89, R93, R94, R98: what a request meets at a bank with which it contends. A MAIN preempts an ACTIVE POST of another
event: the POST ends TRUNCATED, its bank goes to QUENCH (a dry POST releases it at once), CONFLICTS counts one with CONFLICT (bit
9), and the MAIN waits. A fifth in the list removes the last of the five, be it the one that joined: SLIP_DROP with CROWDED, its
SLIP counted from its armed start, CONFLICTS and CONFLICT. At a bank that is free but not yet available the pulse waits, with the
head timer at the availability instant. -/
def Obligations.RequestContends : Prop :=
  ∀ (u : Setup) (s : State) (a : ArmedEntry) (rest : List ArmedEntry) (e : Event) (p : Pulse) (bk : BankId)
    (sense : BankSense) (f : Profile) (r : Request) (w : List Request) (z : State), Starting u s a rest e p bk →
    s.noAbort e → u.profiles[p.plan.profile]? = some f →
    r = { seq := e.seq, index := a.entry.index, cyl := a.entry.cyl, kind := a.entry.kind, start := a.start
          deadline := Time.add a.start a.entry.slipLimit, boost := f.boostMark, minDwell := s.su.trim.minDwell
          recharge := s.su.trim.rechargeGuard, profile := p.plan.profile, duration := p.plan.duration
          late := p.late, dry := e.dry } →
    w = insertBy Request.before r (s.bank bk).waiting →
    z = s.started a rest e bk sense (fun q => { q with cond := .waiting }) →
    (∀ (h : Holder) (seq2 : Word) (i2 : Nat) (d2 : Bool) (e2 : Event), a.entry.kind = .main → (s.bank bk).waiting.length < 4 →
      (s.bank bk).mode = .active → (s.bank bk).holder = some h → h.job = .event seq2 i2 .post d2 → seq2 ≠ e.seq →
      h.cyl ≠ a.entry.cyl → (s.cyl h.cyl).event = some e2 → e2.seq = seq2 →
      e2.drive + Time.since a.start h.grantedAt < e2.snap.driveMax →
      (∀ p2, d2 = false → Playing s bk p2 sense → p2.job = h.job → p2.cyl = h.cyl → p2.grantedAt = h.grantedAt →
        ∃ y, exec (.startExpiry sense []) s = .next y
          ∧ (y.bank bk).mode = .quench ∧ (y.bank bk).holder = some h
          ∧ (y.bank bk).channel = some (p2.ended .truncated a.start) ∧ (y.bank bk).waiting = w
          ∧ (y.bank bk).conflicts = satCount (s.bank bk).conflicts ∧ y.ev.sticky = s.ev.sticky ||| 0x0200
          ∧ y.cyl a.entry.cyl = z.cyl a.entry.cyl
          ∧ (y.cyl h.cyl).event = some (e2.ended i2 .quench
            ⟨.truncated, Time.since a.start h.grantedAt, p2.peak.getD 0, p2.boostLow⟩))
      ∧ (d2 = true → (s.bank bk).waiting = [] → f.boostMark = false → 50 ≤ s.su.trim.minDwell →
        s.su.trim.minDwell ≤ 20000 → e2.others i2 →
        ∃ y, exec (.startExpiry sense []) s = .next y
          ∧ (y.bank bk).mode = .settling ∧ (y.bank bk).holder = none ∧ (y.bank bk).releaseAt = some a.start
          ∧ (y.bank bk).waiting = [r] ∧ (y.bank bk).headAt = some (Time.add a.start s.su.trim.minDwell)
          ∧ (y.bank bk).conflicts = satCount (s.bank bk).conflicts ∧ y.ev.sticky = s.ev.sticky ||| 0x0200
          ∧ y.cyl a.entry.cyl = z.cyl a.entry.cyl
          ∧ (y.cyl h.cyl).event = some (e2.ended i2 .resolved ⟨.truncated, Time.since a.start h.grantedAt, 0, false⟩)))
    ∧ (∀ (h : Holder) (last : Request) (e3 : Event), (s.bank bk).holder = some h → (s.bank bk).waiting.length = 4 →
      ¬ (a.entry.kind = .main ∧ (s.bank bk).mode = .active
        ∧ ∃ seq i dry, h.job = .event seq i .post dry ∧ seq ≠ e.seq) →
      w.getLast? = some last → (z.cyl last.cyl).event = some e3 → e3.seq = last.seq → e3.others last.index →
      ∃ y, exec (.startExpiry sense []) s = .next y
        ∧ (y.bank bk).waiting = w.filter (fun q => !(q.seq == last.seq && q.index == last.index))
        ∧ (y.bank bk).holder = some h ∧ (y.bank bk).conflicts = satCount (s.bank bk).conflicts
        ∧ y.ev.sticky = s.ev.sticky ||| 0x0200 ∧ y.arm = z.arm
        ∧ y.cyls = z.cyls.set last.cyl { z.cyl last.cyl with
            event := some { e3 with
              pulses := modPulses last.index (fun q =>
                { q with
                  cond := .resolved, outcome := some .slipDrop, crowded := true
                  slip := Time.since a.start last.start }) e3.pulses } })
    ∧ ∀ i, (s.bank bk).holder = none → (s.bank bk).waiting = [] → (s.bank bk).instant r = some i →
      Time.later i a.start = true →
      exec (.startExpiry sense []) s = .next
        { z with banks := s.banks.set bk { s.bank bk with waiting := [r], headAt := some i } }

/-- R43, R73, R91, R101: at the start expiry of a pulse whose record's STATE word reads ABORT_REQ (4) or with a parity error, the
pulse is resolved ABORT_DROP and makes no request; other pulses of its event go on. At its deadline a waiting pulse leaves the
wait list and is resolved SLIP_DROP with its slip limit as SLIP; the bank's CONFLICTS count one and CONFLICT, 0x0200, is raised. If
it was the head, the grant check is then made for the new head, which does nothing while the bank has a holder; if it was not, no
grant check is made. That the command changes nothing, the tick included,
with nothing armed and where the pulse no longer waits, is the model's choice (assumption 4). -/
def Obligations.StartAbortsAndDeadlines : Prop :=
  (∀ (u : Setup) (s : State) (a : ArmedEntry) (rest : List ArmedEntry) (e : Event) (p : Pulse) (bk : BankId)
    (sense : BankSense) (i : Nat), Starting u s a rest e p bk → e.record = some i →
    (s.mem.wordBad (0x1000 + 128 * i) = true ∨ s.mem.readByte (0x1000 + 128 * i) = 4) → e.others a.entry.index →
    exec (.startExpiry sense []) s = .next
      (s.started a rest e bk sense fun q => { q with cond := .resolved, outcome := some .abortDrop }))
  ∧ (∀ (s : State) (sense : BankSense), s.arm.armedSet = [] → exec (.startExpiry sense []) s = .next s)
  ∧ (∀ (s : State) (bk : BankId) (seq : Word) (i : BitVec 3) (sense : BankSense) (r : Request) (e : Event)
    (w : List Request), (s.bank bk).waiting.find? (fun q => q.seq == seq && q.index == i.toNat) = some r →
    (s.cyl r.cyl).event = some e → e.seq = r.seq → e.others r.index →
    w = (s.bank bk).waiting.filter (fun q => !(q.seq == seq && q.index == i.toNat)) →
    ∃ m z, z = { s with
          now := r.deadline
          pins := { s.pins with sense := s.pins.sense.set bk sense }
          banks := s.banks.set bk { s.bank bk with
            waiting := w
            headAt := if w.head? = (s.bank bk).waiting.head? then (s.bank bk).headAt else none
            conflicts := satCount (s.bank bk).conflicts }
          cyls := s.cyls.set r.cyl { s.cyl r.cyl with
            event := some { e with
              pulses := modPulses r.index (fun q =>
                { q with
                  cond := .resolved, outcome := some .slipDrop, crowded := false
                  slip := Time.since r.deadline r.start }) e.pulses } }
          ev := { s.ev with sticky := s.ev.sticky ||| 0x0200 }
          mem := m }
      ∧ ((s.bank bk).waiting.head? = some r → exec (.slipDeadlineExpiry bk seq i sense []) s = .next (z.grantCheck bk))
      ∧ ((s.bank bk).waiting.head? ≠ some r → exec (.slipDeadlineExpiry bk seq i sense []) s = .next z)
      ∧ ((s.bank bk).holder.isSome = true → z.grantCheck bk = z)
      ∧ Memory.Shown s.sb.live [(0x240 + 8 * bk.index + 2, satCount (s.bank bk).conflicts)] s.mem m)
  ∧ ∀ (s : State) (bk : BankId) (seq : Word) (i : BitVec 3) (sense : BankSense),
    (∀ r ∈ (s.bank bk).waiting, r.seq ≠ seq ∨ r.index ≠ i.toNat) → exec (.slipDeadlineExpiry bk seq i sense []) s = .next s

/-- R83, R85, R89, R90, R91: the availability instant of a request is the later, by signed difference, of the release time plus the
MIN_DWELL it took with it and, for a request of a profile with a BOOST_RISE, the boost end plus its RECHARGE_GUARD; a term whose time
is absent is dropped, and with none left there is no instant. At the head timer of a free bank the head is granted if its availability instant has been reached and its
deadline not passed; where that instant lies later, the timer is set to it. At the settle expiry a SETTLING bank becomes IDLE,
which is written as 0 into its status entry, and the timer stops. The model's choices in it: the test of the deadline at the grant
check (assumption 15), and that the command of a stopped head timer, or a settle expiry in any other state of the bank, changes
nothing, the tick included (assumption 4). -/
def Obligations.HeadAndSettleTimers : Prop :=
  (∀ (x : Bank) (r : Request) (dwell guard : Option Time),
    dwell = (match x.releaseAt with | some t => some (t + BitVec.ofNat 32 r.minDwell) | none => none) →
    guard = (match x.boostEnd with
      | some t => if r.boost then some (t + BitVec.ofNat 32 r.recharge) else none
      | none => none) →
    x.instant r = match dwell, guard with
      | some d, some g => some (if 0 < (g - d).toInt then g else d)
      | some d, none => some d
      | none, some g => some g
      | none, none => none)
  ∧ (∀ (u : Setup) (s : State) (bk : BankId) (sense : BankSense) (t : Time) (r : Request) (rest : List Request) (e : Event),
    (s.bank bk).headAt = some t → (s.bank bk).holder = none → (s.bank bk).waiting = r :: rest →
    (∀ i, (s.bank bk).instant r = some i → Time.later i t = true →
      exec (.headTimerExpiry bk sense []) s = .next
        { s with
          now := t
          pins := { s.pins with sense := s.pins.sense.set bk sense }
          banks := s.banks.set bk { s.bank bk with headAt := some i } })
    ∧ ((s.bank bk).openAt r.boost r.minDwell r.recharge t → Time.since t r.start ≤ Time.since r.deadline r.start →
      s.su.setup = some u → (s.cyl r.cyl).event = some e → e.seq = r.seq →
      (r.dry = true ∨ sense.current.toNat < (u.banks.get bk).shortLevel) →
      ∃ y, exec (.headTimerExpiry bk sense []) s = .next y ∧ y.now = t
        ∧ (y.bank bk).mode = .active ∧ (y.bank bk).waiting = rest ∧ (y.bank bk).headAt = none
        ∧ (y.bank bk).holder = some ⟨.event r.seq r.index r.kind r.dry, r.cyl, t⟩
        ∧ (y.bank bk).capAt = some (Time.add t (e.snap.driveMax - e.drive))
        ∧ y.cyls = s.cyls.set r.cyl { s.cyl r.cyl with
            event := some { e with
              pulses := modPulses r.index (fun q =>
                { q with
                  cond := .active, slip := Time.since t r.start
                  startAngle := (s.setNow t).startAngle r.cyl }) e.pulses } }
        ∧ (∀ j, j ≠ bk → y.bank j = s.bank j) ∧ y.arm = s.arm ∧ y.trk = s.trk ∧ y.ev = s.ev))
  ∧ (∀ (s : State) (bk : BankId) (sense : BankSense), (s.bank bk).headAt = none →
    exec (.headTimerExpiry bk sense []) s = .next s)
  ∧ (∀ (s : State) (bk : BankId) (t : Time), (s.bank bk).mode = .settling → (s.bank bk).settleAt = some t →
    ∃ m, exec (.settleExpiry bk []) s = .next
        { s with now := t, banks := s.banks.set bk { s.bank bk with mode := .idle, settleAt := none }, mem := m }
      ∧ Memory.Shown s.sb.live [(0x240 + 8 * bk.index, 0)] s.mem m)
  ∧ ∀ (s : State) (bk : BankId), ((s.bank bk).mode ≠ .settling ∨ (s.bank bk).settleAt = none) →
    exec (.settleExpiry bk []) s = .next s

/-! ## Banks and drive channels -/

/-- R96, R97, R101: at the cap expiry a played holder ends CAPPED and goes to QUENCH, and every pulse of its event not yet granted
is dropped CAP_DROP, each counted as a conflict of the bank; CONFLICT is bit 9. A dry holder ends CAPPED too, RESOLVED at once with
its DRIVEN and the peak time 0, and releases its bank; its event's other pulses are dropped and counted likewise, and the event
completes where none is left. That the
command of a stopped cap timer changes nothing, the tick included, is the model's choice (assumption 4). -/
def Obligations.CapExpiry : Prop :=
  (∀ (s : State) (bk : BankId) (sense : BankSense) (t : Time) (h : Holder) (seq : Word) (i : Nat) (kind : Kind) (d : Bool)
    (e : Event), (s.bank bk).capAt = some t → (s.bank bk).holder = some h → (s.bank bk).mode = .active →
    h.job = .event seq i kind d → (s.cyl h.cyl).event = some e → e.seq = seq → s.bankOf h.cyl = bk →
    ∀ n : Event → Nat,
    (∀ x, n x = (x.pulses.filter fun q => q.cond == .pending || q.cond == .armed || q.cond == .waiting).length) →
    (∀ p, d = false → Playing s bk p sense → p.job = h.job → p.cyl = h.cyl →
      ∃ y z, exec (.capExpiry bk sense []) s = .next y ∧ y.now = t
        ∧ z = e.ended i .quench ⟨.capped, Time.since t p.grantedAt, p.peak.getD 0, p.boostLow⟩
        ∧ (y.bank bk).mode = .quench ∧ (y.bank bk).holder = some h ∧ (y.bank bk).channel = some (p.ended .capped t)
        ∧ (y.bank bk).capAt = none ∧ (y.bank bk).conflicts = BitVec.ofNat 16 (min 65535 ((s.bank bk).conflicts.toNat + n z))
        ∧ (y.cyl h.cyl).event = some (z.dropped t .capDrop)
        ∧ (n z ≠ 0 → y.ev.sticky.getLsbD 9 = true) ∧ y.unlisted h.cyl)
    ∧ (d = true →
      ∃ y z, exec (.capExpiry bk sense []) s = .next y ∧ y.now = t
        ∧ z = e.ended i .resolved ⟨.capped, Time.since t h.grantedAt, 0, false⟩
        ∧ (y.bank bk).mode = .settling ∧ (y.bank bk).holder = none
        ∧ (y.bank bk).releaseAt = some t ∧ (y.bank bk).boostEnd = (s.bank bk).boostEnd ∧ (y.bank bk).capAt = none
        ∧ (y.bank bk).dryEndAt = none
        ∧ (y.bank bk).conflicts = BitVec.ofNat 16 (min 65535 ((s.bank bk).conflicts.toNat + n z))
        ∧ y.judged h.cyl (z.dropped t .capDrop) ∧ (n z ≠ 0 → y.ev.sticky.getLsbD 9 = true) ∧ y.unlisted h.cyl
        ∧ (y.cyl h.cyl).faults = (s.cyl h.cyl).faults))
  ∧ ∀ (s : State) (bk : BankId) (sense : BankSense), (s.bank bk).capAt = none → exec (.capExpiry bk sense []) s = .next s

/-- R95, R98, R111, R113, R115, R117, R119: at its duration expiry a played pulse ends FIRED. The gates go off, the results are fixed,
the bank is in QUENCH (2) with the same holder, the cylinder's consecutive faults become 0, and an event pulse's DRIVEN is added
to its event's drive, here below the cap. The service pulse ends likewise, without an event (R123). A dry holder ends FIRED by
the arbiter itself (R98): RESOLVED at once, its DRIVEN counts, the bank releases without a quench (SETTLING, 3), the boost end is
as it was, and no fault count moves; other pulses of its event go on, nobody waits, and the cap is not reached. That the command
changes nothing, the tick included, where no duration runs is the model's choice (assumption 4), and so it is that a release writes no release
time (assumption 35). -/
def Obligations.DurationExpiry : Prop :=
  (∀ (s : State) (bk : BankId) (sense : BankSense) (p : Player), Playing s bk p sense →
    (∀ seq i kind d e, p.job = .event seq i kind d → (s.cyl p.cyl).event = some e → e.seq = seq →
      e.drive + Time.since p.durationAt p.grantedAt < e.snap.driveMax →
      ∃ m, exec (.durationExpiry bk sense []) s = .next
          { s with
            now := p.durationAt
            pins := { s.pins with sense := s.pins.sense.set bk sense }
            banks := s.banks.set bk ((s.bank bk).ended p .fired p.durationAt)
            cyls := s.cyls.set p.cyl { s.cyl p.cyl with
              faults := 0
              event := some (e.ended i .quench
                ⟨.fired, Time.since p.durationAt p.grantedAt, p.peak.getD 0, p.boostLow⟩) }
            mem := m }
        ∧ Memory.Shown s.sb.live [(0x240 + 8 * bk.index, 2), (0x1C0 + 16 * (p.cyl.number - 1) + 8, 0)] s.mem m)
    ∧ (∀ f, p.job = .service f →
      ∃ m, exec (.durationExpiry bk sense []) s = .next
          { s with
            now := p.durationAt
            pins := { s.pins with sense := s.pins.sense.set bk sense }
            banks := s.banks.set bk ((s.bank bk).ended p .fired p.durationAt)
            cyls := s.cyls.set p.cyl { s.cyl p.cyl with faults := 0 }
            mem := m }
        ∧ Memory.Shown s.sb.live [(0x240 + 8 * bk.index, 2), (0x1C0 + 16 * (p.cyl.number - 1) + 8, 0)] s.mem m))
  ∧ (∀ (s : State) (bk : BankId) (sense : BankSense), (∀ p, (s.bank bk).channel = some p → p.cond = .quench) →
    (s.bank bk).dryEndAt = none → exec (.durationExpiry bk sense []) s = .next s)
  ∧ ∀ (s : State) (bk : BankId) (sense : BankSense) (t : Time) (h : Holder) (seq : Word) (i : Nat) (kind : Kind) (e : Event),
    (s.bank bk).dryEndAt = some t → (s.bank bk).channel = none → (s.bank bk).holder = some h → (s.bank bk).mode = .active →
    h.job = .event seq i kind true → (s.cyl h.cyl).event = some e → e.seq = seq → e.others i →
    e.drive + Time.since t h.grantedAt < e.snap.driveMax → (s.bank bk).waiting = [] →
    ∃ m, exec (.durationExpiry bk sense []) s = .next
        { s with
          now := t
          pins := { s.pins with sense := s.pins.sense.set bk sense }
          banks := s.banks.set bk { (s.bank bk).released s.su.trim t with capAt := none, dryEndAt := none }
          cyls := s.cyls.set h.cyl { s.cyl h.cyl with
            event := some (e.ended i .resolved ⟨.fired, Time.since t h.grantedAt, 0, false⟩) }
          mem := m }
      ∧ Memory.Shown s.sb.live [(0x240 + 8 * bk.index, 3)] s.mem m

/-- R99, R108, R112, R113, R118, R120: a rise limit that expires ends the pulse OPEN_FAULT; a short report while a phase is played
ends it SHORT_FAULT, and so does one that stands at the entry of HOLD or of a FREEWHEEL. The cylinder's consecutive faults and
FAULT_TOTAL count one and are written, and PULSE_FAULT, 0x0080, is raised; the cap is not reached here. The fault that brings the
consecutive faults to FAULT_LIMIT quarantines the cylinder: QUARANTINE, bit 8, is raised beside PULSE_FAULT, bit 7; every pending,
armed and waiting pulse of it leaves its collection and is RESOLVED with QUARANTINE_DROP; the faulting pulse keeps its outcome and
runs its quench. -/
def Obligations.FaultEnds : Prop :=
  ∀ (c : Instr) (o : PulseOutcome) (t : Time) (s : State) (bk : BankId) (sense : BankSense) (p p' : Player) (seq : Word)
    (i : Nat) (kind : Kind) (d : Bool) (e : Event) (q : Nat), Playing s bk p sense →
    ((c = .riseLimitExpiry bk sense [] ∧ o = .openFault ∧ p.phaseTimer = some t ∧ p' = p
        ∧ ((∃ b l, p.cond = .boostRise b l) ∨ ∃ l, p.cond = .batteryRise l))
      ∨ (c = .shortInputChange bk t sense [] ∧ o = .shortFault ∧ p.shortLevel ≤ sense.current.toNat ∧ p' = p)
      ∨ (c = .freewheelExpiry bk sense [] ∧ o = .shortFault ∧ p.shortLevel ≤ sense.current.toNat ∧ p.cond = .freewheel
        ∧ p.phaseTimer = some t ∧ p' = { p with phase := p.phase + 1 }
        ∧ (p.profile.ramps.drop (p.phase + 1) = []
          ∨ ∃ time l, time ≠ 0 ∧ p.profile.ramps.drop (p.phase + 1) = .freewheel time :: l))) →
    p.job = .event seq i kind d → (s.cyl p.cyl).event = some e → e.seq = seq →
    e.drive + Time.since t p.grantedAt < e.snap.driveMax → (s.cyl p.cyl).faults < 255 →
    q = 0x1C0 + 16 * (p.cyl.number - 1) →
    ∀ z : Event, z = e.ended i .quench ⟨o, Time.since t p.grantedAt, p.peak.getD 0, p.boostLow⟩ →
    ((s.cyl p.cyl).faults + 1 < s.faultLimit →
      ∃ m, exec c s = .next
          { s with
            now := t
            pins := { s.pins with sense := s.pins.sense.set bk sense }
            banks := s.banks.set bk ((s.bank bk).ended p' o t)
            cyls := s.cyls.set p.cyl { s.cyl p.cyl with
              faults := (s.cyl p.cyl).faults + 1
              faultTotal := satCount (s.cyl p.cyl).faultTotal
              event := some z }
            ev := { s.ev with sticky := s.ev.sticky ||| 0x0080 }
            mem := m }
        ∧ Memory.Shown s.sb.live [(0x240 + 8 * bk.index, 2), (q + 8, BitVec.ofNat 16 ((s.cyl p.cyl).faults + 1)),
            (q + 14, satCount (s.cyl p.cyl).faultTotal)] s.mem m)
    ∧ (s.faultLimit ≤ (s.cyl p.cyl).faults + 1 →
      ∃ y, exec c s = .next y ∧ (y.cyl p.cyl).quarantined = true ∧ (y.cyl p.cyl).faults = (s.cyl p.cyl).faults + 1
        ∧ y.ev.sticky = s.ev.sticky ||| 0x0080 ||| 0x0100
        ∧ (y.bank bk).mode = .quench ∧ (y.bank bk).holder = (s.bank bk).holder ∧ (y.bank bk).channel = some (p'.ended o t)
        ∧ y.unlisted p.cyl ∧ (y.cyl p.cyl).event = some (z.dropped t .quarantineDrop)
        ∧ ∀ k, k ≠ p.cyl → y.cyl k = s.cyl k)

/-- R84, R106 to R110: a FREEWHEEL ends at its timer and a rise phase at its level; the next phase is entered at that instant, and
the player passes at once through phases that end at their entry (a rise whose level is reached there, a FREEWHEEL of time 0) to
the one it rests in, whose gates alone are driven. The first rise that reaches its level sets the peak time; the boost end is
recorded when the boost gate goes off. Each BOOST_RISE entered with BOOST_OK low sets BOOST_LOW, counts one in BOOST_LOW_COUNT,
which is written, and runs on the battery. No short report stands here. That the command changes nothing, the tick included,
without a FREEWHEEL is the model's choice (assumption 4). -/
def Obligations.PhaseEnds : Prop :=
  (∀ (s : State) (bk : BankId) (sense : BankSense) (t : Time) (p : Player) (passed rest : List Ramp) (c : ChannelCond)
    (timer : Option Time) (lows : Nat) (peak : Option Nat) (x : Bank) (z : State),
    (s.bank bk).channel = some p → sense.current.toNat < p.shortLevel →
    p.profile.ramps.drop (p.phase + 1) = passed ++ rest → (∀ r ∈ passed, r.passes sense) →
    Rests sense p.profile.holdUpper t rest c timer →
    lows = (if sense.boostOk then 0 else ((passed ++ rest.take 1).filter Ramp.isBoost).length) →
    peak = (if (∀ r ∈ passed, r = .freewheel 0) then p.peak else some (p.peak.getD (Time.since t p.grantedAt))) →
    x = { s.bank bk with
      boostLowCount := BitVec.ofNat 16 (min 65535 ((s.bank bk).boostLowCount.toNat + lows))
      channel := some { p with
        cond := c, phase := p.phase + 1 + passed.length, phaseTimer := timer, peak := peak
        boostLow := p.boostLow || decide (lows ≠ 0) } } →
    z = { s with now := t, pins := { s.pins with sense := s.pins.sense.set bk sense } } →
    (p.cond = .freewheel → p.phaseTimer = some t →
      ∃ m, exec (.freewheelExpiry bk sense []) s = .next { z with banks := s.banks.set bk x, mem := m }
        ∧ (lows = 0 → m = s.mem)
        ∧ (lows ≠ 0 → Memory.Shown s.sb.live [(0x244 + 8 * bk.index, x.boostLowCount)] s.mem m))
    ∧ ∀ g level, (p.cond = .boostRise g level ∨ (g = false ∧ p.cond = .batteryRise level)) → level ≤ sense.current.toNat →
      ∃ m, exec (.upperInputChange bk t sense []) s = .next
          { z with
            banks := s.banks.set bk { x with
              channel := x.channel.map fun q => { q with peak := some (p.peak.getD (Time.since t p.grantedAt)) }
              boostEnd := if g && !c.boostGate then some t else (s.bank bk).boostEnd }
            mem := m }
        ∧ (lows = 0 → m = s.mem)
        ∧ (lows ≠ 0 → Memory.Shown s.sb.live [(0x244 + 8 * bk.index, x.boostLowCount)] s.mem m))
  ∧ ∀ (s : State) (bk : BankId) (sense : BankSense), (∀ p, (s.bank bk).channel = some p → p.cond ≠ .freewheel) →
    exec (.freewheelExpiry bk sense []) s = .next s

/-- R103, R104, R110, R187, R188: HOLD goes to DECAY when the upper input reports the upper level, and to CHARGE when the lower input
reports the current below the lower level. A change of an input that is not in use is ignored: the upper one in FREEWHEEL, the lower
one in a rise phase or FREEWHEEL, the upper and the short one in QUENCH, and all three while the channel is IDLE. What a channel
drives and presents: IDLE and QUENCH drive no gate; every other condition drives the low side of the played cylinder alone. The boost
gate is on in a BOOST_RISE entered with BOOST_OK high; the battery gate in any other rise and in CHARGE. The upper code is the phase
level in a rise and HOLD's upper level in HOLD; the lower code is HOLD's lower level in HOLD and QUENCH_LEVEL in QUENCH; the short
code is SHORT_LEVEL while a phase is played; any other code is 0. -/
def Obligations.InputsAndGates : Prop :=
  (∀ (s z : State) (bk : BankId) (sense : BankSense) (t : Time),
    z = { s with now := t, pins := { s.pins with sense := s.pins.sense.set bk sense } } →
    (∀ p, (s.bank bk).channel = some p →
      (p.cond = .hold true → p.profile.holdUpper ≤ sense.current.toNat →
        exec (.upperInputChange bk t sense []) s = .next
          { z with banks := s.banks.set bk { s.bank bk with channel := some { p with cond := .hold false } } })
      ∧ (p.cond = .hold false → sense.current.toNat < p.profile.holdLower →
        exec (.lowerInputChange bk t sense []) s = .next
          { z with banks := s.banks.set bk { s.bank bk with channel := some { p with cond := .hold true } } })
      ∧ (p.cond = .freewheel ∨ p.cond = .quench → exec (.upperInputChange bk t sense []) s = .next z)
      ∧ ((p.cond = .freewheel ∨ (∃ b l, p.cond = .boostRise b l) ∨ ∃ l, p.cond = .batteryRise l) →
        exec (.lowerInputChange bk t sense []) s = .next z)
      ∧ (p.cond = .quench → exec (.shortInputChange bk t sense []) s = .next z))
    ∧ ((s.bank bk).channel = none →
      exec (.upperInputChange bk t sense []) s = .next z ∧ exec (.lowerInputChange bk t sense []) s = .next z
        ∧ exec (.shortInputChange bk t sense []) s = .next z))
  ∧ ∀ (s : State) (bk : BankId),
    ((s.bank bk).channel = none → s.boostPin bk = false ∧ s.batteryPin bk = false ∧ (s.bank bk).codes = (0, 0, 0))
    ∧ (∀ p, (s.bank bk).channel = some p →
      (∀ b l, p.cond = .boostRise b l → s.boostPin bk = b ∧ s.batteryPin bk = !b ∧ (s.bank bk).codes = (l, 0, p.shortLevel))
      ∧ (∀ l, p.cond = .batteryRise l →
        s.boostPin bk = false ∧ s.batteryPin bk = true ∧ (s.bank bk).codes = (l, 0, p.shortLevel))
      ∧ (p.cond = .freewheel →
        s.boostPin bk = false ∧ s.batteryPin bk = false ∧ (s.bank bk).codes = (0, 0, p.shortLevel))
      ∧ (∀ charging, p.cond = .hold charging → s.boostPin bk = false ∧ s.batteryPin bk = charging
        ∧ (s.bank bk).codes = (p.profile.holdUpper, p.profile.holdLower, p.shortLevel))
      ∧ (p.cond = .quench →
        s.boostPin bk = false ∧ s.batteryPin bk = false ∧ (s.bank bk).codes = (0, p.quenchLevel, 0)))
    ∧ ∀ k, s.lowSidePin k = true ↔ ∃ j p, (s.bank j).channel = some p ∧ p.cyl = k ∧ p.cond ≠ .quench

/-- R42, R83, R95, R115, R116, R125: a quench ends at its expiry or when the lower input reports the current below QUENCH_LEVEL. The
channel becomes IDLE, the bank releases (SETTLING, 3) with its settle expiry, nobody waiting here. An event pulse is RESOLVED, and
other pulses of its event go on; where an overrun has ended that event before, its place empty or taken by the next one, only the
bank releases. For the service pulse the service entry receives DRIVEN, PEAK_TIME, the BOOST_LOW flag and the outcome, and
SERVICE_DONE, 0x8000, is raised. That the command changes nothing, the tick included, without a quench is the model's choice
(assumption 4), and so it is that a release writes no release time into the status block (assumption 35). -/
def Obligations.QuenchEnds : Prop :=
  (∀ (c : Instr) (s : State) (bk : BankId) (sense : BankSense) (t : Time) (p : Player) (z : State),
    (s.bank bk).channel = some p → p.cond = .quench →
    ((c = .quenchExpiry bk sense [] ∧ p.quenchAt = some t)
      ∨ (c = .lowerInputChange bk t sense [] ∧ sense.current.toNat < p.quenchLevel)) →
    (s.bank bk).waiting = [] →
    z = { s with
      now := t
      pins := { s.pins with sense := s.pins.sense.set bk sense }
      banks := s.banks.set bk ((s.bank bk).released s.su.trim t) } →
    (∀ seq i kind d, p.job = .event seq i kind d →
      (∀ e, (s.cyl p.cyl).event = some e → e.seq = seq → e.others i →
        ∃ m, exec c s = .next
            { z with
              cyls := s.cyls.set p.cyl { s.cyl p.cyl with
                event := some { e with pulses := modPulses i (fun q => { q with cond := .resolved }) e.pulses } }
              mem := m }
          ∧ Memory.Shown s.sb.live [(0x240 + 8 * bk.index, 3)] s.mem m)
      ∧ ((∀ e, (s.cyl p.cyl).event = some e → e.seq ≠ seq ∧ ∃ q ∈ e.pulses, q.cond ≠ .resolved) →
        ∃ m, exec c s = .next { z with mem := m } ∧ Memory.Shown s.sb.live [(0x240 + 8 * bk.index, 3)] s.mem m))
    ∧ ∀ f r, p.job = .service f → p.result = some r →
      ∃ m, exec c s = .next
          { z with
            sb := { s.sb with
              service := ⟨s.sb.service.cylWord, BitVec.ofNat 16 (2 * r.boostLow.toNat), BitVec.ofNat 16 (min 65535 r.driven),
                BitVec.ofNat 16 (min 65535 r.peak), BitVec.ofNat 16 r.outcome.code⟩ }
            ev := { s.ev with sticky := s.ev.sticky ||| 0x8000 }
            mem := m }
        ∧ Memory.Shown s.sb.live
          [(0x1B4, BitVec.ofNat 16 (min 65535 r.driven)), (0x1B6, BitVec.ofNat 16 (min 65535 r.peak)),
            (0x1B2, BitVec.ofNat 16 (2 * r.boostLow.toNat)), (0x1B8, BitVec.ofNat 16 r.outcome.code),
            (0x240 + 8 * bk.index, 3)] s.mem m)
  ∧ ∀ (s : State) (bk : BankId) (sense : BankSense), (∀ p, (s.bank bk).channel = some p → p.cond ≠ .quench) →
    exec (.quenchExpiry bk sense []) s = .next s

/-- R83, R95, R113, R115, R116, R125: a pulse that ends with its current already below QUENCH_LEVEL has its quench end at that instant:
the bank is in QUENCH and released again by the same command (SETTLING, 3), and the pulse is RESOLVED with the results fixed at its
end. At the duration expiry (FIRED) and at a rise limit (OPEN_FAULT, below FAULT_LIMIT), for an event pulse, other pulses of whose
event go on below the cap, and for the service pulse, whose entry is then written and SERVICE_DONE (0x8000) raised; nobody waits. At
the cap expiry (CAPPED), an overrun, a preemption by a MAIN and a STOP CUT (TRUNCATED), with the drops of each; a service pulse at the
first crank edge and at a STOP CUT in READY (TRUNCATED). That a release writes no release time into the status block is the model's
choice (assumption 35). -/
def Obligations.QuenchAtEntry : Prop :=
  (∀ (c : Instr) (fault : Bool) (o : PulseOutcome) (t : Time) (s z : State) (bk : BankId) (sense : BankSense) (p : Player)
    (r : PulseResult) (x : Cylinder) (w : List (Nat × Word)), Spent s bk p sense → (s.bank bk).waiting = [] →
    ((fault = false ∧ c = .durationExpiry bk sense [] ∧ o = .fired ∧ t = p.durationAt)
      ∨ (fault = true ∧ c = .riseLimitExpiry bk sense [] ∧ o = .openFault ∧ p.phaseTimer = some t
        ∧ ((∃ b l, p.cond = .boostRise b l) ∨ ∃ l, p.cond = .batteryRise l)
        ∧ (s.cyl p.cyl).faults < 255 ∧ (s.cyl p.cyl).faults + 1 < s.faultLimit)) →
    r = ⟨o, Time.since t p.grantedAt, p.peak.getD 0, p.boostLow⟩ →
    x = { s.cyl p.cyl with
      faults := if fault then (s.cyl p.cyl).faults + 1 else 0
      faultTotal := if fault then satCount (s.cyl p.cyl).faultTotal else (s.cyl p.cyl).faultTotal } →
    w = [(0x240 + 8 * bk.index, 3), (0x1C0 + 16 * (p.cyl.number - 1) + 8, BitVec.ofNat 16 x.faults)]
      ++ (if fault then [(0x1C0 + 16 * (p.cyl.number - 1) + 14, x.faultTotal)] else []) →
    z = { s with
      now := t
      pins := { s.pins with sense := s.pins.sense.set bk sense }
      banks := s.banks.set bk (((s.bank bk).ended p o t).released s.su.trim t)
      ev := { s.ev with sticky := s.ev.sticky ||| (if fault then 0x0080 else 0) } } →
    (∀ seq i kind d e, p.job = .event seq i kind d → (s.cyl p.cyl).event = some e → e.seq = seq → e.others i →
      e.drive + r.driven < e.snap.driveMax →
      ∃ m, exec c s = .next { z with cyls := s.cyls.set p.cyl { x with event := some (e.ended i .resolved r) }, mem := m }
        ∧ Memory.Shown s.sb.live w s.mem m)
    ∧ ∀ f, p.job = .service f →
      ∃ m, exec c s = .next
          { z with
            cyls := s.cyls.set p.cyl x
            sb := { s.sb with service := s.sb.service.closed r }
            ev := { s.ev with sticky := z.ev.sticky ||| 0x8000 }
            mem := m }
        ∧ Memory.Shown s.sb.live
          (w ++ [(0x1B4, BitVec.ofNat 16 (min 65535 r.driven)), (0x1B6, BitVec.ofNat 16 (min 65535 r.peak)),
            (0x1B2, BitVec.ofNat 16 (2 * r.boostLow.toNat)), (0x1B8, BitVec.ofNat 16 r.outcome.code)]) s.mem m)
  ∧ (∀ (s : State) (bk : BankId) (sense : BankSense) (p : Player) (h : Holder) (seq : Word) (i : Nat) (kind : Kind) (e : Event)
    (ended : PulseOutcome → Time → Event → Event), Spent s bk p sense → (s.bank bk).holder = some h → (s.bank bk).mode = .active →
    h.job = .event seq i kind false → p.job = h.job → p.cyl = h.cyl → (s.cyl p.cyl).event = some e → e.seq = seq →
    (∀ o t e, ended o t e = e.ended i .resolved ⟨o, Time.since t p.grantedAt, p.peak.getD 0, p.boostLow⟩) →
    (∀ t, (s.bank bk).capAt = some t → s.bankOf p.cyl = bk →
      ∃ y, exec (.capExpiry bk sense []) s = .next y ∧ y.now = t ∧ (y.bank bk).freed t
        ∧ (y.bank bk).conflicts
          = BitVec.ofNat 16 (min 65535 ((s.bank bk).conflicts.toNat + (ended .capped t e).droppable))
        ∧ y.unlisted p.cyl ∧ y.judged p.cyl ((ended .capped t e).dropped t .capDrop))
    ∧ (sense = s.pins.sense.get bk → s.bankOf p.cyl = bk → (s.bank bk).waiting = [] →
      (∀ q ∈ e.pulses, q.cond = .active → q.plan.index = i) →
      ∀ y, y = s.overrun p.cyl → (y.bank bk).freed s.now ∧ y.unlisted p.cyl ∧ (y.bank bk).conflicts = (s.bank bk).conflicts
        ∧ (y.cyl p.cyl).event = none ∧ (y.cyl p.cyl).lastSeq = e.seq
        ∧ (y.cyl p.cyl).lastOutcome = some (eventOutcome (ended .truncated s.now (e.dropped s.now .overrunDrop)).pulses))
    ∧ ∀ (top : BitVec 4) (t : Time) (all : Four BankSense), all.get bk = sense → s.held = false →
      (s.ctl.run = .running ∨ (s.ctl.run = .stopping ∧ (s.ctl.stopMode = .cycle ∨ s.ctl.stopMode = .event))) →
      (∀ j h', (s.bank j).holder = some h' → h'.cyl = h.cyl → j = bk) →
      (∀ j h' q, (s.bank j).holder = some h' → (s.bank j).channel = some q → q.cyl = h'.cyl) →
      ∃ y, exec (.stop 0 top t all []) s = .next y ∧ (y.bank bk).freed t ∧ (y.bank bk).waiting = []
        ∧ y.judged p.cyl (ended .truncated t (e.dropped t .stopDrop)))
  ∧ (∀ (u : Setup) (s : State) (a : ArmedEntry) (rest : List ArmedEntry) (e e2 : Event) (q : Pulse) (bk : BankId)
    (sense : BankSense) (f : Profile) (p : Player) (h : Holder) (seq : Word) (i : Nat), Starting u s a rest e q bk →
    s.noAbort e → u.profiles[q.plan.profile]? = some f → f.boostMark = false → 50 ≤ s.su.trim.minDwell →
    s.su.trim.minDwell ≤ 20000 → a.entry.kind = .main → (s.bank bk).waiting = [] → (s.bank bk).mode = .active →
    (s.bank bk).holder = some h → h.job = .event seq i .post false → seq ≠ e.seq → h.cyl ≠ a.entry.cyl →
    Spent s bk p sense → p.job = h.job → p.cyl = h.cyl → (s.cyl h.cyl).event = some e2 → e2.seq = seq → e2.others i →
    e2.drive + Time.since a.start p.grantedAt < e2.snap.driveMax →
    ∃ y, exec (.startExpiry sense []) s = .next y ∧ (y.bank bk).freed a.start
      ∧ (y.bank bk).waiting.map (fun r => (r.seq, r.index)) = [(e.seq, a.entry.index)]
      ∧ (y.bank bk).headAt = some (Time.add a.start s.su.trim.minDwell)
      ∧ (y.bank bk).conflicts = satCount (s.bank bk).conflicts ∧ y.ev.sticky = s.ev.sticky ||| 0x0200
      ∧ (y.cyl h.cyl).event = some (e2.ended i .resolved
          ⟨.truncated, Time.since a.start p.grantedAt, p.peak.getD 0, p.boostLow⟩))
  ∧ ∀ (c : Instr) (u : Setup) (s : State) (t : Time) (all : Four BankSense) (bk : BankId) (p : Player) (h : Holder) (f : Nat),
    Spent s bk p (all.get bk) → (s.bank bk).holder = some h → (s.bank bk).mode = .active → h.job = .service f →
    p.job = .service f → (∀ j, j ≠ bk → (s.bank j).heldByService = false) → s.su.setup = some u →
    ((∃ top, c = .stop 0 top t all [] ∧ s.held = false ∧ s.ctl.run = .ready)
      ∨ (c = .crankEdge u.crankEdge t all [] ∧ s.ctl.run.tracks = true ∧ s.trk.sync = .noSignal)) →
    ∃ y, exec c s = .next y ∧ y.now = t ∧ (y.bank bk).freed t ∧ (y.cyl p.cyl).faults = 0
      ∧ y.sb.service = s.sb.service.closed ⟨.truncated, Time.since t p.grantedAt, p.peak.getD 0, p.boostLow⟩
      ∧ y.ev.sticky.getLsbD 15 = true

/-! ## Requests -/

/-- R123, R141: SERVICE accepted in READY, with no sync, on an ENABLED configured cylinder whose bank is IDLE. The bank is ACTIVE
with the service pulse as holder, the service entry is started with outcome UNUSED (0), and the channel plays the named profile
for SERVICE_DURATION, here without a standing short report. -/
def Obligations.ServiceAccepted : Prop :=
  ∀ (u : Setup) (s : State) (arg : Byte) (top : BitVec 4) (t : Time) (sense : BankSense) (k : CylId) (bk : BankId) (f : Nat)
    (pr : Profile), s.held = false → s.mem.calm → s.su.setup = some u → s.ctl.run = .ready → s.trk.sync = .noSignal →
    arg.toNat = k.number + 16 * f → arg.toNat < 128 → k.number ≤ u.cylCount → u.profiles[f]? = some pr →
    bk = (u.cyls.get k).bank → (s.cyl k).quarantined = false → (s.bank bk).mode = .idle → s.noService →
    sense.current.toNat < (u.banks.get bk).shortLevel →
    ∃ y, exec (.service arg top t sense []) s = .next y
      ∧ y.now = t ∧ y.ctl = s.ctl.taken (requestWord 6 arg top) .accepted
      ∧ (y.bank bk).mode = .active ∧ (y.bank bk).holder = some ⟨.service f, k, t⟩
      ∧ Engaged y bk (.service f) k pr s.su.trim.serviceDuration t
      ∧ y.sb = { s.sb with service := ⟨BitVec.ofNat 16 (k.number + 256 * f), 0, 0, 0, 0⟩ }
      ∧ (∀ j, j ≠ bk → y.bank j = s.bank j) ∧ y.cyls = s.cyls ∧ y.arm = s.arm ∧ y.trk = s.trk ∧ y.su = s.su ∧ y.ev = s.ev
      ∧ s.mem.SameOutside
        (if s.sb.live then [0x1B8, 0x1B0, 0x1B2, 0x1B4, 0x1B6, 0x240 + 8 * bk.index, 0x244 + 8 * bk.index] else []) y.mem
      ∧ (s.sb.live = true → y.mem.Shows 0x1B8 0 ∧ y.mem.Shows 0x1B0 (BitVec.ofNat 16 (k.number + 256 * f))
          ∧ y.mem.Shows (0x240 + 8 * bk.index) 1)

/-- R1, R128, R131, R147 to R151, R182, R183: LOAD is accepted in STOPPED and READY. The run state becomes LOADING, RUN_STATE (0x0800) is
raised, the staging copy is empty, and the tracker goes to NO_SIGNAL, its cycle counter kept. A LOAD that fails at a check writes
the error code and its offset, live or not, and nothing else; the setup copy becomes absent and the run state STOPPED, with
RUN_STATE. A LOAD that meets no write reads the 256 bytes of the setup block and the 32 of each profile named by a PROFILE_COUNT that
read well and lies in 1..8. The error is the first that fails of the checks listed, in their order, with the code and the byte offset
beside it; `word` is a 2-byte field, low byte first, and `rel` a signed one. The model's choices in it: the three counts kept at both
moves, and which status words are written there (assumption 17), that outside LOADING no LOAD ends (assumption 5), that of two bad
bytes of one word the even one is reported (assumption 38), the offset of a profile without a HOLD, which is free (assumption 11), and
that the order of the limp entries is checked before their MAINs (assumption 26). -/
def Obligations.LoadAcceptedOrFailed : Prop :=
  (∀ (s : State) (arg : Byte) (top : BitVec 4), s.held = false → s.ctl.run = .stopped ∨ s.ctl.run = .ready →
    ∃ m, exec (.load arg top []) s = .next
        { s with
          ctl := { s.ctl.taken (requestWord 1 arg top) .accepted with run := .loading }
          ev := { s.ev with sticky := s.ev.sticky ||| 0x0800 }
          su := { s.su with staging := [] }
          trk := { State.reset.trk with
            cycle := s.trk.cycle, noiseEdges := s.trk.noiseEdges, markerErrors := s.trk.markerErrors
            syncLosses := s.trk.syncLosses }
          mem := m }
      ∧ Memory.Shown s.sb.live [(0x186, 0), (0x188, 0), (0x18A, 0)] s.mem m)
  ∧ (∀ (s : State) (e : SetupError), s.ctl.run = .loading → loadError (stageAll s.mem s.su.staging) = some e →
    ∃ m, exec (.loadFail []) s = .next
        { s with
          ctl := { s.ctl with run := .stopped }
          ev := { s.ev with sticky := s.ev.sticky ||| 0x0800 }
          su := { s.su with setup := none, staging := [], error := e }
          trk := { State.reset.trk with
            cycle := s.trk.cycle, noiseEdges := s.trk.noiseEdges, markerErrors := s.trk.markerErrors
            syncLosses := s.trk.syncLosses }
          mem := m }
      ∧ s.mem.Stored [(0x194, BitVec.ofNat 16 (e.code % 256)), (0x196, e.offset)] m)
  ∧ (∀ (m : Memory) (count : Nat), count = (m.readByte 0x0F).toNat →
    (stageAll m []).length = 256 + (if m.byteBad 0x0F = false ∧ 1 ≤ count ∧ count ≤ 8 then 32 * count else 0)
    ∧ ∀ i, i < (stageAll m []).length →
      (stageAll m [])[i]? = some ⟨m.readByte (if i < 256 then i else i + 512), m.byteBad (if i < 256 then i else i + 512)⟩)
  ∧ (∀ (st : List StagedByte) (byte word : Nat → Nat) (rel : Nat → Int) (cyls banks : List Nat) (near : Nat → Nat → Bool)
      (below rise : Nat → Bool) (parity wheel cylinders profiles limp last : List (Bool × Nat × Nat)),
    (∀ a, byte a = ((st[if a < 256 then a else a - 512]?).map fun b => b.value.toNat).getD 0) →
    (∀ a, word a = byte a + 256 * byte (a + 1)) → (∀ a, rel a = (BitVec.ofNat 16 (word a)).toInt) →
    cyls = (List.range 8).filter (fun k => decide (k < byte 0x0E)) →
    banks = (List.range 4).filter (fun b => cyls.any fun k => byte (0x22 + 8 * k) == b) →
    (∀ a b, near a b = decide (min ((a + 23040 - b) % 23040) ((b + 23040 - a) % 23040) < 960)) →
    (∀ level, below level = banks.all fun b => decide (level < byte (0x60 + 8 * b))) →
    (∀ a, rise a = (decide (1 ≤ byte a) && decide (byte a ≤ 3))) →
    parity = (List.range st.length).map (fun i => ((st[i]?).any fun b => b.bad, 1, if i < 256 then i else i + 512)) →
    wheel =
      [(decide (byte 0x00 < 24) || decide (72 < byte 0x00) || decide (11520 % byte 0x00 ≠ 0), 2, 0x00),
        (decide (byte 0x01 ≠ 1) && decide (byte 0x01 ≠ 2), 2, 0x01), (decide (23040 ≤ word 0x02), 3, 0x02),
        (decide (byte 0x04 < 20) || decide (48 < byte 0x04), 4, 0x04),
        (decide (word 0x06 < 10) || decide (1600 < word 0x06), 5, 0x06),
        (decide (23040 ≤ word 0x08), 6, 0x08), (decide (23040 ≤ word 0x0A), 6, 0x0A),
        (decide (5760 < (word 0x0A + 23040 - word 0x08) % 23040 + 1), 6, 0x0A)] →
    cylinders = [(decide (byte 0x0E < 1) || decide (8 < byte 0x0E), 7, 0x0E)]
      ++ cyls.map (fun k => (decide (23040 ≤ word (0x20 + 8 * k))
        || (List.range k).any (fun j => near (word (0x20 + 8 * k)) (word (0x20 + 8 * j))), 8, 0x20 + 8 * k))
      ++ cyls.map (fun k => (decide (3 < byte (0x22 + 8 * k)), 9, 0x22 + 8 * k))
      ++ cyls.map (fun k => (decide (10000 < word (0x24 + 8 * k)), 10, 0x24 + 8 * k))
      ++ banks.flatMap (fun b => [(decide (byte (0x60 + 8 * b) < 1), 11, 0x60 + 8 * b),
        (decide (byte (0x60 + 8 * b) ≤ byte (0x61 + 8 * b)), 11, 0x61 + 8 * b),
        (decide (word (0x62 + 8 * b) < 100) || decide (20000 < word (0x62 + 8 * b)), 11, 0x62 + 8 * b)]) →
    profiles = [(decide (byte 0x0F < 1) || decide (8 < byte 0x0F), 12, 0x0F)]
      ++ (List.range (byte 0x0F)).flatMap (fun p =>
        (List.range 8).flatMap (fun j =>
          if (List.range j).all (fun i => rise (0x300 + 32 * p + 4 * i)) then
            (fun o kind => [(decide (kind = 0) || decide (4 < kind) || (decide (kind = 4) && decide (j = 7)), 12, o),
              ((decide (kind = 1) || decide (kind = 2)) && decide (word (o + 2) < 1), 12, o + 2),
              ((decide (kind = 1) || decide (kind = 2) || decide (kind = 4)) && !below (byte (o + 1)), 12, o + 1),
              (decide (kind = 4) && decide (byte (o + 1) ≤ byte (o + 2)), 12, o + 2),
              (decide (kind = 4) && decide (byte (o + 4) ≠ 0), 12, o + 4)])
              (0x300 + 32 * p + 4 * j) (byte (0x300 + 32 * p + 4 * j))
          else [])
        ++ [((List.range 8).all (fun i => rise (0x300 + 32 * p + 4 * i)), 12, (Config.noHoldOffset p).toNat)]) →
    limp = [0x14, 0x1A].flatMap (fun o => [(decide (3 < byte o), 15, o),
        (decide (byte o ≠ 0) && decide (byte 0x0F ≤ byte (o + 1)), 15, o + 1),
        (decide (byte o ≠ 0) && decide (word (o + 4) < 1), 15, o + 4),
        (decide (byte o ≠ 0) && (decide (rel (o + 2) < -5760) || decide (5759 < rel (o + 2))), 15, o + 2)])
      ++ [(decide (byte 0x14 ≠ 0) && decide (byte 0x1A ≠ 0) && decide (rel 0x1C < rel 0x16), 15, 0x1C),
        (decide (byte 0x14 = 2) && decide (byte 0x1A = 2), 15, 0x1A)] →
    last = [(decide (byte 0x10 < 1) || decide (7 < byte 0x10), 13, 0x10), (decide (byte 0x11 < 8) || decide (64 < byte 0x11), 14, 0x11)]
      ++ (if byte 0x12 % 2 = 1 then limp else []) →
    loadError st = ((parity ++ wheel ++ cylinders ++ profiles ++ last).find? fun c => c.1).map
      fun c => ⟨c.2.1, BitVec.ofNat 16 c.2.2⟩)
  ∧ ∀ s : State, s.ctl.run ≠ .loading → exec (.loadComplete []) s = .next s ∧ exec (.loadFail []) s = .next s

/-- R148 to R152, R171: a staging copy that passes every check was read without a parity error, and the setup copy made from it has
each field from its bytes of the setup block and the profile table, and keeps every range the checks state: cylinders at least 960
steps apart both ways round, and a limp plan in the order of its angles with at most one MAIN. -/
def Obligations.SetupAccepted : Prop :=
  ∀ (st : List StagedByte) (u : Setup) (byte word : Nat → Nat), loadError st = none → u = setupOf st →
    (∀ a, byte a = ((st[if a < 256 then a else a - 512]?).map fun b => b.value.toNat).getD 0) →
    (∀ a, word a = byte a + 256 * byte (a + 1)) →
    (∀ b ∈ st, b.bad = false)
      ∧ (u.n = byte 0x00 ∧ u.m = byte 0x01 ∧ u.wheelOffset = word 0x02 ∧ u.gapRatio = byte 0x04
        ∧ u.crankEdge = (if byte 0x05 % 2 = 1 then .falling else .rising) ∧ u.stallTicks = 10000 * word 0x06
        ∧ u.markerLo = word 0x08 ∧ u.markerHi = word 0x0A
        ∧ u.markerEdge = (if byte 0x0C % 2 = 1 then .falling else .rising) ∧ (u.phaseAssume = true ↔ byte 0x0D % 2 = 1)
        ∧ u.cylCount = byte 0x0E ∧ u.profiles.length = byte 0x0F ∧ u.faultLimit = byte 0x10 ∧ u.ringLen = byte 0x11
        ∧ (u.limp.isSome = true ↔ byte 0x12 % 2 = 1))
      ∧ (∀ l, u.limp = some l → l.Pairwise (fun e e' => e.index < e'.index) ∧ ∀ e : PulseEntry, e ∈ l ↔
          ∃ o, (e.index = 0 ∧ o = 0x14 ∨ e.index = 1 ∧ o = 0x1A) ∧ e.profile = byte (o + 1)
            ∧ e.relAngle = (BitVec.ofNat 16 (word (o + 2))).toInt ∧ e.duration = word (o + 4)
            ∧ (e.kind = .pilot ∧ byte o = 1 ∨ e.kind = .main ∧ byte o = 2 ∨ e.kind = .post ∧ byte o = 3))
      ∧ (∀ (k : CylId) (o : Nat), k.number ≤ u.cylCount → o = 0x20 + 8 * (k.number - 1) →
          (u.cyls.get k).tdc = word o ∧ (u.cyls.get k).bank.index = byte (o + 2) ∧ (u.cyls.get k).lead = word (o + 4))
      ∧ (∀ (bk : BankId) (o : Nat), o = 0x60 + 8 * bk.index →
          u.banks.get bk = ⟨byte o, byte (o + 1), word (o + 2)⟩)
      ∧ (∀ (p : Nat) (f : Profile), u.profiles[p]? = some f →
          (∀ o, o = 0x300 + 32 * p + 4 * f.ramps.length →
            byte o = 4 ∧ f.holdUpper = byte (o + 1) ∧ f.holdLower = byte (o + 2) ∧ byte (o + 4) = 0)
          ∧ ∀ j r, f.ramps[j]? = some r → ∀ o, o = 0x300 + 32 * p + 4 * j →
            (byte o = 1 ∧ r = .boostRise (byte (o + 1)) (word (o + 2)))
              ∨ (byte o = 2 ∧ r = .batteryRise (byte (o + 1)) (word (o + 2))) ∨ (byte o = 3 ∧ r = .freewheel (word (o + 2))))
      ∧ 24 ≤ u.n ∧ u.n ≤ 72 ∧ 11520 % u.n = 0 ∧ (u.m = 1 ∨ u.m = 2) ∧ u.wheelOffset < 23040
      ∧ 20 ≤ u.gapRatio ∧ u.gapRatio ≤ 48 ∧ 100000 ≤ u.stallTicks ∧ u.stallTicks ≤ 16000000
      ∧ u.markerLo < 23040 ∧ u.markerHi < 23040 ∧ (u.markerHi + 23040 - u.markerLo) % 23040 < 5760
      ∧ 1 ≤ u.cylCount ∧ u.cylCount ≤ 8 ∧ 1 ≤ u.faultLimit ∧ u.faultLimit ≤ 7 ∧ 8 ≤ u.ringLen ∧ u.ringLen ≤ 64
      ∧ (∀ k : CylId, k.number ≤ u.cylCount → (u.cyls.get k).tdc < 23040 ∧ (u.cyls.get k).lead ≤ 10000
          ∧ (∀ (j : CylId) (x y : Nat), j.number < k.number → x = (u.cyls.get k).tdc → y = (u.cyls.get j).tdc →
              960 ≤ (x + 23040 - y) % 23040 ∧ 960 ≤ (y + 23040 - x) % 23040)
          ∧ ∀ x, x = u.banks.get (u.cyls.get k).bank → x.quenchLevel < x.shortLevel ∧ x.shortLevel ≤ 255
            ∧ 100 ≤ x.quenchMax ∧ x.quenchMax ≤ 20000
            ∧ ∀ f ∈ u.profiles, f.holdLower < f.holdUpper ∧ f.holdUpper < x.shortLevel
              ∧ ∀ r ∈ f.ramps, ∀ level limit, r = .boostRise level limit ∨ r = .batteryRise level limit →
                level < x.shortLevel ∧ 1 ≤ limit)
      ∧ 1 ≤ u.profiles.length ∧ u.profiles.length ≤ 8 ∧ (∀ f ∈ u.profiles, f.ramps.length ≤ 6)
      ∧ ∀ l, u.limp = some l → l.length ≤ 2 ∧ l.Pairwise (fun e e' => e.relAngle ≤ e'.relAngle)
          ∧ (l.filter fun e => decide (e.kind = .main)).length ≤ 1
          ∧ ∀ e ∈ l, e.profile < u.profiles.length ∧ 1 ≤ e.duration ∧ -5760 ≤ e.relAngle ∧ e.relAngle ≤ 5759

/-- R153, R155, R157, R158, R172, R181, R183: LOAD completion. The staging copy becomes the setup copy, every block takes its LOAD
values, the trim set is copied and clamped (or kept, with TRIM_FAULT 0x1000 and PLAN_LOW_AHEAD below RING_LEN), the status block
becomes live and every word of it is written: the slot in force at 0x198, the clamp mask at 0x19A, 0xFFFF at 0x19C, the profile
and cylinder of a service pulse in progress at 0x1B0, the state of each bank at 0x240 + 8·bank, and 0 everywhere else. The run
state becomes READY with RUN_STATE 0x0800. A bank in use by the service pulse runs on. -/
def Obligations.LoadCompletes : Prop :=
  ∀ (s : State) (u : Setup) (cylWord : Word) (shown : Slot → Word → List (Nat × Word)), s.mem.calm → s.ctl.run = .loading →
    loadError (stageAll s.mem s.su.staging) = none → u = setupOf (stageAll s.mem s.su.staging) →
    ((s.noService ∧ cylWord = 0)
      ∨ ∃ bk h f, (s.bank bk).holder = some h ∧ h.job = .service f ∧ f < 8
        ∧ (∀ j, j ≠ bk → (s.bank j).heldByService = false) ∧ cylWord = BitVec.ofNat 16 (h.cyl.number + 256 * f)) →
    (∀ slot mask, shown slot mask =
      [(0x198, if slot = .slot0 then 0 else if slot = .slot1 then 1 else 0xFF), (0x19A, mask), (0x19C, 0xFFFF),
        (0x1B0, cylWord)]
      ++ [0x180, 0x182, 0x184, 0x186, 0x188, 0x18A, 0x18C, 0x190, 0x192, 0x194, 0x196, 0x1A0, 0x1A2, 0x1A4, 0x1B2, 0x1B4,
        0x1B6, 0x1B8].map (fun off => (off, (0 : Word)))
      ++ (List.range 64).map (fun j => (0x1C0 + 2 * j, (0 : Word)))
      ++ BankId.all.flatMap fun bk =>
        [(0x240 + 8 * bk.index, (match (s.bank bk).mode with | .idle => 0 | .active => 1 | .quench => 2 | .settling => 3 : Word)),
          (0x242 + 8 * bk.index, 0), (0x244 + 8 * bk.index, 0)]) →
    ∀ z : State, z = { s with
        ctl := { s.ctl with run := .ready }
        trk := State.reset.trk
        latch := State.reset.latch
        cyls := State.reset.cyls
        arm := ⟨[], []⟩
        banks := s.banks.map fun _ x => { x with conflicts := 0, boostLowCount := 0 }
        faultLimit := u.faultLimit
        sb := ⟨true, 0xFFFF, ⟨cylWord, 0, 0, 0, 0⟩⟩ } →
    (∀ slot raw mask, readTrim s.mem = some (slot, raw) →
      mask = BitVec.ofNat 16 (changedMask raw.fields (clampTrim u.ringLen raw).fields) →
      ∃ y, exec (.loadComplete []) s = .next y ∧ s.mem.Stored (shown slot mask) y.mem
        ∧ y = { z with
          ev := { s.ev with sticky := s.ev.sticky ||| 0x0800 }
          su := ⟨some u, [], clampTrim u.ringLen raw, slot, mask, ⟨0, 0⟩⟩
          mem := y.mem })
    ∧ (readTrim s.mem = none →
      ∃ y, exec (.loadComplete []) s = .next y ∧ s.mem.Stored (shown s.su.slot s.su.clampMask) y.mem
        ∧ y = { z with
          ev := { s.ev with sticky := s.ev.sticky ||| 0x1000 ||| 0x0800 }
          su := ⟨some u, [], { s.su.trim with planLowAhead := min s.su.trim.planLowAhead (u.ringLen - 1) }, s.su.slot,
            s.su.clampMask, ⟨0, 0⟩⟩
          mem := y.mem })

/-- R132, R155 to R158, R51, R171: RUN in READY copies the trim set that the selector names, clamped, or keeps the set in force and
raises TRIM_FAULT (0x1000); the hold counts are limited, the run state becomes RUNNING with RUN_STATE (0x0800), and the next
firing edge sets the next-event entries afresh (R26). The HOLD_COUNT word of a cylinder whose count was lowered shows HOLD_LIMIT;
that of any other is left, which is the model's reading (assumption 27). Every trim copy reads the selector at 0x100, of which 0
names slot 0 at 0x110 and any other value slot 1 at 0x130, and the slot's sixteen words; a parity error in any of them makes it
fail. The table gives each field's offset and size in the slot, its range, and its bit in the clamp mask. -/
def Obligations.RunAccepted : Prop :=
  (∀ (s : State) (arg : Byte) (top : BitVec 4) (z : State) (lowered : Nat → List Nat), s.held = false → s.mem.calm →
    s.ctl.run = .ready →
    (∀ limit, lowered limit = if s.sb.live then
      (CylId.all.filter fun k => limit < (s.cyl k).holdCount).map (fun k => 0x1C6 + 16 * (k.number - 1)) else []) →
    z = { s with
      ctl := { s.ctl.taken (requestWord 2 arg top) .accepted with run := .running }
      latch := { s.latch with entriesUnset := true } } →
    (∀ slot raw x, readTrim s.mem = some (slot, raw) → x = clampTrim s.ringLen raw →
      ∃ m mask, mask = BitVec.ofNat 16 (changedMask raw.fields x.fields) ∧ exec (.run arg top []) s = .next
          { z with
            ev := { s.ev with sticky := s.ev.sticky ||| 0x0800 }
            su := { s.su with trim := x, slot := slot, clampMask := mask }
            cyls := s.cyls.map fun _ c => { c with holdCount := min c.holdCount x.holdLimit }
            mem := m }
        ∧ s.mem.SameOutside ((if s.sb.live then [0x198, 0x19A] else []) ++ lowered x.holdLimit) m
        ∧ (∀ off ∈ lowered x.holdLimit, m.Shows off (BitVec.ofNat 16 x.holdLimit))
        ∧ (s.sb.live = true → m.Shows 0x198 (if slot = .slot0 then 0 else if slot = .slot1 then 1 else 0xFF)
            ∧ m.Shows 0x19A mask))
    ∧ (readTrim s.mem = none →
      ∃ m, exec (.run arg top []) s = .next
          { z with
            ev := { s.ev with sticky := s.ev.sticky ||| 0x1000 ||| 0x0800 }
            cyls := s.cyls.map fun _ c => { c with holdCount := min c.holdCount s.su.trim.holdLimit }
            mem := m }
        ∧ s.mem.SameOutside (lowered s.su.trim.holdLimit) m
        ∧ (s.su.trim.holdLimit ≤ 15 → ∀ off ∈ lowered s.su.trim.holdLimit, m.Shows off (BitVec.ofNat 16 s.su.trim.holdLimit))))
  ∧ ∀ (m : Memory) (base : Nat), base = (if m.readWord 0x100 = 0 then 0x110 else 0x130) →
    (readTrim m = none ↔ m.wordBad 0x100 = true ∨ ∃ i, i < 16 ∧ m.wordBad (base + 2 * i) = true)
    ∧ ∀ slot raw, readTrim m = some (slot, raw) → slot = (if m.readWord 0x100 = 0 then .slot0 else .slot1)
      ∧ ∀ (ringLen mask : Nat) (x : Trim), 8 ≤ ringLen → x = clampTrim ringLen raw → mask = changedMask raw.fields x.fields →
        mask < 2 ^ 14 ∧ ∀ (f : Trim → Nat) (off size lo hi bit : Nat), (f, off, size, lo, hi, bit) ∈
          [(Trim.latchAdvance, 0x00, 2, 960, 5760, 0), (Trim.armWindow, 0x02, 2, 0, 960, 1),
            (Trim.slipPilot, 0x04, 2, 0, 20000, 2), (Trim.slipMain, 0x06, 2, 0, 20000, 3),
            (Trim.slipPost, 0x08, 2, 0, 20000, 4), (Trim.driveMax, 0x0A, 2, 1000, 60000, 5),
            (Trim.minDwell, 0x0C, 2, 50, 5000, 6), (Trim.rechargeGuard, 0x0E, 2, 0, 20000, 7),
            (Trim.overspeedPeriod, 0x10, 2, 0, 65535, 8), (Trim.overspeedHyst, 0x12, 2, 0, 4095, 9),
            (Trim.holdLimit, 0x16, 1, 0, 15, 10), (Trim.planLowAhead, 0x17, 1, 1, ringLen - 1, 11),
            (Trim.predictMode, 0x18, 1, 0, 1, 12), (Trim.serviceDuration, 0x14, 2, 100, 20000, 13)] →
        f raw = (if size = 2 then (m.readWord (base + off)).toNat else (m.readByte (base + off)).toNat)
        ∧ f x = max lo (min hi (f raw)) ∧ mask.testBit bit = decide (f x ≠ f raw)

/-- R133, R134, R135, R137: STOP with mode CYCLE (2) or EVENT (1), and a CUT (0) that finds nothing to do. In READY nothing else
changes. In RUNNING the run state becomes STOPPING with RUN_STATE (0x0800), under CYCLE only while firing is possible and under
EVENT otherwise; with an empty event table mode EVENT ends in READY at once. In STOPPING the mode only grows stronger. -/
def Obligations.StopModes : Prop :=
  ∀ (s z : State) (arg : Byte) (top : BitVec 4) (t : Time) (sense : Four BankSense) (fires : Bool) (drained : Prop),
    s.held = false →
    (fires = true ↔ s.trk.sync = .phased ∨ (s.trk.sync = .crankSync ∧ s.trk.phaseAssumed = true)) →
    (drained ↔ ∀ k, (s.cyl k).event = none) →
    z = { s with
      now := t, pins := { s.pins with sense := sense }, ctl := s.ctl.taken (requestWord 3 arg top) .accepted } →
    (s.ctl.run = .ready → arg = 1 ∨ arg = 2 ∨ (arg = 0 ∧ s.noService) → exec (.stop arg top t sense []) s = .next z)
    ∧ (s.ctl.run = .running → arg = 2 → fires = true →
      exec (.stop arg top t sense []) s = .next
        { z with
          ctl := { z.ctl with run := .stopping, stopMode := .cycle }
          ev := { s.ev with sticky := s.ev.sticky ||| 0x0800 } })
    ∧ (s.ctl.run = .running → arg = 1 ∨ (arg = 2 ∧ fires = false) →
      (¬ drained → exec (.stop arg top t sense []) s = .next
        { z with
          ctl := { z.ctl with run := .stopping, stopMode := .event }
          ev := { s.ev with sticky := s.ev.sticky ||| 0x0800 } })
      ∧ (drained → exec (.stop arg top t sense []) s = .next
        { z with
          ctl := { z.ctl with run := .ready, stopMode := .none }
          ev := { s.ev with sticky := s.ev.sticky ||| 0x0800 } }))
    ∧ (s.ctl.run = .stopping →
      (s.ctl.stopMode = .cycle → arg = 1 →
        (¬ drained → exec (.stop arg top t sense []) s = .next { z with ctl := { z.ctl with stopMode := .event } })
        ∧ (drained → exec (.stop arg top t sense []) s = .next
          { z with
            ctl := { z.ctl with run := .ready, stopMode := .none }
            ev := { s.ev with sticky := s.ev.sticky ||| 0x0800 } }))
      ∧ ((s.ctl.stopMode = .cycle ∧ arg = 2) ∨ (s.ctl.stopMode = .event ∧ (arg = 1 ∨ arg = 2))
          ∨ (s.ctl.stopMode = .cut ∧ arg.toNat ≤ 2) →
        exec (.stop arg top t sense []) s = .next z))

/-- R95, R98, R100, R124, R133, R136: STOP with mode CUT (0) in RUNNING, or in STOPPING under a weaker mode. Every pending, armed and
waiting pulse is RESOLVED with STOP_DROP. An ACTIVE holder that is played ends TRUNCATED and goes to QUENCH, an ACTIVE dry one ends
TRUNCATED and releases its bank, a bank in QUENCH keeps its quench, and events whose last pulse that was complete. CONFLICT (bit 9)
is not raised and no conflict is counted. The part is in READY when no event is left, and otherwise in STOPPING under CUT. In READY
the run state stays, and a service pulse in play ends TRUNCATED and goes to QUENCH. -/
def Obligations.StopCut : Prop :=
  (∀ (s : State) (top : BitVec 4) (t : Time) (sense : Four BankSense), s.held = false → s.banksOk →
    (s.ctl.run = .running ∨ (s.ctl.run = .stopping ∧ (s.ctl.stopMode = .cycle ∨ s.ctl.stopMode = .event))) →
    (∀ bk h, (s.bank bk).mode = .active → (s.bank bk).holder = some h → h.dry = false → (s.bank bk).channel ≠ none) →
    ∃ y, exec (.stop 0 top t sense []) s = .next y ∧ y.now = t
      ∧ y.arm.pendingList = [] ∧ y.arm.armedSet = [] ∧ (∀ bk, (y.bank bk).waiting = [])
      ∧ (∀ k, (s.cyl k).event = none → (y.cyl k).event = none)
      ∧ (∀ k e, (s.cyl k).event = some e → (∀ bk h, (s.bank bk).holder = some h → (s.bank bk).mode = .active → h.cyl ≠ k) →
        y.judged k (e.dropped t .stopDrop))
      ∧ (∀ bk h seq i kind d e, (s.bank bk).holder = some h → (s.bank bk).mode = .active → h.job = .event seq i kind d →
        (s.cyl h.cyl).event = some e → e.seq = seq → (∃ q ∈ e.pulses, q.plan.index = i) →
        (∀ j h', (s.bank j).holder = some h' → h'.cyl = h.cyl → j = bk) →
        (∀ p, d = false → Playing s bk p (sense.get bk) →
          (y.bank bk).mode = .quench ∧ (y.bank bk).holder = some h ∧ (y.bank bk).channel = some (p.ended .truncated t)
            ∧ (y.cyl h.cyl).faults = 0
            ∧ (y.cyl h.cyl).event = some ((e.dropped t .stopDrop).ended i .quench
              ⟨.truncated, Time.since t p.grantedAt, p.peak.getD 0, p.boostLow⟩))
        ∧ (d = true → (y.bank bk).mode = .settling ∧ (y.bank bk).holder = none ∧ (y.bank bk).releaseAt = some t
          ∧ y.judged h.cyl ((e.dropped t .stopDrop).ended i .resolved ⟨.truncated, Time.since t h.grantedAt, 0, false⟩)))
      ∧ (∀ bk, (y.bank bk).mode ≠ .active ∧ (y.bank bk).conflicts = (s.bank bk).conflicts
          ∧ ((s.bank bk).mode = .quench → (y.bank bk).mode = .quench ∧ (y.bank bk).holder = (s.bank bk).holder
            ∧ (y.bank bk).channel = (s.bank bk).channel))
      ∧ y.ev.sticky.getLsbD 9 = s.ev.sticky.getLsbD 9
      ∧ ((∀ k, (y.cyl k).event = none) → y.ctl.run = .ready ∧ y.ctl.stopMode = .none ∧ y.ev.sticky.getLsbD 11 = true)
      ∧ ((∃ k, (y.cyl k).event ≠ none) → y.ctl.run = .stopping ∧ y.ctl.stopMode = .cut))
  ∧ ∀ (s : State) (top : BitVec 4) (t : Time) (sense : Four BankSense) (bk : BankId) (p : Player) (h : Holder) (f : Nat),
    s.held = false → s.ctl.run = .ready → Playing s bk p (sense.get bk) → (s.bank bk).holder = some h →
    (s.bank bk).mode = .active → h.job = .service f → p.job = .service f →
    ∃ y, exec (.stop 0 top t sense []) s = .next y ∧ y.now = t
      ∧ y.ctl = s.ctl.taken (requestWord 3 0 top) .accepted
      ∧ (y.bank bk).mode = .quench ∧ (y.bank bk).holder = some h ∧ (y.bank bk).channel = some (p.ended .truncated t)
      ∧ (y.cyl p.cyl).faults = 0

/-- R122, R128, R129, R140 to R142: INHIBIT and RELEASE are accepted in READY, RUNNING and STOPPING, and PARITY_SENSE everywhere
but in LOADING. Each changes its own item and nothing else; RELEASE writes the cylinder's STATE and CONSEC_FAULTS. Any request
outside its run states, with an argument that fails its check, or with a code that names none is refused: the word is stored,
the result is REFUSED, and nothing else changes. -/
def Obligations.SwitchesAndRefusals : Prop :=
  (∀ (s : State) (arg : Byte) (top : BitVec 4), s.held = false → s.ctl.run ≠ .loading → arg.toNat ≤ 1 →
    (s.ctl.run ≠ .stopped → exec (.inhibit arg top) s = .next
      { s with ctl := { s.ctl.taken (requestWord 4 arg top) .accepted with inhibit := decide (arg = 1) } })
    ∧ exec (.paritySense arg top) s = .next
      { s with ctl := { s.ctl.taken (requestWord 8 arg top) .accepted with evenParity := decide (arg = 1) } })
  ∧ (∀ (u : Setup) (s : State) (arg : Byte) (top : BitVec 4) (k : CylId), s.held = false → s.ctl.run ≠ .loading →
    s.ctl.run ≠ .stopped → s.su.setup = some u → arg.toNat = k.number → k.number ≤ u.cylCount →
    ∃ m, exec (.release arg top []) s = .next
        { s with
          ctl := s.ctl.taken (requestWord 5 arg top) .accepted
          cyls := s.cyls.set k { s.cyl k with quarantined := false, faults := 0 }
          mem := m }
      ∧ Memory.Shown s.sb.live [(0x1C0 + 16 * (k.number - 1), 0), (0x1C8 + 16 * (k.number - 1), 0)] s.mem m)
  ∧ ∀ (s : State) (arg : Byte) (top code : BitVec 4) (t : Time) (sense : Four BankSense) (one : BankSense) (r : Word → State),
    s.held = false → (∀ w, r w = { s with ctl := s.ctl.taken w .refused }) →
    (s.ctl.run ≠ .stopped ∧ s.ctl.run ≠ .ready → exec (.load arg top []) s = .next (r (requestWord 1 arg top)))
    ∧ (s.ctl.run ≠ .ready → exec (.run arg top []) s = .next (r (requestWord 2 arg top)))
    ∧ (s.ctl.run = .stopped ∨ s.ctl.run = .loading ∨ 2 < arg.toNat →
      exec (.stop arg top t sense []) s = .next
        { r (requestWord 3 arg top) with now := t, pins := { s.pins with sense := sense } })
    ∧ (s.ctl.run = .stopped ∨ s.ctl.run = .loading ∨ 1 < arg.toNat →
      exec (.inhibit arg top) s = .next (r (requestWord 4 arg top)))
    ∧ (s.ctl.run = .stopped ∨ s.ctl.run = .loading ∨ arg = 0 ∨ 8 < arg.toNat
        ∨ (∀ u, s.su.setup = some u → u.cylCount < arg.toNat) →
      exec (.release arg top []) s = .next (r (requestWord 5 arg top)))
    ∧ (s.ctl.run ≠ .ready ∨ s.trk.sync ≠ .noSignal ∨ ¬ s.noService ∨ 128 ≤ arg.toNat ∨ arg.toNat % 16 = 0
        ∨ 8 < arg.toNat % 16
        ∨ (∀ u, s.su.setup = some u → u.cylCount < arg.toNat % 16 ∨ u.profiles.length ≤ arg.toNat / 16 % 8)
        ∨ (∀ k : CylId, k.number = arg.toNat % 16 →
          (s.cyl k).quarantined = true ∨ (s.bank (s.bankOf k)).mode ≠ .idle) →
      exec (.service arg top t one []) s = .next { r (requestWord 6 arg top) with now := t })
    ∧ (s.ctl.run = .loading ∨ 1 < arg.toNat → exec (.paritySense arg top) s = .next (r (requestWord 8 arg top)))
    ∧ (code = 0 ∨ 9 ≤ code.toNat → exec (.undefinedRequest code arg top) s = .next (r (requestWord code arg top)))

/-! ## The bus port and the resets -/

/-- R145, R161, R173, R175, R187, R188: while the part is held in reset no write is taken: no request, no mask, no memory word; it
drives no gate, presents three codes of 0 on every threshold link, and asserts no interrupt. While RESET_N is asserted a read of
EVENT or of memory drives 0x0000 and clears nothing. The model's choices in it: STOP and SERVICE still carry time and sense lines
(assumption 21), and reads drive 0x0000 where a power-on reset and RESET_N overlap (assumption 20). -/
def Obligations.HeldPart : Prop :=
  ∀ (s : State), s.held = true →
    (∀ c w, c.requestWord? = some w → c.during = [] → (∀ arg top t x, c ≠ .stop arg top t x []) →
      (∀ arg top t x, c ≠ .service arg top t x []) → exec c s = .next s)
    ∧ (∀ arg top t x, exec (.stop arg top t x []) s = .next { s with now := t, pins := { s.pins with sense := x } })
    ∧ (∀ arg top t x, exec (.service arg top t x []) s = .next { s with now := t })
    ∧ (∀ m, exec (.eventMaskWrite m) s = .next s) ∧ (∀ addr data, exec (.hostMemoryWrite addr data) s = .next s)
    ∧ (s.pins.resetN = true → exec .eventRead s = .next { s with pins := { s.pins with busData := 0 } }
      ∧ (∀ addr, exec (.hostMemoryRead addr) s = .next { s with pins := { s.pins with busData := 0 } })
      ∧ ∀ reg, BusAccess.returned s (.registerRead reg) = some 0)
    ∧ (s.pins.resetN = false → ∀ a : BusAccess, a.returned s = none ∧ ∀ t x l, a.command s t x l = none)
    ∧ (s.heldOk → s.quietPins ∧ s.irq = false)

/-- R170: STATUS is assembled at each read from the items it shows, each in its bits: the run state in bits 2..0, the sync state in
6..4, PHASE_ASSUMED in 7, INHIBIT in 8, the last request result in 10..9 and the reset cause in 12..11; bits 3 and 15..13 are 0. -/
def Obligations.StatusRegister : Prop :=
  ∀ (s : State), s.held = false →
    ∃ w : Word, BusAccess.returned s (.registerRead 1) = some w
      ∧ (w.extractLsb' 0 3).toNat = (match s.ctl.run with
        | .stopped => 0 | .loading => 1 | .ready => 2 | .running => 3 | .stopping => 4)
      ∧ w.getLsbD 3 = false
      ∧ (w.extractLsb' 4 3).toNat = (match s.trk.sync with
        | .noSignal => 0 | .gapSearch => 1 | .gapCheck => 2 | .crankSync => 3 | .phased => 4)
      ∧ w.getLsbD 7 = s.trk.phaseAssumed ∧ w.getLsbD 8 = s.ctl.inhibit
      ∧ (w.extractLsb' 9 2).toNat = (match s.ctl.lastResult with | .none => 0 | .accepted => 1 | .refused => 2)
      ∧ (w.extractLsb' 11 2).toNat = (match s.ctl.resetCause with | .power => 1 | .pin => 2 | .soft => 3)
      ∧ w.extractLsb' 13 3 = 0

/-- R128, R161, R169, R176 to R180: a read of EVENT returns raw AND mask and clears the sticky flags it returned; the level flags PLAN_LOW
(0x0002) and OVERSPEED (0x0400) follow their conditions. A write of EVENT_MASK stores the mask, a write of any other register but
REQUEST changes nothing, and IRQ is asserted exactly while raw AND mask is nonzero. Reads of the other registers return IDENT
0x8401, REQUEST, EVENT_RAW, EVENT_MASK, and 0x0000 for words 6 and 7; that they have no command of their own is the table's
(assumption 24). A bus cycle is an access where chip select and exactly one strobe are asserted: of the register word that the low
three address lines name with RS high, of the memory word at the address with RS low; each access is its row's command. A written
REQUEST word is always a request: the one that its code, bits 3..0, names, with the argument in bits 11..4, and for the codes
without one an undefined request. SERVICE is shown the sense stage of the bank of the cylinder it names. -/
def Obligations.Registers : Prop :=
  ∀ (s : State) (raw v : Word),
    raw = ((s.ev.sticky &&& 0xFBFD) ||| (if s.latch.planLow then 0x0002 else 0)
      ||| (if s.trk.overspeedCut then 0x0400 else 0)) →
    v = raw &&& s.ev.mask →
    (s.held = false →
      exec .eventRead s = .next
        { s with
          pins := { s.pins with busData := v }
          ev := { s.ev with sticky := s.ev.sticky &&& ~~~v } }
      ∧ (∀ m, exec (.eventMaskWrite m) s = .next { s with ev := { s.ev with mask := m } })
      ∧ BusAccess.returned s (.registerRead 0) = some 0x8401
      ∧ BusAccess.returned s (.registerRead 2) = some s.ctl.request
      ∧ BusAccess.returned s (.registerRead 3) = some v
      ∧ BusAccess.returned s (.registerRead 4) = some raw
      ∧ BusAccess.returned s (.registerRead 5) = some s.ev.mask
      ∧ BusAccess.returned s (.registerRead 6) = some 0 ∧ BusAccess.returned s (.registerRead 7) = some 0)
    ∧ (s.irq = true ↔ v ≠ 0)
    ∧ ∀ reg data, exec (.registerWriteIgnored reg data) s = .next s
    ∧ (∀ c : BusCycle,
      (c.cs = false ∨ c.rd = c.wr → c.access = .noAccess)
      ∧ (c.cs = true → c.rd = true → c.wr = false →
        c.access = if c.rs then .registerRead (c.addr.extractLsb' 0 3) else .memoryRead c.addr)
      ∧ (c.cs = true → c.rd = false → c.wr = true →
        c.access = if c.rs then .registerWrite (c.addr.extractLsb' 0 3) c.data else .memoryWrite c.addr c.data))
    ∧ ∀ (t : Time) (sense : Four BankSense) (l : List Arrival), s.held = false →
      BusAccess.noAccess.command s t sense l = none
      ∧ (∀ addr, (BusAccess.memoryRead addr).command s t sense l = some (.hostMemoryRead addr))
      ∧ (∀ addr data, (BusAccess.memoryWrite addr data).command s t sense l = some (.hostMemoryWrite addr data))
      ∧ (∀ reg, (BusAccess.registerRead reg).command s t sense l = if reg = 3 then some .eventRead else none)
      ∧ (∀ reg data, reg ≠ 2 → (BusAccess.registerWrite reg data).command s t sense l =
        some (if reg = 5 then .eventMaskWrite data else .registerWriteIgnored reg data))
      ∧ ∀ (data : Word) (arg : Byte) (top code : BitVec 4), data = (top ++ arg) ++ code →
        ∃ c : Instr, (BusAccess.registerWrite 2 data).command s t sense l = some c ∧ c.requestWord? = some data
        ∧ (code = 1 → c = .load arg top l) ∧ (code = 2 → c = .run arg top l) ∧ (code = 3 → c = .stop arg top t sense l)
        ∧ (code = 4 → c = .inhibit arg top) ∧ (code = 5 → c = .release arg top l)
        ∧ (code = 6 → ∃ x, c = .service arg top t x l
          ∧ ∀ k : CylId, k.number = arg.toNat % 16 → x = sense.get (s.bankOf k))
        ∧ (code = 7 → c = .softReset arg top) ∧ (code = 8 → c = .paritySense arg top)
        ∧ (code = 0 ∨ 9 ≤ code.toNat → c = .undefinedRequest code arg top)

/-- R162, R166, R168: a host write stores its word with the parity of the sense in force and leaves every other byte; from offset
0x3000 on it is discarded. A host read drives the word as stored; a parity error raises MEM_PARITY (0x2000) and puts the bad
byte's offset, the even one of two, into LAST_PARITY_ADDR. Only the reading of a LOAD in progress moves besides (R147). -/
def Obligations.HostAccess : Prop :=
  ∀ (s : State) (addr : BitVec 13) (off : Nat), s.held = false → off = 2 * addr.toNat →
    (∀ data, ∃ y, exec (.hostMemoryWrite addr data) s = .next y
      ∧ (off < 0x3000 → s.mem.SameOutside [off] y.mem ∧ y.mem.readWord off = data
          ∧ y.mem.byteBad off = s.ctl.evenParity ∧ y.mem.byteBad (off + 1) = s.ctl.evenParity)
      ∧ (0x3000 ≤ off → y.mem = s.mem)
      ∧ y = { s with mem := y.mem, su := { s.su with staging := y.su.staging }, freeCount := y.freeCount }
      ∧ (s.ctl.run ≠ .loading → y = { s with mem := y.mem }))
    ∧ (s.mem.wordBad off = false →
      exec (.hostMemoryRead addr) s = .next { s with pins := { s.pins with busData := s.mem.readWord off } })
    ∧ (s.mem.wordBad off = true →
      ∃ m w, w = BitVec.ofNat 16 (if s.mem.byteBad off then off else off + 1)
        ∧ exec (.hostMemoryRead addr) s = .next
          { s with
            pins := { s.pins with busData := s.mem.readWord off }
            ev := { s.ev with sticky := s.ev.sticky ||| 0x2000 }
            sb := { s.sb with lastParityAddr := w }
            mem := m }
        ∧ Memory.Shown s.sb.live [(0x19C, w)] s.mem m)
    ∧ (0x3000 ≤ off → s.mem.readWord off = 0 ∧ s.mem.wordBad off = false)

/-- R143, R144, R145, R173, R189: every reset puts every block at its reset values; the memory is kept but by a power-on reset,
which leaves it undefined, and the tick count but by a power-on reset, at whose end it starts from 0. The cause is SOFT, POWER,
or for RESET_N PIN, unless the part was held in reset before. The model's choices in it: the values at reset that no rule gives
(assumption 18), the tick count at 0 also where a power-on reset begins and the cause kept where resets overlap (assumption 20),
and the count of power-on resets by which the undefined memory is named (assumption 8). -/
def Obligations.Resets : Prop :=
  ∀ (s : State) (z : ResetCause → State),
    (∀ cause, z cause = { State.reset with
      pending := s.pending, now := s.now, pins := s.pins, ctl := { State.reset.ctl with resetCause := cause }
      mem := s.mem, freeCount := s.freeCount }) →
    (∀ arg top, s.held = false → exec (.softReset arg top) s = .next (z .soft))
    ∧ exec .powerOnReset s = .next
      { z .power with now := 0, pins := { s.pins with powerOn := true }, mem := ⟨s.mem.epoch + 1, [], [], none⟩ }
    ∧ (s.held = false → exec .pinReset s = .next { z .pin with pins := { s.pins with resetN := true } })
    ∧ (s.held = true → exec .pinReset s = .next { z s.ctl.resetCause with pins := { s.pins with resetN := true } })
    ∧ (s.pins.powerOn = true → exec .powerOnResetEnd s = .next { s with now := 0, pins := { s.pins with powerOn := false } })
    ∧ (s.pins.powerOn = false → exec .powerOnResetEnd s = .next s)
    ∧ exec .pinResetRelease s = .next { s with pins := { s.pins with resetN := false } }
end

