-- ==== Sys2Proof/Laws/State.lean ====
section
/-! SUPPORT. One lemma per field per update of State, and the reading of the two fixed-size tables after an update. -/

namespace Sys2Proof

variable {α : Type}

@[simp] theorem Four.get_set_same (t : Four α) (i : BankId) (x : α) : (t.set i x).get i = x := by cases i <;> rfl

theorem Four.get_set_ne (t : Four α) {i j : BankId} (x : α) (h : j ≠ i) : (t.set i x).get j = t.get j := by
  cases i <;> cases j <;> first | rfl | exact absurd rfl h

@[simp] theorem Four.set_get (t : Four α) (i : BankId) : t.set i (t.get i) = t := by cases i <;> rfl

@[simp] theorem Four.set_set (t : Four α) (i : BankId) (x y : α) : (t.set i x).set i y = t.set i y := by cases i <;> rfl

@[simp] theorem Four.get_fill (x : α) (i : BankId) : (Four.fill x).get i = x := by cases i <;> rfl

@[simp] theorem Four.get_map {β : Type} (f : BankId → α → β) (t : Four α) (i : BankId) : (t.map f).get i = f i (t.get i) := by
  cases i <;> rfl

@[simp] theorem Eight.get_set_same (t : Eight α) (i : CylId) (x : α) : (t.set i x).get i = x := by cases i <;> rfl

theorem Eight.get_set_ne (t : Eight α) {i j : CylId} (x : α) (h : j ≠ i) : (t.set i x).get j = t.get j := by
  cases i <;> cases j <;> first | rfl | exact absurd rfl h

@[simp] theorem Eight.set_get (t : Eight α) (i : CylId) : t.set i (t.get i) = t := by cases i <;> rfl

@[simp] theorem Eight.set_set (t : Eight α) (i : CylId) (x y : α) : (t.set i x).set i y = t.set i y := by cases i <;> rfl

@[simp] theorem Eight.get_fill (x : α) (i : CylId) : (Eight.fill x).get i = x := by cases i <;> rfl

@[simp] theorem Eight.get_map {β : Type} (f : CylId → α → β) (t : Eight α) (i : CylId) : (t.map f).get i = f i (t.get i) := by
  cases i <;> rfl

/-- Two tables that agree at every bank are equal. -/
theorem Four.ext_get {t u : Four α} (h : ∀ i, t.get i = u.get i) : t = u := by
  obtain ⟨a, b, c, d⟩ := t
  obtain ⟨a', b', c', d'⟩ := u
  have := h .a; have := h .b; have := h .c; have := h .d
  simp_all [Four.get]

/-- Two tables that agree at every cylinder are equal. -/
theorem Eight.ext_get {t u : Eight α} (h : ∀ i, t.get i = u.get i) : t = u := by
  obtain ⟨a, b, c, d, e, f, g, i⟩ := t
  obtain ⟨a', b', c', d', e', f', g', i'⟩ := u
  have := h .c1; have := h .c2; have := h .c3; have := h .c4; have := h .c5; have := h .c6; have := h .c7; have := h .c8
  simp_all [Eight.get]

end Sys2Proof

namespace Sys2Proof.Machine

variable (s : State)

@[simp] theorem State.setPending_pending (x : List Instr) : (s.setPending x).pending = x := rfl
@[simp] theorem State.setPending_now (x : List Instr) : (s.setPending x).now = s.now := rfl
@[simp] theorem State.setPending_pins (x : List Instr) : (s.setPending x).pins = s.pins := rfl
@[simp] theorem State.setPending_ctl (x : List Instr) : (s.setPending x).ctl = s.ctl := rfl
@[simp] theorem State.setPending_ev (x : List Instr) : (s.setPending x).ev = s.ev := rfl
@[simp] theorem State.setPending_su (x : List Instr) : (s.setPending x).su = s.su := rfl
@[simp] theorem State.setPending_trk (x : List Instr) : (s.setPending x).trk = s.trk := rfl
@[simp] theorem State.setPending_latch (x : List Instr) : (s.setPending x).latch = s.latch := rfl
@[simp] theorem State.setPending_cyls (x : List Instr) : (s.setPending x).cyls = s.cyls := rfl
@[simp] theorem State.setPending_arm (x : List Instr) : (s.setPending x).arm = s.arm := rfl
@[simp] theorem State.setPending_banks (x : List Instr) : (s.setPending x).banks = s.banks := rfl
@[simp] theorem State.setPending_faultLimit (x : List Instr) : (s.setPending x).faultLimit = s.faultLimit := rfl
@[simp] theorem State.setPending_sb (x : List Instr) : (s.setPending x).sb = s.sb := rfl
@[simp] theorem State.setPending_mem (x : List Instr) : (s.setPending x).mem = s.mem := rfl
@[simp] theorem State.setPending_freeCount (x : List Instr) : (s.setPending x).freeCount = s.freeCount := rfl

@[simp] theorem State.setNow_pending (x : Time) : (s.setNow x).pending = s.pending := rfl
@[simp] theorem State.setNow_now (x : Time) : (s.setNow x).now = x := rfl
@[simp] theorem State.setNow_pins (x : Time) : (s.setNow x).pins = s.pins := rfl
@[simp] theorem State.setNow_ctl (x : Time) : (s.setNow x).ctl = s.ctl := rfl
@[simp] theorem State.setNow_ev (x : Time) : (s.setNow x).ev = s.ev := rfl
@[simp] theorem State.setNow_su (x : Time) : (s.setNow x).su = s.su := rfl
@[simp] theorem State.setNow_trk (x : Time) : (s.setNow x).trk = s.trk := rfl
@[simp] theorem State.setNow_latch (x : Time) : (s.setNow x).latch = s.latch := rfl
@[simp] theorem State.setNow_cyls (x : Time) : (s.setNow x).cyls = s.cyls := rfl
@[simp] theorem State.setNow_arm (x : Time) : (s.setNow x).arm = s.arm := rfl
@[simp] theorem State.setNow_banks (x : Time) : (s.setNow x).banks = s.banks := rfl
@[simp] theorem State.setNow_faultLimit (x : Time) : (s.setNow x).faultLimit = s.faultLimit := rfl
@[simp] theorem State.setNow_sb (x : Time) : (s.setNow x).sb = s.sb := rfl
@[simp] theorem State.setNow_mem (x : Time) : (s.setNow x).mem = s.mem := rfl
@[simp] theorem State.setNow_freeCount (x : Time) : (s.setNow x).freeCount = s.freeCount := rfl

@[simp] theorem State.setPins_pending (x : Pins) : (s.setPins x).pending = s.pending := rfl
@[simp] theorem State.setPins_now (x : Pins) : (s.setPins x).now = s.now := rfl
@[simp] theorem State.setPins_pins (x : Pins) : (s.setPins x).pins = x := rfl
@[simp] theorem State.setPins_ctl (x : Pins) : (s.setPins x).ctl = s.ctl := rfl
@[simp] theorem State.setPins_ev (x : Pins) : (s.setPins x).ev = s.ev := rfl
@[simp] theorem State.setPins_su (x : Pins) : (s.setPins x).su = s.su := rfl
@[simp] theorem State.setPins_trk (x : Pins) : (s.setPins x).trk = s.trk := rfl
@[simp] theorem State.setPins_latch (x : Pins) : (s.setPins x).latch = s.latch := rfl
@[simp] theorem State.setPins_cyls (x : Pins) : (s.setPins x).cyls = s.cyls := rfl
@[simp] theorem State.setPins_arm (x : Pins) : (s.setPins x).arm = s.arm := rfl
@[simp] theorem State.setPins_banks (x : Pins) : (s.setPins x).banks = s.banks := rfl
@[simp] theorem State.setPins_faultLimit (x : Pins) : (s.setPins x).faultLimit = s.faultLimit := rfl
@[simp] theorem State.setPins_sb (x : Pins) : (s.setPins x).sb = s.sb := rfl
@[simp] theorem State.setPins_mem (x : Pins) : (s.setPins x).mem = s.mem := rfl
@[simp] theorem State.setPins_freeCount (x : Pins) : (s.setPins x).freeCount = s.freeCount := rfl

@[simp] theorem State.setCtl_pending (x : Control) : (s.setCtl x).pending = s.pending := rfl
@[simp] theorem State.setCtl_now (x : Control) : (s.setCtl x).now = s.now := rfl
@[simp] theorem State.setCtl_pins (x : Control) : (s.setCtl x).pins = s.pins := rfl
@[simp] theorem State.setCtl_ctl (x : Control) : (s.setCtl x).ctl = x := rfl
@[simp] theorem State.setCtl_ev (x : Control) : (s.setCtl x).ev = s.ev := rfl
@[simp] theorem State.setCtl_su (x : Control) : (s.setCtl x).su = s.su := rfl
@[simp] theorem State.setCtl_trk (x : Control) : (s.setCtl x).trk = s.trk := rfl
@[simp] theorem State.setCtl_latch (x : Control) : (s.setCtl x).latch = s.latch := rfl
@[simp] theorem State.setCtl_cyls (x : Control) : (s.setCtl x).cyls = s.cyls := rfl
@[simp] theorem State.setCtl_arm (x : Control) : (s.setCtl x).arm = s.arm := rfl
@[simp] theorem State.setCtl_banks (x : Control) : (s.setCtl x).banks = s.banks := rfl
@[simp] theorem State.setCtl_faultLimit (x : Control) : (s.setCtl x).faultLimit = s.faultLimit := rfl
@[simp] theorem State.setCtl_sb (x : Control) : (s.setCtl x).sb = s.sb := rfl
@[simp] theorem State.setCtl_mem (x : Control) : (s.setCtl x).mem = s.mem := rfl
@[simp] theorem State.setCtl_freeCount (x : Control) : (s.setCtl x).freeCount = s.freeCount := rfl

@[simp] theorem State.setEv_pending (x : EventUnit) : (s.setEv x).pending = s.pending := rfl
@[simp] theorem State.setEv_now (x : EventUnit) : (s.setEv x).now = s.now := rfl
@[simp] theorem State.setEv_pins (x : EventUnit) : (s.setEv x).pins = s.pins := rfl
@[simp] theorem State.setEv_ctl (x : EventUnit) : (s.setEv x).ctl = s.ctl := rfl
@[simp] theorem State.setEv_ev (x : EventUnit) : (s.setEv x).ev = x := rfl
@[simp] theorem State.setEv_su (x : EventUnit) : (s.setEv x).su = s.su := rfl
@[simp] theorem State.setEv_trk (x : EventUnit) : (s.setEv x).trk = s.trk := rfl
@[simp] theorem State.setEv_latch (x : EventUnit) : (s.setEv x).latch = s.latch := rfl
@[simp] theorem State.setEv_cyls (x : EventUnit) : (s.setEv x).cyls = s.cyls := rfl
@[simp] theorem State.setEv_arm (x : EventUnit) : (s.setEv x).arm = s.arm := rfl
@[simp] theorem State.setEv_banks (x : EventUnit) : (s.setEv x).banks = s.banks := rfl
@[simp] theorem State.setEv_faultLimit (x : EventUnit) : (s.setEv x).faultLimit = s.faultLimit := rfl
@[simp] theorem State.setEv_sb (x : EventUnit) : (s.setEv x).sb = s.sb := rfl
@[simp] theorem State.setEv_mem (x : EventUnit) : (s.setEv x).mem = s.mem := rfl
@[simp] theorem State.setEv_freeCount (x : EventUnit) : (s.setEv x).freeCount = s.freeCount := rfl

@[simp] theorem State.setSu_pending (x : SetupUnit) : (s.setSu x).pending = s.pending := rfl
@[simp] theorem State.setSu_now (x : SetupUnit) : (s.setSu x).now = s.now := rfl
@[simp] theorem State.setSu_pins (x : SetupUnit) : (s.setSu x).pins = s.pins := rfl
@[simp] theorem State.setSu_ctl (x : SetupUnit) : (s.setSu x).ctl = s.ctl := rfl
@[simp] theorem State.setSu_ev (x : SetupUnit) : (s.setSu x).ev = s.ev := rfl
@[simp] theorem State.setSu_su (x : SetupUnit) : (s.setSu x).su = x := rfl
@[simp] theorem State.setSu_trk (x : SetupUnit) : (s.setSu x).trk = s.trk := rfl
@[simp] theorem State.setSu_latch (x : SetupUnit) : (s.setSu x).latch = s.latch := rfl
@[simp] theorem State.setSu_cyls (x : SetupUnit) : (s.setSu x).cyls = s.cyls := rfl
@[simp] theorem State.setSu_arm (x : SetupUnit) : (s.setSu x).arm = s.arm := rfl
@[simp] theorem State.setSu_banks (x : SetupUnit) : (s.setSu x).banks = s.banks := rfl
@[simp] theorem State.setSu_faultLimit (x : SetupUnit) : (s.setSu x).faultLimit = s.faultLimit := rfl
@[simp] theorem State.setSu_sb (x : SetupUnit) : (s.setSu x).sb = s.sb := rfl
@[simp] theorem State.setSu_mem (x : SetupUnit) : (s.setSu x).mem = s.mem := rfl
@[simp] theorem State.setSu_freeCount (x : SetupUnit) : (s.setSu x).freeCount = s.freeCount := rfl

@[simp] theorem State.setTrk_pending (x : Tracker) : (s.setTrk x).pending = s.pending := rfl
@[simp] theorem State.setTrk_now (x : Tracker) : (s.setTrk x).now = s.now := rfl
@[simp] theorem State.setTrk_pins (x : Tracker) : (s.setTrk x).pins = s.pins := rfl
@[simp] theorem State.setTrk_ctl (x : Tracker) : (s.setTrk x).ctl = s.ctl := rfl
@[simp] theorem State.setTrk_ev (x : Tracker) : (s.setTrk x).ev = s.ev := rfl
@[simp] theorem State.setTrk_su (x : Tracker) : (s.setTrk x).su = s.su := rfl
@[simp] theorem State.setTrk_trk (x : Tracker) : (s.setTrk x).trk = x := rfl
@[simp] theorem State.setTrk_latch (x : Tracker) : (s.setTrk x).latch = s.latch := rfl
@[simp] theorem State.setTrk_cyls (x : Tracker) : (s.setTrk x).cyls = s.cyls := rfl
@[simp] theorem State.setTrk_arm (x : Tracker) : (s.setTrk x).arm = s.arm := rfl
@[simp] theorem State.setTrk_banks (x : Tracker) : (s.setTrk x).banks = s.banks := rfl
@[simp] theorem State.setTrk_faultLimit (x : Tracker) : (s.setTrk x).faultLimit = s.faultLimit := rfl
@[simp] theorem State.setTrk_sb (x : Tracker) : (s.setTrk x).sb = s.sb := rfl
@[simp] theorem State.setTrk_mem (x : Tracker) : (s.setTrk x).mem = s.mem := rfl
@[simp] theorem State.setTrk_freeCount (x : Tracker) : (s.setTrk x).freeCount = s.freeCount := rfl

@[simp] theorem State.setLatch_pending (x : Latch) : (s.setLatch x).pending = s.pending := rfl
@[simp] theorem State.setLatch_now (x : Latch) : (s.setLatch x).now = s.now := rfl
@[simp] theorem State.setLatch_pins (x : Latch) : (s.setLatch x).pins = s.pins := rfl
@[simp] theorem State.setLatch_ctl (x : Latch) : (s.setLatch x).ctl = s.ctl := rfl
@[simp] theorem State.setLatch_ev (x : Latch) : (s.setLatch x).ev = s.ev := rfl
@[simp] theorem State.setLatch_su (x : Latch) : (s.setLatch x).su = s.su := rfl
@[simp] theorem State.setLatch_trk (x : Latch) : (s.setLatch x).trk = s.trk := rfl
@[simp] theorem State.setLatch_latch (x : Latch) : (s.setLatch x).latch = x := rfl
@[simp] theorem State.setLatch_cyls (x : Latch) : (s.setLatch x).cyls = s.cyls := rfl
@[simp] theorem State.setLatch_arm (x : Latch) : (s.setLatch x).arm = s.arm := rfl
@[simp] theorem State.setLatch_banks (x : Latch) : (s.setLatch x).banks = s.banks := rfl
@[simp] theorem State.setLatch_faultLimit (x : Latch) : (s.setLatch x).faultLimit = s.faultLimit := rfl
@[simp] theorem State.setLatch_sb (x : Latch) : (s.setLatch x).sb = s.sb := rfl
@[simp] theorem State.setLatch_mem (x : Latch) : (s.setLatch x).mem = s.mem := rfl
@[simp] theorem State.setLatch_freeCount (x : Latch) : (s.setLatch x).freeCount = s.freeCount := rfl

@[simp] theorem State.setCyls_pending (x : Eight Cylinder) : (s.setCyls x).pending = s.pending := rfl
@[simp] theorem State.setCyls_now (x : Eight Cylinder) : (s.setCyls x).now = s.now := rfl
@[simp] theorem State.setCyls_pins (x : Eight Cylinder) : (s.setCyls x).pins = s.pins := rfl
@[simp] theorem State.setCyls_ctl (x : Eight Cylinder) : (s.setCyls x).ctl = s.ctl := rfl
@[simp] theorem State.setCyls_ev (x : Eight Cylinder) : (s.setCyls x).ev = s.ev := rfl
@[simp] theorem State.setCyls_su (x : Eight Cylinder) : (s.setCyls x).su = s.su := rfl
@[simp] theorem State.setCyls_trk (x : Eight Cylinder) : (s.setCyls x).trk = s.trk := rfl
@[simp] theorem State.setCyls_latch (x : Eight Cylinder) : (s.setCyls x).latch = s.latch := rfl
@[simp] theorem State.setCyls_cyls (x : Eight Cylinder) : (s.setCyls x).cyls = x := rfl
@[simp] theorem State.setCyls_arm (x : Eight Cylinder) : (s.setCyls x).arm = s.arm := rfl
@[simp] theorem State.setCyls_banks (x : Eight Cylinder) : (s.setCyls x).banks = s.banks := rfl
@[simp] theorem State.setCyls_faultLimit (x : Eight Cylinder) : (s.setCyls x).faultLimit = s.faultLimit := rfl
@[simp] theorem State.setCyls_sb (x : Eight Cylinder) : (s.setCyls x).sb = s.sb := rfl
@[simp] theorem State.setCyls_mem (x : Eight Cylinder) : (s.setCyls x).mem = s.mem := rfl
@[simp] theorem State.setCyls_freeCount (x : Eight Cylinder) : (s.setCyls x).freeCount = s.freeCount := rfl

@[simp] theorem State.setArm_pending (x : Arming) : (s.setArm x).pending = s.pending := rfl
@[simp] theorem State.setArm_now (x : Arming) : (s.setArm x).now = s.now := rfl
@[simp] theorem State.setArm_pins (x : Arming) : (s.setArm x).pins = s.pins := rfl
@[simp] theorem State.setArm_ctl (x : Arming) : (s.setArm x).ctl = s.ctl := rfl
@[simp] theorem State.setArm_ev (x : Arming) : (s.setArm x).ev = s.ev := rfl
@[simp] theorem State.setArm_su (x : Arming) : (s.setArm x).su = s.su := rfl
@[simp] theorem State.setArm_trk (x : Arming) : (s.setArm x).trk = s.trk := rfl
@[simp] theorem State.setArm_latch (x : Arming) : (s.setArm x).latch = s.latch := rfl
@[simp] theorem State.setArm_cyls (x : Arming) : (s.setArm x).cyls = s.cyls := rfl
@[simp] theorem State.setArm_arm (x : Arming) : (s.setArm x).arm = x := rfl
@[simp] theorem State.setArm_banks (x : Arming) : (s.setArm x).banks = s.banks := rfl
@[simp] theorem State.setArm_faultLimit (x : Arming) : (s.setArm x).faultLimit = s.faultLimit := rfl
@[simp] theorem State.setArm_sb (x : Arming) : (s.setArm x).sb = s.sb := rfl
@[simp] theorem State.setArm_mem (x : Arming) : (s.setArm x).mem = s.mem := rfl
@[simp] theorem State.setArm_freeCount (x : Arming) : (s.setArm x).freeCount = s.freeCount := rfl

@[simp] theorem State.setBanks_pending (x : Four Bank) : (s.setBanks x).pending = s.pending := rfl
@[simp] theorem State.setBanks_now (x : Four Bank) : (s.setBanks x).now = s.now := rfl
@[simp] theorem State.setBanks_pins (x : Four Bank) : (s.setBanks x).pins = s.pins := rfl
@[simp] theorem State.setBanks_ctl (x : Four Bank) : (s.setBanks x).ctl = s.ctl := rfl
@[simp] theorem State.setBanks_ev (x : Four Bank) : (s.setBanks x).ev = s.ev := rfl
@[simp] theorem State.setBanks_su (x : Four Bank) : (s.setBanks x).su = s.su := rfl
@[simp] theorem State.setBanks_trk (x : Four Bank) : (s.setBanks x).trk = s.trk := rfl
@[simp] theorem State.setBanks_latch (x : Four Bank) : (s.setBanks x).latch = s.latch := rfl
@[simp] theorem State.setBanks_cyls (x : Four Bank) : (s.setBanks x).cyls = s.cyls := rfl
@[simp] theorem State.setBanks_arm (x : Four Bank) : (s.setBanks x).arm = s.arm := rfl
@[simp] theorem State.setBanks_banks (x : Four Bank) : (s.setBanks x).banks = x := rfl
@[simp] theorem State.setBanks_faultLimit (x : Four Bank) : (s.setBanks x).faultLimit = s.faultLimit := rfl
@[simp] theorem State.setBanks_sb (x : Four Bank) : (s.setBanks x).sb = s.sb := rfl
@[simp] theorem State.setBanks_mem (x : Four Bank) : (s.setBanks x).mem = s.mem := rfl
@[simp] theorem State.setBanks_freeCount (x : Four Bank) : (s.setBanks x).freeCount = s.freeCount := rfl

@[simp] theorem State.setFaultLimit_pending (x : Nat) : (s.setFaultLimit x).pending = s.pending := rfl
@[simp] theorem State.setFaultLimit_now (x : Nat) : (s.setFaultLimit x).now = s.now := rfl
@[simp] theorem State.setFaultLimit_pins (x : Nat) : (s.setFaultLimit x).pins = s.pins := rfl
@[simp] theorem State.setFaultLimit_ctl (x : Nat) : (s.setFaultLimit x).ctl = s.ctl := rfl
@[simp] theorem State.setFaultLimit_ev (x : Nat) : (s.setFaultLimit x).ev = s.ev := rfl
@[simp] theorem State.setFaultLimit_su (x : Nat) : (s.setFaultLimit x).su = s.su := rfl
@[simp] theorem State.setFaultLimit_trk (x : Nat) : (s.setFaultLimit x).trk = s.trk := rfl
@[simp] theorem State.setFaultLimit_latch (x : Nat) : (s.setFaultLimit x).latch = s.latch := rfl
@[simp] theorem State.setFaultLimit_cyls (x : Nat) : (s.setFaultLimit x).cyls = s.cyls := rfl
@[simp] theorem State.setFaultLimit_arm (x : Nat) : (s.setFaultLimit x).arm = s.arm := rfl
@[simp] theorem State.setFaultLimit_banks (x : Nat) : (s.setFaultLimit x).banks = s.banks := rfl
@[simp] theorem State.setFaultLimit_faultLimit (x : Nat) : (s.setFaultLimit x).faultLimit = x := rfl
@[simp] theorem State.setFaultLimit_sb (x : Nat) : (s.setFaultLimit x).sb = s.sb := rfl
@[simp] theorem State.setFaultLimit_mem (x : Nat) : (s.setFaultLimit x).mem = s.mem := rfl
@[simp] theorem State.setFaultLimit_freeCount (x : Nat) : (s.setFaultLimit x).freeCount = s.freeCount := rfl

@[simp] theorem State.setSb_pending (x : StatusOwner) : (s.setSb x).pending = s.pending := rfl
@[simp] theorem State.setSb_now (x : StatusOwner) : (s.setSb x).now = s.now := rfl
@[simp] theorem State.setSb_pins (x : StatusOwner) : (s.setSb x).pins = s.pins := rfl
@[simp] theorem State.setSb_ctl (x : StatusOwner) : (s.setSb x).ctl = s.ctl := rfl
@[simp] theorem State.setSb_ev (x : StatusOwner) : (s.setSb x).ev = s.ev := rfl
@[simp] theorem State.setSb_su (x : StatusOwner) : (s.setSb x).su = s.su := rfl
@[simp] theorem State.setSb_trk (x : StatusOwner) : (s.setSb x).trk = s.trk := rfl
@[simp] theorem State.setSb_latch (x : StatusOwner) : (s.setSb x).latch = s.latch := rfl
@[simp] theorem State.setSb_cyls (x : StatusOwner) : (s.setSb x).cyls = s.cyls := rfl
@[simp] theorem State.setSb_arm (x : StatusOwner) : (s.setSb x).arm = s.arm := rfl
@[simp] theorem State.setSb_banks (x : StatusOwner) : (s.setSb x).banks = s.banks := rfl
@[simp] theorem State.setSb_faultLimit (x : StatusOwner) : (s.setSb x).faultLimit = s.faultLimit := rfl
@[simp] theorem State.setSb_sb (x : StatusOwner) : (s.setSb x).sb = x := rfl
@[simp] theorem State.setSb_mem (x : StatusOwner) : (s.setSb x).mem = s.mem := rfl
@[simp] theorem State.setSb_freeCount (x : StatusOwner) : (s.setSb x).freeCount = s.freeCount := rfl

@[simp] theorem State.setMem_pending (x : Memory) : (s.setMem x).pending = s.pending := rfl
@[simp] theorem State.setMem_now (x : Memory) : (s.setMem x).now = s.now := rfl
@[simp] theorem State.setMem_pins (x : Memory) : (s.setMem x).pins = s.pins := rfl
@[simp] theorem State.setMem_ctl (x : Memory) : (s.setMem x).ctl = s.ctl := rfl
@[simp] theorem State.setMem_ev (x : Memory) : (s.setMem x).ev = s.ev := rfl
@[simp] theorem State.setMem_su (x : Memory) : (s.setMem x).su = s.su := rfl
@[simp] theorem State.setMem_trk (x : Memory) : (s.setMem x).trk = s.trk := rfl
@[simp] theorem State.setMem_latch (x : Memory) : (s.setMem x).latch = s.latch := rfl
@[simp] theorem State.setMem_cyls (x : Memory) : (s.setMem x).cyls = s.cyls := rfl
@[simp] theorem State.setMem_arm (x : Memory) : (s.setMem x).arm = s.arm := rfl
@[simp] theorem State.setMem_banks (x : Memory) : (s.setMem x).banks = s.banks := rfl
@[simp] theorem State.setMem_faultLimit (x : Memory) : (s.setMem x).faultLimit = s.faultLimit := rfl
@[simp] theorem State.setMem_sb (x : Memory) : (s.setMem x).sb = s.sb := rfl
@[simp] theorem State.setMem_mem (x : Memory) : (s.setMem x).mem = x := rfl
@[simp] theorem State.setMem_freeCount (x : Memory) : (s.setMem x).freeCount = s.freeCount := rfl

@[simp] theorem State.setFreeCount_pending (x : Nat) : (s.setFreeCount x).pending = s.pending := rfl
@[simp] theorem State.setFreeCount_now (x : Nat) : (s.setFreeCount x).now = s.now := rfl
@[simp] theorem State.setFreeCount_pins (x : Nat) : (s.setFreeCount x).pins = s.pins := rfl
@[simp] theorem State.setFreeCount_ctl (x : Nat) : (s.setFreeCount x).ctl = s.ctl := rfl
@[simp] theorem State.setFreeCount_ev (x : Nat) : (s.setFreeCount x).ev = s.ev := rfl
@[simp] theorem State.setFreeCount_su (x : Nat) : (s.setFreeCount x).su = s.su := rfl
@[simp] theorem State.setFreeCount_trk (x : Nat) : (s.setFreeCount x).trk = s.trk := rfl
@[simp] theorem State.setFreeCount_latch (x : Nat) : (s.setFreeCount x).latch = s.latch := rfl
@[simp] theorem State.setFreeCount_cyls (x : Nat) : (s.setFreeCount x).cyls = s.cyls := rfl
@[simp] theorem State.setFreeCount_arm (x : Nat) : (s.setFreeCount x).arm = s.arm := rfl
@[simp] theorem State.setFreeCount_banks (x : Nat) : (s.setFreeCount x).banks = s.banks := rfl
@[simp] theorem State.setFreeCount_faultLimit (x : Nat) : (s.setFreeCount x).faultLimit = s.faultLimit := rfl
@[simp] theorem State.setFreeCount_sb (x : Nat) : (s.setFreeCount x).sb = s.sb := rfl
@[simp] theorem State.setFreeCount_mem (x : Nat) : (s.setFreeCount x).mem = s.mem := rfl
@[simp] theorem State.setFreeCount_freeCount (x : Nat) : (s.setFreeCount x).freeCount = x := rfl

@[simp] theorem State.setCyl_pending (k : CylId) (x : Cylinder) : (s.setCyl k x).pending = s.pending := rfl
@[simp] theorem State.setCyl_now (k : CylId) (x : Cylinder) : (s.setCyl k x).now = s.now := rfl
@[simp] theorem State.setCyl_pins (k : CylId) (x : Cylinder) : (s.setCyl k x).pins = s.pins := rfl
@[simp] theorem State.setCyl_ctl (k : CylId) (x : Cylinder) : (s.setCyl k x).ctl = s.ctl := rfl
@[simp] theorem State.setCyl_ev (k : CylId) (x : Cylinder) : (s.setCyl k x).ev = s.ev := rfl
@[simp] theorem State.setCyl_su (k : CylId) (x : Cylinder) : (s.setCyl k x).su = s.su := rfl
@[simp] theorem State.setCyl_trk (k : CylId) (x : Cylinder) : (s.setCyl k x).trk = s.trk := rfl
@[simp] theorem State.setCyl_latch (k : CylId) (x : Cylinder) : (s.setCyl k x).latch = s.latch := rfl
@[simp] theorem State.setCyl_cyls (k : CylId) (x : Cylinder) : (s.setCyl k x).cyls = s.cyls.set k x := rfl
@[simp] theorem State.setCyl_arm (k : CylId) (x : Cylinder) : (s.setCyl k x).arm = s.arm := rfl
@[simp] theorem State.setCyl_banks (k : CylId) (x : Cylinder) : (s.setCyl k x).banks = s.banks := rfl
@[simp] theorem State.setCyl_faultLimit (k : CylId) (x : Cylinder) : (s.setCyl k x).faultLimit = s.faultLimit := rfl
@[simp] theorem State.setCyl_sb (k : CylId) (x : Cylinder) : (s.setCyl k x).sb = s.sb := rfl
@[simp] theorem State.setCyl_mem (k : CylId) (x : Cylinder) : (s.setCyl k x).mem = s.mem := rfl
@[simp] theorem State.setCyl_freeCount (k : CylId) (x : Cylinder) : (s.setCyl k x).freeCount = s.freeCount := rfl

@[simp] theorem State.setBank_pending (bk : BankId) (x : Bank) : (s.setBank bk x).pending = s.pending := rfl
@[simp] theorem State.setBank_now (bk : BankId) (x : Bank) : (s.setBank bk x).now = s.now := rfl
@[simp] theorem State.setBank_pins (bk : BankId) (x : Bank) : (s.setBank bk x).pins = s.pins := rfl
@[simp] theorem State.setBank_ctl (bk : BankId) (x : Bank) : (s.setBank bk x).ctl = s.ctl := rfl
@[simp] theorem State.setBank_ev (bk : BankId) (x : Bank) : (s.setBank bk x).ev = s.ev := rfl
@[simp] theorem State.setBank_su (bk : BankId) (x : Bank) : (s.setBank bk x).su = s.su := rfl
@[simp] theorem State.setBank_trk (bk : BankId) (x : Bank) : (s.setBank bk x).trk = s.trk := rfl
@[simp] theorem State.setBank_latch (bk : BankId) (x : Bank) : (s.setBank bk x).latch = s.latch := rfl
@[simp] theorem State.setBank_cyls (bk : BankId) (x : Bank) : (s.setBank bk x).cyls = s.cyls := rfl
@[simp] theorem State.setBank_arm (bk : BankId) (x : Bank) : (s.setBank bk x).arm = s.arm := rfl
@[simp] theorem State.setBank_banks (bk : BankId) (x : Bank) : (s.setBank bk x).banks = s.banks.set bk x := rfl
@[simp] theorem State.setBank_faultLimit (bk : BankId) (x : Bank) : (s.setBank bk x).faultLimit = s.faultLimit := rfl
@[simp] theorem State.setBank_sb (bk : BankId) (x : Bank) : (s.setBank bk x).sb = s.sb := rfl
@[simp] theorem State.setBank_mem (bk : BankId) (x : Bank) : (s.setBank bk x).mem = s.mem := rfl
@[simp] theorem State.setBank_freeCount (bk : BankId) (x : Bank) : (s.setBank bk x).freeCount = s.freeCount := rfl

@[simp] theorem State.raise_pending (f : Flag) : (s.raise f).pending = s.pending := rfl
@[simp] theorem State.raise_now (f : Flag) : (s.raise f).now = s.now := rfl
@[simp] theorem State.raise_pins (f : Flag) : (s.raise f).pins = s.pins := rfl
@[simp] theorem State.raise_ctl (f : Flag) : (s.raise f).ctl = s.ctl := rfl
@[simp] theorem State.raise_ev (f : Flag) : (s.raise f).ev = { s.ev with sticky := s.ev.sticky ||| f.word } := rfl
@[simp] theorem State.raise_su (f : Flag) : (s.raise f).su = s.su := rfl
@[simp] theorem State.raise_trk (f : Flag) : (s.raise f).trk = s.trk := rfl
@[simp] theorem State.raise_latch (f : Flag) : (s.raise f).latch = s.latch := rfl
@[simp] theorem State.raise_cyls (f : Flag) : (s.raise f).cyls = s.cyls := rfl
@[simp] theorem State.raise_arm (f : Flag) : (s.raise f).arm = s.arm := rfl
@[simp] theorem State.raise_banks (f : Flag) : (s.raise f).banks = s.banks := rfl
@[simp] theorem State.raise_faultLimit (f : Flag) : (s.raise f).faultLimit = s.faultLimit := rfl
@[simp] theorem State.raise_sb (f : Flag) : (s.raise f).sb = s.sb := rfl
@[simp] theorem State.raise_mem (f : Flag) : (s.raise f).mem = s.mem := rfl
@[simp] theorem State.raise_freeCount (f : Flag) : (s.raise f).freeCount = s.freeCount := rfl

@[simp] theorem State.drive_pending (w : Word) : (s.drive w).pending = s.pending := rfl
@[simp] theorem State.drive_now (w : Word) : (s.drive w).now = s.now := rfl
@[simp] theorem State.drive_pins (w : Word) : (s.drive w).pins = { s.pins with busData := w } := rfl
@[simp] theorem State.drive_ctl (w : Word) : (s.drive w).ctl = s.ctl := rfl
@[simp] theorem State.drive_ev (w : Word) : (s.drive w).ev = s.ev := rfl
@[simp] theorem State.drive_su (w : Word) : (s.drive w).su = s.su := rfl
@[simp] theorem State.drive_trk (w : Word) : (s.drive w).trk = s.trk := rfl
@[simp] theorem State.drive_latch (w : Word) : (s.drive w).latch = s.latch := rfl
@[simp] theorem State.drive_cyls (w : Word) : (s.drive w).cyls = s.cyls := rfl
@[simp] theorem State.drive_arm (w : Word) : (s.drive w).arm = s.arm := rfl
@[simp] theorem State.drive_banks (w : Word) : (s.drive w).banks = s.banks := rfl
@[simp] theorem State.drive_faultLimit (w : Word) : (s.drive w).faultLimit = s.faultLimit := rfl
@[simp] theorem State.drive_sb (w : Word) : (s.drive w).sb = s.sb := rfl
@[simp] theorem State.drive_mem (w : Word) : (s.drive w).mem = s.mem := rfl
@[simp] theorem State.drive_freeCount (w : Word) : (s.drive w).freeCount = s.freeCount := rfl

@[simp] theorem State.writeWord_pending (off : Nat) (w : Word) : (s.writeWord off w).pending = s.pending := rfl
@[simp] theorem State.writeWord_now (off : Nat) (w : Word) : (s.writeWord off w).now = s.now := rfl
@[simp] theorem State.writeWord_pins (off : Nat) (w : Word) : (s.writeWord off w).pins = s.pins := rfl
@[simp] theorem State.writeWord_ctl (off : Nat) (w : Word) : (s.writeWord off w).ctl = s.ctl := rfl
@[simp] theorem State.writeWord_ev (off : Nat) (w : Word) : (s.writeWord off w).ev = s.ev := rfl
@[simp] theorem State.writeWord_su (off : Nat) (w : Word) : (s.writeWord off w).su = s.su := rfl
@[simp] theorem State.writeWord_trk (off : Nat) (w : Word) : (s.writeWord off w).trk = s.trk := rfl
@[simp] theorem State.writeWord_latch (off : Nat) (w : Word) : (s.writeWord off w).latch = s.latch := rfl
@[simp] theorem State.writeWord_cyls (off : Nat) (w : Word) : (s.writeWord off w).cyls = s.cyls := rfl
@[simp] theorem State.writeWord_arm (off : Nat) (w : Word) : (s.writeWord off w).arm = s.arm := rfl
@[simp] theorem State.writeWord_banks (off : Nat) (w : Word) : (s.writeWord off w).banks = s.banks := rfl
@[simp] theorem State.writeWord_faultLimit (off : Nat) (w : Word) : (s.writeWord off w).faultLimit = s.faultLimit := rfl
@[simp] theorem State.writeWord_sb (off : Nat) (w : Word) : (s.writeWord off w).sb = s.sb := rfl
@[simp] theorem State.writeWord_mem (off : Nat) (w : Word) : (s.writeWord off w).mem = s.mem.turn.putPart off w := rfl
@[simp] theorem State.writeWord_freeCount (off : Nat) (w : Word) : (s.writeWord off w).freeCount = s.freeCount := rfl

@[simp] theorem State.turn_pending : s.turn.pending = s.pending := rfl
@[simp] theorem State.turn_now : s.turn.now = s.now := rfl
@[simp] theorem State.turn_pins : s.turn.pins = s.pins := rfl
@[simp] theorem State.turn_ctl : s.turn.ctl = s.ctl := rfl
@[simp] theorem State.turn_ev : s.turn.ev = s.ev := rfl
@[simp] theorem State.turn_su : s.turn.su = s.su := rfl
@[simp] theorem State.turn_trk : s.turn.trk = s.trk := rfl
@[simp] theorem State.turn_latch : s.turn.latch = s.latch := rfl
@[simp] theorem State.turn_cyls : s.turn.cyls = s.cyls := rfl
@[simp] theorem State.turn_arm : s.turn.arm = s.arm := rfl
@[simp] theorem State.turn_banks : s.turn.banks = s.banks := rfl
@[simp] theorem State.turn_faultLimit : s.turn.faultLimit = s.faultLimit := rfl
@[simp] theorem State.turn_sb : s.turn.sb = s.sb := rfl
@[simp] theorem State.turn_mem : s.turn.mem = s.mem.turn := rfl
@[simp] theorem State.turn_freeCount : s.turn.freeCount = s.freeCount := rfl

@[simp] theorem State.at_pending (t : Time) : (s.at t).pending = s.pending := rfl
@[simp] theorem State.at_now (t : Time) : (s.at t).now = t := rfl
@[simp] theorem State.at_pins (t : Time) : (s.at t).pins = s.pins := rfl
@[simp] theorem State.at_ctl (t : Time) : (s.at t).ctl = s.ctl := rfl
@[simp] theorem State.at_ev (t : Time) : (s.at t).ev = s.ev := rfl
@[simp] theorem State.at_su (t : Time) : (s.at t).su = s.su := rfl
@[simp] theorem State.at_trk (t : Time) : (s.at t).trk = s.trk := rfl
@[simp] theorem State.at_latch (t : Time) : (s.at t).latch = s.latch := rfl
@[simp] theorem State.at_cyls (t : Time) : (s.at t).cyls = s.cyls := rfl
@[simp] theorem State.at_arm (t : Time) : (s.at t).arm = s.arm := rfl
@[simp] theorem State.at_banks (t : Time) : (s.at t).banks = s.banks := rfl
@[simp] theorem State.at_faultLimit (t : Time) : (s.at t).faultLimit = s.faultLimit := rfl
@[simp] theorem State.at_sb (t : Time) : (s.at t).sb = s.sb := rfl
@[simp] theorem State.at_mem (t : Time) : (s.at t).mem = s.mem := rfl
@[simp] theorem State.at_freeCount (t : Time) : (s.at t).freeCount = s.freeCount := rfl

@[simp] theorem State.seeAll_pending (x : Four BankSense) : (s.seeAll x).pending = s.pending := rfl
@[simp] theorem State.seeAll_now (x : Four BankSense) : (s.seeAll x).now = s.now := rfl
@[simp] theorem State.seeAll_pins (x : Four BankSense) : (s.seeAll x).pins = { s.pins with sense := x } := rfl
@[simp] theorem State.seeAll_ctl (x : Four BankSense) : (s.seeAll x).ctl = s.ctl := rfl
@[simp] theorem State.seeAll_ev (x : Four BankSense) : (s.seeAll x).ev = s.ev := rfl
@[simp] theorem State.seeAll_su (x : Four BankSense) : (s.seeAll x).su = s.su := rfl
@[simp] theorem State.seeAll_trk (x : Four BankSense) : (s.seeAll x).trk = s.trk := rfl
@[simp] theorem State.seeAll_latch (x : Four BankSense) : (s.seeAll x).latch = s.latch := rfl
@[simp] theorem State.seeAll_cyls (x : Four BankSense) : (s.seeAll x).cyls = s.cyls := rfl
@[simp] theorem State.seeAll_arm (x : Four BankSense) : (s.seeAll x).arm = s.arm := rfl
@[simp] theorem State.seeAll_banks (x : Four BankSense) : (s.seeAll x).banks = s.banks := rfl
@[simp] theorem State.seeAll_faultLimit (x : Four BankSense) : (s.seeAll x).faultLimit = s.faultLimit := rfl
@[simp] theorem State.seeAll_sb (x : Four BankSense) : (s.seeAll x).sb = s.sb := rfl
@[simp] theorem State.seeAll_mem (x : Four BankSense) : (s.seeAll x).mem = s.mem := rfl
@[simp] theorem State.seeAll_freeCount (x : Four BankSense) : (s.seeAll x).freeCount = s.freeCount := rfl

@[simp] theorem State.see_pending (bk : BankId) (x : BankSense) : (s.see bk x).pending = s.pending := rfl
@[simp] theorem State.see_now (bk : BankId) (x : BankSense) : (s.see bk x).now = s.now := rfl
@[simp] theorem State.see_pins (bk : BankId) (x : BankSense) : (s.see bk x).pins = { s.pins with sense := s.pins.sense.set bk x } := rfl
@[simp] theorem State.see_ctl (bk : BankId) (x : BankSense) : (s.see bk x).ctl = s.ctl := rfl
@[simp] theorem State.see_ev (bk : BankId) (x : BankSense) : (s.see bk x).ev = s.ev := rfl
@[simp] theorem State.see_su (bk : BankId) (x : BankSense) : (s.see bk x).su = s.su := rfl
@[simp] theorem State.see_trk (bk : BankId) (x : BankSense) : (s.see bk x).trk = s.trk := rfl
@[simp] theorem State.see_latch (bk : BankId) (x : BankSense) : (s.see bk x).latch = s.latch := rfl
@[simp] theorem State.see_cyls (bk : BankId) (x : BankSense) : (s.see bk x).cyls = s.cyls := rfl
@[simp] theorem State.see_arm (bk : BankId) (x : BankSense) : (s.see bk x).arm = s.arm := rfl
@[simp] theorem State.see_banks (bk : BankId) (x : BankSense) : (s.see bk x).banks = s.banks := rfl
@[simp] theorem State.see_faultLimit (bk : BankId) (x : BankSense) : (s.see bk x).faultLimit = s.faultLimit := rfl
@[simp] theorem State.see_sb (bk : BankId) (x : BankSense) : (s.see bk x).sb = s.sb := rfl
@[simp] theorem State.see_mem (bk : BankId) (x : BankSense) : (s.see bk x).mem = s.mem := rfl
@[simp] theorem State.see_freeCount (bk : BankId) (x : BankSense) : (s.see bk x).freeCount = s.freeCount := rfl

@[simp] theorem State.modTrk_pending (f : Tracker → Tracker) : (s.modTrk f).pending = s.pending := rfl
@[simp] theorem State.modTrk_now (f : Tracker → Tracker) : (s.modTrk f).now = s.now := rfl
@[simp] theorem State.modTrk_pins (f : Tracker → Tracker) : (s.modTrk f).pins = s.pins := rfl
@[simp] theorem State.modTrk_ctl (f : Tracker → Tracker) : (s.modTrk f).ctl = s.ctl := rfl
@[simp] theorem State.modTrk_ev (f : Tracker → Tracker) : (s.modTrk f).ev = s.ev := rfl
@[simp] theorem State.modTrk_su (f : Tracker → Tracker) : (s.modTrk f).su = s.su := rfl
@[simp] theorem State.modTrk_trk (f : Tracker → Tracker) : (s.modTrk f).trk = f s.trk := rfl
@[simp] theorem State.modTrk_latch (f : Tracker → Tracker) : (s.modTrk f).latch = s.latch := rfl
@[simp] theorem State.modTrk_cyls (f : Tracker → Tracker) : (s.modTrk f).cyls = s.cyls := rfl
@[simp] theorem State.modTrk_arm (f : Tracker → Tracker) : (s.modTrk f).arm = s.arm := rfl
@[simp] theorem State.modTrk_banks (f : Tracker → Tracker) : (s.modTrk f).banks = s.banks := rfl
@[simp] theorem State.modTrk_faultLimit (f : Tracker → Tracker) : (s.modTrk f).faultLimit = s.faultLimit := rfl
@[simp] theorem State.modTrk_sb (f : Tracker → Tracker) : (s.modTrk f).sb = s.sb := rfl
@[simp] theorem State.modTrk_mem (f : Tracker → Tracker) : (s.modTrk f).mem = s.mem := rfl
@[simp] theorem State.modTrk_freeCount (f : Tracker → Tracker) : (s.modTrk f).freeCount = s.freeCount := rfl

@[simp] theorem State.modLatch_pending (f : Latch → Latch) : (s.modLatch f).pending = s.pending := rfl
@[simp] theorem State.modLatch_now (f : Latch → Latch) : (s.modLatch f).now = s.now := rfl
@[simp] theorem State.modLatch_pins (f : Latch → Latch) : (s.modLatch f).pins = s.pins := rfl
@[simp] theorem State.modLatch_ctl (f : Latch → Latch) : (s.modLatch f).ctl = s.ctl := rfl
@[simp] theorem State.modLatch_ev (f : Latch → Latch) : (s.modLatch f).ev = s.ev := rfl
@[simp] theorem State.modLatch_su (f : Latch → Latch) : (s.modLatch f).su = s.su := rfl
@[simp] theorem State.modLatch_trk (f : Latch → Latch) : (s.modLatch f).trk = s.trk := rfl
@[simp] theorem State.modLatch_latch (f : Latch → Latch) : (s.modLatch f).latch = f s.latch := rfl
@[simp] theorem State.modLatch_cyls (f : Latch → Latch) : (s.modLatch f).cyls = s.cyls := rfl
@[simp] theorem State.modLatch_arm (f : Latch → Latch) : (s.modLatch f).arm = s.arm := rfl
@[simp] theorem State.modLatch_banks (f : Latch → Latch) : (s.modLatch f).banks = s.banks := rfl
@[simp] theorem State.modLatch_faultLimit (f : Latch → Latch) : (s.modLatch f).faultLimit = s.faultLimit := rfl
@[simp] theorem State.modLatch_sb (f : Latch → Latch) : (s.modLatch f).sb = s.sb := rfl
@[simp] theorem State.modLatch_mem (f : Latch → Latch) : (s.modLatch f).mem = s.mem := rfl
@[simp] theorem State.modLatch_freeCount (f : Latch → Latch) : (s.modLatch f).freeCount = s.freeCount := rfl

@[simp] theorem State.cyl_setCyl (k : CylId) (x : Cylinder) : (s.setCyl k x).cyl k = x := by simp [State.cyl]

theorem State.cyl_setCyl_ne {k j : CylId} (x : Cylinder) (h : j ≠ k) : (s.setCyl k x).cyl j = s.cyl j := by
  simp [State.cyl, Eight.get_set_ne _ _ h]

@[simp] theorem State.bank_setBank (bk : BankId) (x : Bank) : (s.setBank bk x).bank bk = x := by simp [State.bank]

theorem State.bank_setBank_ne {bk j : BankId} (x : Bank) (h : j ≠ bk) : (s.setBank bk x).bank j = s.bank j := by
  simp [State.bank, Four.get_set_ne _ _ h]

end Sys2Proof.Machine
end

