-- ==== Sys2Proof/Laws/Memory.lean ====
section
/-! SUPPORT. The laws of the exchange memory: a read after a write, and the canonical form kept by every operation. -/

namespace Sys2Proof.Machine

/-! ## The list of bytes -/

theorem findByte_putByte_same (a : Nat) (v : Byte) (l : List Host.Cell) : findByte a (putByte a v l) = some v := by
  induction l with
  | nil => simp [putByte, findByte]
  | cons p rest ih =>
    obtain ⟨b, w⟩ := p
    unfold putByte
    split
    · simp [findByte]
    · split
      · simp [findByte]
      · rename_i h1 h2
        simp [findByte, h2, ih]

theorem findByte_putByte_ne {a c : Nat} (v : Byte) (l : List Host.Cell) (h : c ≠ a) :
    findByte c (putByte a v l) = findByte c l := by
  induction l with
  | nil => simp [putByte, findByte, h]
  | cons p rest ih =>
    obtain ⟨b, w⟩ := p
    unfold putByte
    split
    · simp [findByte, h]
    · split
      · rename_i h1 h2
        subst h2
        simp [findByte, h]
      · simp [findByte, ih]

theorem mem_addAddr (a c : Nat) (l : List Nat) : c ∈ addAddr a l ↔ c = a ∨ c ∈ l := by
  induction l with
  | nil => simp [addAddr]
  | cons b rest ih =>
    unfold addAddr
    split
    · simp
    · split
      · rename_i h1 h2
        subst h2
        simp
      · simp only [List.mem_cons, ih]
        tauto

/-- A strictly rising list, stated by its pairs. -/
theorem rising_iff (l : List Nat) : rising l = true ↔ l.Pairwise (· < ·) := by
  induction l with
  | nil => simp [rising]
  | cons a rest ih =>
    cases rest with
    | nil => simp [rising]
    | cons b more =>
      simp only [rising, Bool.and_eq_true, decide_eq_true_eq, ih, List.pairwise_cons, List.mem_cons, forall_eq_or_imp]
      constructor
      · rintro ⟨h1, h2, h3⟩
        exact ⟨⟨h1, fun c hc => lt_trans h1 (h2 c hc)⟩, h2, h3⟩
      · rintro ⟨⟨h1, -⟩, h2, h3⟩
        exact ⟨h1, h2, h3⟩

theorem mem_keys_putByte (a c : Nat) (v : Byte) (l : List Host.Cell) :
    c ∈ (putByte a v l).map Prod.fst ↔ c = a ∨ c ∈ l.map Prod.fst := by
  induction l with
  | nil => simp [putByte]
  | cons p rest ih =>
    obtain ⟨b, w⟩ := p
    unfold putByte
    split
    · simp
    · split
      · rename_i h1 h2
        subst h2
        simp
      · simp only [List.map_cons, List.mem_cons, ih]
        tauto

theorem rising_putByte (a : Nat) (v : Byte) (l : List Host.Cell) (h : (l.map Prod.fst).Pairwise (· < ·)) :
    ((putByte a v l).map Prod.fst).Pairwise (· < ·) := by
  induction l with
  | nil => simp [putByte]
  | cons p rest ih =>
    obtain ⟨b, w⟩ := p
    simp only [List.map_cons, List.pairwise_cons] at h
    unfold putByte
    split
    · rename_i h1
      simp only [List.map_cons, List.pairwise_cons, List.mem_cons, forall_eq_or_imp]
      exact ⟨⟨h1, fun c hc => lt_trans h1 (h.1 c hc)⟩, h⟩
    · split
      · rename_i h1 h2
        subst h2
        simpa using h
      · rename_i h1 h2
        simp only [List.map_cons, List.pairwise_cons]
        refine ⟨fun c hc => ?_, ih h.2⟩
        rcases (mem_keys_putByte a c v rest).1 hc with rfl | hc
        · omega
        · exact h.1 c hc

theorem rising_addAddr (a : Nat) (l : List Nat) (h : l.Pairwise (· < ·)) : (addAddr a l).Pairwise (· < ·) := by
  induction l with
  | nil => simp [addAddr]
  | cons b rest ih =>
    have h' := h
    simp only [List.pairwise_cons] at h
    unfold addAddr
    split
    · rename_i h1
      simp only [List.pairwise_cons, List.mem_cons, forall_eq_or_imp]
      exact ⟨⟨h1, fun c hc => lt_trans h1 (h.1 c hc)⟩, h⟩
    · split
      · exact h'
      · rename_i h1 h2
        simp only [List.pairwise_cons]
        refine ⟨fun c hc => ?_, ih h.2⟩
        rcases (mem_addAddr a c rest).1 hc with rfl | hc
        · omega
        · exact h.1 c hc

/-! ## Bytes -/

@[simp] theorem Memory.writeByte_epoch (m : Memory) (a : Nat) (v : Byte) (e : Bool) : (m.writeByte a v e).epoch = m.epoch := by
  unfold Memory.writeByte
  split <;> rfl

theorem Memory.readByte_writeByte_same (m : Memory) {a : Nat} (v : Byte) (e : Bool) (h : a < memBytes) :
    (m.writeByte a v e).readByte a = v := by
  simp [Memory.writeByte, Memory.readByte, h, findByte_putByte_same]

theorem Memory.readByte_writeByte_ne (m : Memory) {a c : Nat} (v : Byte) (e : Bool) (h : c ≠ a) :
    (m.writeByte a v e).readByte c = m.readByte c := by
  unfold Memory.writeByte
  split
  · simp [Memory.readByte, findByte_putByte_ne v m.bytes h]
  · rfl

theorem Memory.byteBad_writeByte_same (m : Memory) {a : Nat} (v : Byte) (e : Bool) (h : a < memBytes) :
    (m.writeByte a v e).byteBad a = e := by
  cases e <;> simp [Memory.writeByte, Memory.byteBad, h, findByte_putByte_same, mem_addAddr]

theorem Memory.byteBad_writeByte_ne (m : Memory) {a c : Nat} (v : Byte) (e : Bool) (h : c ≠ a) :
    (m.writeByte a v e).byteBad c = m.byteBad c := by
  unfold Memory.writeByte
  split
  · simp only [Memory.byteBad, findByte_putByte_ne v m.bytes h]
    cases e <;> simp [mem_addAddr, h]
  · rfl

/-! ## Words -/

theorem Memory.readByte_writeWord_ne (m : Memory) {off c : Nat} (w : Word) (e : Bool) (h0 : c ≠ off) (h1 : c ≠ off + 1) :
    (m.writeWord off w e).readByte c = m.readByte c := by
  simp [Memory.writeWord, Memory.readByte_writeByte_ne, h0, h1]

theorem Memory.byteBad_writeWord_ne (m : Memory) {off c : Nat} (w : Word) (e : Bool) (h0 : c ≠ off) (h1 : c ≠ off + 1) :
    (m.writeWord off w e).byteBad c = m.byteBad c := by
  simp [Memory.writeWord, Memory.byteBad_writeByte_ne, h0, h1]

theorem Memory.readByte_writeWord_low (m : Memory) {off : Nat} (w : Word) (e : Bool) (h : off < memBytes) :
    (m.writeWord off w e).readByte off = w.extractLsb' 0 8 := by
  rw [Memory.writeWord, Memory.readByte_writeByte_ne _ _ _ (by omega), Memory.readByte_writeByte_same _ _ _ h]

theorem Memory.readByte_writeWord_high (m : Memory) {off : Nat} (w : Word) (e : Bool) (h : off + 1 < memBytes) :
    (m.writeWord off w e).readByte (off + 1) = w.extractLsb' 8 8 := by
  rw [Memory.writeWord, Memory.readByte_writeByte_same _ _ _ h]

/-- A read after a write of the same word gives the word written. -/
theorem Memory.readWord_writeWord_same (m : Memory) {off : Nat} (w : Word) (e : Bool) (h : off + 1 < memBytes) :
    (m.writeWord off w e).readWord off = w := by
  rw [Memory.readWord, Memory.readByte_writeWord_high _ _ _ h, Memory.readByte_writeWord_low _ _ _ (by omega)]
  apply BitVec.eq_of_getLsbD_eq
  intro i hi
  simp only [BitVec.getLsbD_append, BitVec.getLsbD_extractLsb']
  by_cases h8 : i < 8
  · simp [h8]
  · have : i - 8 < 8 := by omega
    have : 8 + (i - 8) = i := by omega
    simp [*]

/-- A write leaves every other word alone. -/
theorem Memory.readWord_writeWord_ne (m : Memory) {off c : Nat} (w : Word) (e : Bool) (h : c + 1 < off ∨ off + 1 < c) :
    (m.writeWord off w e).readWord c = m.readWord c := by
  unfold Memory.readWord
  rw [Memory.readByte_writeWord_ne _ _ _ (by omega) (by omega), Memory.readByte_writeWord_ne _ _ _ (by omega) (by omega)]

theorem Memory.wordBad_writeWord_same (m : Memory) {off : Nat} (w : Word) (e : Bool) (h : off + 1 < memBytes) :
    (m.writeWord off w e).wordBad off = e := by
  unfold Memory.wordBad Memory.writeWord
  rw [Memory.byteBad_writeByte_ne _ _ _ (by omega), Memory.byteBad_writeByte_same _ _ _ (by omega),
    Memory.byteBad_writeByte_same _ _ _ h, Bool.or_self]

theorem Memory.wordBad_writeWord_ne (m : Memory) {off c : Nat} (w : Word) (e : Bool) (h : c + 1 < off ∨ off + 1 < c) :
    (m.writeWord off w e).wordBad c = m.wordBad c := by
  unfold Memory.wordBad
  rw [Memory.byteBad_writeWord_ne _ _ _ (by omega) (by omega), Memory.byteBad_writeWord_ne _ _ _ (by omega) (by omega)]

@[simp] theorem Memory.writeWord_epoch (m : Memory) (off : Nat) (w : Word) (e : Bool) : (m.writeWord off w e).epoch = m.epoch := by
  simp [Memory.writeWord]

/-- There is no byte at 0x3000 and above: it reads 0 with no parity error, and a write there is discarded (R162). -/
theorem Memory.outside (m : Memory) {a : Nat} (h : memBytes ≤ a) (v : Byte) (e : Bool) :
    m.readByte a = 0 ∧ m.byteBad a = false ∧ m.writeByte a v e = m := by
  have : ¬ a < memBytes := by omega
  simp [Memory.readByte, Memory.byteBad, Memory.writeByte, this]

/-! ## The canonical form -/

theorem Memory.ordered_iff (m : Memory) : m.ordered = true ↔
    (m.bytes.map Prod.fst).Pairwise (· < ·) ∧ (∀ a ∈ m.bytes.map Prod.fst, a < memBytes) ∧ m.even.Pairwise (· < ·)
      ∧ ∀ a ∈ m.even, a ∈ m.bytes.map Prod.fst := by
  simp only [Memory.ordered, Bool.and_eq_true, rising_iff, List.all_eq_true, decide_eq_true_eq, List.contains_iff_mem]
  tauto

theorem Memory.writeByte_ordered {m : Memory} (h : m.ordered = true) (a : Nat) (v : Byte) (e : Bool) :
    (m.writeByte a v e).ordered = true := by
  unfold Memory.writeByte
  split
  · rename_i ha
    rw [Memory.ordered_iff] at h ⊢
    obtain ⟨h1, h2, h3, h4⟩ := h
    refine ⟨rising_putByte a v _ h1, ?_, ?_, ?_⟩
    · intro c hc
      rcases (mem_keys_putByte a c v _).1 hc with rfl | hc
      · exact ha
      · exact h2 c hc
    · dsimp only
      split
      · exact rising_addAddr a _ h3
      · exact h3.filter _
    · intro c hc
      dsimp only at hc ⊢
      rw [mem_keys_putByte]
      split at hc
      · rcases (mem_addAddr a c _).1 hc with rfl | hc
        · exact .inl rfl
        · exact .inr (h4 c hc)
      · exact .inr (h4 c (List.mem_filter.1 hc).1)
  · exact h

/-- Every write of a word keeps the bytes in order. -/
theorem Memory.writeWord_ordered {m : Memory} (h : m.ordered = true) (off : Nat) (w : Word) (e : Bool) :
    (m.writeWord off w e).ordered = true := Memory.writeByte_ordered (Memory.writeByte_ordered h _ _ _) _ _ _

theorem Memory.wf_iff (m : Memory) : m.wf = true ↔ m.ordered = true ∧ m.port = none := by
  simp [Memory.wf]

/-- What a power-on reset leaves has the canonical form. -/
theorem Memory.powerOn_wf (m : Memory) : m.powerOn.wf = true := rfl

/-! ## The word arbiter -/

@[simp] theorem Memory.writeByte_port (m : Memory) (a : Nat) (v : Byte) (e : Bool) : (m.writeByte a v e).port = m.port := by
  unfold Memory.writeByte
  split <;> rfl

@[simp] theorem Memory.writeWord_port (m : Memory) (off : Nat) (w : Word) (e : Bool) :
    (m.writeWord off w e).port = m.port := by simp [Memory.writeWord]

/-- Every write of a word keeps the canonical form. -/
theorem Memory.writeWord_wf {m : Memory} (h : m.wf = true) (off : Nat) (w : Word) (e : Bool) :
    (m.writeWord off w e).wf = true := by
  rw [Memory.wf_iff] at h ⊢
  exact ⟨Memory.writeWord_ordered h.1 _ _ _, by simpa using h.2⟩

/-- With nothing to arrive, the arbiter's turn changes nothing. -/
@[simp] theorem Memory.turn_calm {m : Memory} (h : m.port = none) : m.turn = m := by
  unfold Memory.turn
  rw [h]

/-- With nothing to arrive, a word of the part reaches the memory. -/
@[simp] theorem Memory.putPart_calm {m : Memory} (h : m.port = none) (off : Nat) (w : Word) :
    m.putPart off w = m.writeWord off w false := by
  unfold Memory.putPart Memory.stopped
  rw [h]
  rfl

@[simp] theorem Memory.goLive_calm {m : Memory} (h : m.port = none) : m.goLive = m := by
  obtain ⟨e, b, v, p⟩ := m
  obtain rfl : p = none := h
  rfl

/-- A part's word leaves the port as it is. -/
@[simp] theorem Memory.putPart_port (m : Memory) (off : Nat) (w : Word) : (m.putPart off w).port = m.port := by
  unfold Memory.putPart
  split
  · rfl
  · exact m.writeWord_port _ _ _

/-- What holds of a memory, whatever writes of words it takes and whatever the port holds, the arbiter's turn keeps. -/
theorem Memory.serve_keeps {Q : Memory → Prop} (hw : ∀ m off w e, Q m → Q (m.writeWord off w e))
    (hp : ∀ m p, Q m → Q { m with port := p }) (l : List Arrival) : ∀ (p : Port) (m : Memory), Q m → Q (Memory.serve l p m) := by
  induction l with
  | nil => exact fun p m h => hp _ _ h
  | cons x rest ih =>
    intro p m h
    unfold Memory.serve
    split
    · split
      · exact ih _ _ (hw _ _ _ _ h)
      · refine ih _ _ ?_
        unfold Memory.notePort
        split
        · exact hw _ _ _ _ h
        · exact h
      · exact hp _ _ h
      · exact hp _ _ h
    · exact hp _ _ h

theorem Memory.turn_keeps {Q : Memory → Prop} (hw : ∀ m off w e, Q m → Q (m.writeWord off w e))
    (hp : ∀ m p, Q m → Q { m with port := p }) {m : Memory} (h : Q m) : Q m.turn := by
  unfold Memory.turn
  split
  · exact Memory.serve_keeps hw hp _ _ _ h
  · exact h

/-- The arbiter's turn keeps the bytes in order. -/
theorem Memory.turn_ordered {m : Memory} (h : m.ordered = true) : m.turn.ordered = true :=
  Memory.turn_keeps (Q := fun m => m.ordered = true) (fun _ _ _ _ h => Memory.writeWord_ordered h _ _ _) (fun _ _ h => h) h

/-- The arbiter's turn never takes the port away, nor brings one. -/
theorem Memory.turn_port (m : Memory) : m.turn.port.isSome = m.port.isSome := by
  have hs : ∀ (l : List Arrival) (p : Port) (m : Memory), (Memory.serve l p m).port.isSome = true := by
    intro l
    induction l with
    | nil => exact fun _ _ => rfl
    | cons x rest ih =>
      intro p m
      unfold Memory.serve
      split
      · split
        · exact ih _ _
        · exact ih _ _
        · rfl
        · rfl
      · rfl
  unfold Memory.turn
  split
  · rename_i p h
    rw [hs, h]
    rfl
  · rfl

end Sys2Proof.Machine
end

