-- ==== Sys2Proof/Laws/Frames.lean ====
section
/-! SUPPORT. What the shared operations leave unchanged. `Keeps s t` holds of every operation the engine events, timers and
comparator changes are made of; `Downstream s t` of the operations that lie behind the tracker (latch, arming, arbitration,
channels, event table), which also keep the tracker, the setup unit, the tick count and the pins. There is one lemma for each
operation, named after it. -/

namespace Sys2Proof.Machine

/-- A property of the memory that the part's own accesses keep: the arbiter's turn before one (R163), the write of a status
block word while the block is live (R181), and the write of a word at 0x1000 or above, where the plan ring lies (R162). -/
structure PartWrites (live : Bool) (Q : Memory → Prop) : Prop where
  turn : ∀ m, Q m → Q m.turn
  status : live = true → ∀ m off w, 0x180 ≤ off → off + 2 ≤ 0x300 → Q m → Q (m.putPart off w)
  ring : ∀ m off w, 0x1000 ≤ off → Q m → Q (m.putPart off w)

/-- What an operation of the part itself does to the run state and the stop mode (R127, R135): nothing, another stop mode of
a STOPPING part, or the end of the stop. -/
def RunStep (c d : Control) : Prop :=
  (d.run = c.run ∧ (d.stopMode = c.stopMode ∨ (c.run = .stopping ∧ d.stopMode ≠ .none))) ∨
    (c.run = .stopping ∧ d.run = .ready ∧ d.stopMode = .none)

theorem RunStep.refl (c : Control) : RunStep c c := .inl ⟨rfl, .inl rfl⟩

theorem RunStep.trans {c d e : Control} (h : RunStep c d) (g : RunStep d e) : RunStep c e := by
  rcases h with ⟨h1, h2⟩ | ⟨h1, h2, h3⟩
  · rcases g with ⟨g1, g2⟩ | ⟨g1, g2, g3⟩
    · refine .inl ⟨g1.trans h1, ?_⟩
      rcases g2 with g2 | ⟨g2, g3⟩
      · rcases h2 with h2 | ⟨h2, h3⟩
        · exact .inl (g2.trans h2)
        · exact .inr ⟨h2, g2 ▸ h3⟩
      · exact .inr ⟨h1 ▸ g2, g3⟩
    · exact .inr ⟨h1 ▸ g1, g2, g3⟩
  · rcases g with ⟨g1, g2⟩ | ⟨g1, g2, g3⟩
    · rcases g2 with g2 | ⟨g2, g3⟩
      · exact .inr ⟨h1, g1.trans h2, g2.trans h3⟩
      · exact absurd (h2.symm.trans g2) (by decide)
    · exact absurd (h2.symm.trans g1) (by decide)

/-- What every operation of the part itself keeps. -/
structure Keeps (s t : State) : Prop where
  pending : t.pending = s.pending
  powerOn : t.pins.powerOn = s.pins.powerOn
  resetN : t.pins.resetN = s.pins.resetN
  busData : t.pins.busData = s.pins.busData
  ctl : RunStep s.ctl t.ctl
  inhibit : t.ctl.inhibit = s.ctl.inhibit
  evenParity : t.ctl.evenParity = s.ctl.evenParity
  lastResult : t.ctl.lastResult = s.ctl.lastResult
  resetCause : t.ctl.resetCause = s.ctl.resetCause
  requestReg : t.ctl.request = s.ctl.request
  mask : t.ev.mask = s.ev.mask
  sticky : s.ev.sticky &&& t.ev.sticky = s.ev.sticky
  setup : t.su.setup = s.su.setup
  staging : t.su.staging = s.su.staging
  error : t.su.error = s.su.error
  faultLimit : t.faultLimit = s.faultLimit
  live : t.sb.live = s.sb.live
  lastParityAddr : t.sb.lastParityAddr = s.sb.lastParityAddr
  freeCount : s.freeCount ≤ t.freeCount
  memory : ∀ Q, PartWrites s.sb.live Q → Q s.mem → Q t.mem

/-- What the operations behind the tracker keep beside. -/
structure Downstream (s t : State) : Prop extends Keeps s t where
  now : t.now = s.now
  pins : t.pins = s.pins
  trk : t.trk = s.trk
  su : t.su = s.su

variable {s u : State}

theorem Keeps.refl (s : State) : Keeps s s where
  pending := rfl
  powerOn := rfl
  resetN := rfl
  busData := rfl
  ctl := .refl _
  inhibit := rfl
  evenParity := rfl
  lastResult := rfl
  resetCause := rfl
  requestReg := rfl
  mask := rfl
  sticky := by simp
  setup := rfl
  staging := rfl
  error := rfl
  faultLimit := rfl
  live := rfl
  lastParityAddr := rfl
  freeCount := le_refl _
  memory := fun _ _ h => h

theorem Downstream.refl (s : State) : Downstream s s := ⟨.refl s, rfl, rfl, rfl, rfl⟩

theorem Keeps.trans {t : State} (h : Keeps s t) (g : Keeps t u) : Keeps s u where
  pending := g.pending.trans h.pending
  powerOn := g.powerOn.trans h.powerOn
  resetN := g.resetN.trans h.resetN
  busData := g.busData.trans h.busData
  ctl := h.ctl.trans g.ctl
  inhibit := g.inhibit.trans h.inhibit
  evenParity := g.evenParity.trans h.evenParity
  lastResult := g.lastResult.trans h.lastResult
  resetCause := g.resetCause.trans h.resetCause
  requestReg := g.requestReg.trans h.requestReg
  mask := g.mask.trans h.mask
  sticky := by
    have h1 := h.sticky
    have h2 := g.sticky
    calc s.ev.sticky &&& u.ev.sticky = (s.ev.sticky &&& t.ev.sticky) &&& u.ev.sticky := by rw [h1]
      _ = s.ev.sticky &&& (t.ev.sticky &&& u.ev.sticky) := BitVec.and_assoc _ _ _
      _ = s.ev.sticky := by rw [h2, h1]
  setup := g.setup.trans h.setup
  staging := g.staging.trans h.staging
  error := g.error.trans h.error
  faultLimit := g.faultLimit.trans h.faultLimit
  live := g.live.trans h.live
  lastParityAddr := g.lastParityAddr.trans h.lastParityAddr
  freeCount := h.freeCount.trans g.freeCount
  memory := fun Q hQ hs => g.memory Q (h.live ▸ hQ) (h.memory Q hQ hs)

theorem Downstream.trans {t : State} (h : Downstream s t) (g : Downstream t u) : Downstream s u :=
  ⟨h.toKeeps.trans g.toKeeps, g.now.trans h.now, g.pins.trans h.pins, g.trk.trans h.trk, g.su.trans h.su⟩

/-! ## Setters -/

theorem Keeps.setNow (h : Keeps s u) (x : Time) : Keeps s (u.setNow x) := { h with }
theorem Keeps.seeAll (h : Keeps s u) (x : Four BankSense) : Keeps s (u.seeAll x) := { h with }
theorem Keeps.see (h : Keeps s u) (bk : BankId) (x : BankSense) : Keeps s (u.see bk x) := { h with }
theorem Keeps.expire (h : Keeps s u) (t : Time) (bk : BankId) (x : BankSense) : Keeps s (u.expire t bk x) := { h with }
theorem Keeps.setTrk (h : Keeps s u) (x : Tracker) : Keeps s (u.setTrk x) := { h with }
theorem Keeps.setArm (h : Keeps s u) (x : Arming) : Keeps s (u.setArm x) := { h with }
theorem Keeps.setLatch (h : Keeps s u) (x : Latch) : Keeps s (u.setLatch x) := { h with }
theorem Keeps.setBank (h : Keeps s u) (bk : BankId) (x : Bank) : Keeps s (u.setBank bk x) := { h with }
theorem Keeps.setCyl (h : Keeps s u) (k : CylId) (x : Cylinder) : Keeps s (u.setCyl k x) := { h with }

theorem Downstream.setArm (h : Downstream s u) (x : Arming) : Downstream s (u.setArm x) := { h with }
theorem Downstream.setLatch (h : Downstream s u) (x : Latch) : Downstream s (u.setLatch x) := { h with }
theorem Downstream.setCyls (h : Downstream s u) (x : Eight Cylinder) : Downstream s (u.setCyls x) := { h with }
theorem Downstream.setBanks (h : Downstream s u) (x : Four Bank) : Downstream s (u.setBanks x) := { h with }
theorem Downstream.setCyl (h : Downstream s u) (k : CylId) (x : Cylinder) : Downstream s (u.setCyl k x) := { h with }
theorem Downstream.setBank (h : Downstream s u) (bk : BankId) (x : Bank) : Downstream s (u.setBank bk x) := { h with }
theorem Downstream.setStopMode (h : Downstream s u) {m : StopMode} (hr : u.ctl.run = .stopping) (hm : m ≠ .none) :
    Downstream s (u.setStopMode m) := { h with ctl := h.ctl.trans (.inl ⟨rfl, .inr ⟨hr, hm⟩⟩) }
theorem Downstream.setService (h : Downstream s u) (e : ServiceEntry) :
    Downstream s (u.setSb { u.sb with service := e }) := { h with }
theorem Downstream.setFreeCount (h : Downstream s u) {n : Nat} (hn : u.freeCount ≤ n) : Downstream s (u.setFreeCount n) :=
  { h with freeCount := h.freeCount.trans hn }

theorem Keeps.raise (h : Keeps s u) (f : Flag) : Keeps s (u.raise f) :=
  { h with
    sticky := by
      have h1 := h.sticky
      show s.ev.sticky &&& (u.ev.sticky ||| f.word) = s.ev.sticky
      calc s.ev.sticky &&& (u.ev.sticky ||| f.word)
          = (s.ev.sticky &&& u.ev.sticky) ||| (s.ev.sticky &&& f.word) := by
            apply BitVec.eq_of_getLsbD_eq
            intro i _
            simp [Bool.and_or_distrib_left]
        _ = s.ev.sticky ||| (s.ev.sticky &&& f.word) := by rw [h1]
        _ = s.ev.sticky := by
            apply BitVec.eq_of_getLsbD_eq
            intro i _
            simp only [BitVec.getLsbD_or, BitVec.getLsbD_and]
            cases s.ev.sticky.getLsbD i <;> simp }

theorem Downstream.raise (h : Downstream s u) (f : Flag) : Downstream s (u.raise f) := { h.toKeeps.raise f, h with }

/-! ## Writes -/

theorem Keeps.writeWord (h : Keeps s u) {off : Nat} (w : Word) (hr : 0x1000 ≤ off) : Keeps s (u.writeWord off w) :=
  { h with memory := fun Q hQ hs => hQ.ring _ _ _ hr (hQ.turn _ (h.memory Q hQ hs)) }

/-- The arbiter's turn. -/
theorem Downstream.turn (h : Downstream s u) : Downstream s u.turn :=
  { h with memory := fun Q hQ hs => hQ.turn _ (h.memory Q hQ hs) }

/-- A word written as the second half of an access (R37). -/
theorem Downstream.putPart (h : Downstream s u) {off : Nat} (w : Word) (hr : 0x1000 ≤ off) :
    Downstream s (u.setMem (u.mem.putPart off w)) :=
  { h with memory := fun Q hQ hs => hQ.ring _ _ _ hr (h.memory Q hQ hs) }

/-- Reading words one after another. -/
theorem Downstream.fetchWords (l : List Nat) : ∀ {u : State}, Downstream s u → Downstream s (State.fetchWords l u).2 := by
  induction l with
  | nil => exact fun h => h
  | cons off rest ih =>
    intro u h
    unfold State.fetchWords
    split
    · exact h.turn
    · exact ih h.turn

theorem Downstream.writeWord (h : Downstream s u) {off : Nat} (w : Word) (hr : 0x1000 ≤ off) :
    Downstream s (u.writeWord off w) := { h.toKeeps.writeWord w hr, h with }

theorem Keeps.status (h : Keeps s u) {off : Nat} (w : Word) (h0 : 0x180 ≤ off) (h1 : off + 2 ≤ 0x300) :
    Keeps s (u.status off w) := by
  unfold State.status
  split
  · rename_i hl
    exact { h with memory := fun Q hQ hs => hQ.status (h.live ▸ hl) _ _ _ h0 h1 (hQ.turn _ (h.memory Q hQ hs)) }
  · exact h

theorem Downstream.status (h : Downstream s u) {off : Nat} (w : Word) (h0 : 0x180 ≤ off) (h1 : off + 2 ≤ 0x300) :
    Downstream s (u.status off w) := by
  have hk := h.toKeeps.status w h0 h1
  unfold State.status at hk ⊢
  split at hk
  · rename_i hl
    rw [if_pos hl]
    exact { hk, h with }
  · rename_i hl
    rw [if_neg hl]
    exact h

/-- The words of a list lie in the status block. -/
def StatusWords (l : List (Nat × Word)) : Prop := ∀ p ∈ l, 0x180 ≤ p.1 ∧ p.1 + 2 ≤ 0x300

theorem StatusWords.nil : StatusWords [] := by simp [StatusWords]

theorem StatusWords.cons {off : Nat} {w : Word} {l : List (Nat × Word)} (h0 : 0x180 ≤ off) (h1 : off + 2 ≤ 0x300)
    (h : StatusWords l) : StatusWords ((off, w) :: l) := by
  intro p hp
  rcases List.mem_cons.1 hp with rfl | hp
  · exact ⟨h0, h1⟩
  · exact h p hp

theorem StatusWords.append {l m : List (Nat × Word)} (h : StatusWords l) (g : StatusWords m) : StatusWords (l ++ m) := by
  intro p hp
  rcases List.mem_append.1 hp with hp | hp
  · exact h p hp
  · exact g p hp

theorem Keeps.statusAll {l : List (Nat × Word)} (hl : StatusWords l) : ∀ {u : State}, Keeps s u → Keeps s (u.statusAll l) := by
  induction l with
  | nil => exact fun h => h
  | cons p rest ih =>
    intro u h
    have hp := hl p (List.mem_cons_self ..)
    exact ih (fun q hq => hl q (List.mem_cons_of_mem _ hq)) (h.status p.2 hp.1 hp.2)

theorem Downstream.statusAll {l : List (Nat × Word)} (hl : StatusWords l) :
    ∀ {u : State}, Downstream s u → Downstream s (u.statusAll l) := by
  induction l with
  | nil => exact fun h => h
  | cons p rest ih =>
    intro u h
    have hp := hl p (List.mem_cons_self ..)
    exact ih (fun q hq => hl q (List.mem_cons_of_mem _ hq)) (h.status p.2 hp.1 hp.2)

theorem offCyl_range (k : CylId) : 0x1C0 ≤ offCyl k ∧ offCyl k ≤ 0x230 := by cases k <;> decide

theorem offBank_range (bk : BankId) : 0x240 ≤ offBank bk ∧ offBank bk ≤ 0x258 := by cases bk <;> decide

theorem recordOffset_ge (i : Nat) : 0x1000 ≤ recordOffset i := by unfold recordOffset; omega

/-- Membership, decided for a list whose offsets are numerals. -/
theorem statusWords_of {l : List (Nat × Word)} (h : (l.map Prod.fst).all (fun a => decide (0x180 ≤ a ∧ a + 2 ≤ 0x300)) = true) :
    StatusWords l := by
  intro p hp
  have := List.all_eq_true.1 h p.1 (List.mem_map_of_mem hp)
  simpa using this

theorem syncWords_in (t : Tracker) : StatusWords (syncWords t) := statusWords_of rfl
theorem tLastWords_in (t : Tracker) : StatusWords (tLastWords t) := statusWords_of rfl
theorem edgeAngleWords_in (t : Tracker) : StatusWords (edgeAngleWords t) := statusWords_of rfl
theorem edgeTimeWords_in (t : Tracker) : StatusWords (edgeTimeWords t) := statusWords_of rfl
theorem cycleWords_in (t : Tracker) : StatusWords (cycleWords t) := statusWords_of rfl
theorem syncLossWords_in (t : Tracker) : StatusWords (syncLossWords t) := statusWords_of rfl
theorem trackerCountWords_in (t : Tracker) : StatusWords (trackerCountWords t) := statusWords_of rfl
theorem latchWords_in (l : Latch) : StatusWords (latchWords l) := statusWords_of rfl
theorem trimWords_in (x : SetupUnit) : StatusWords (trimWords x) := statusWords_of rfl
theorem errorWords_in (x : SetupUnit) : StatusWords (errorWords x) := statusWords_of rfl
theorem serviceStartWords_in (e : ServiceEntry) : StatusWords (serviceStartWords e) := statusWords_of rfl
theorem serviceEndWords_in (e : ServiceEntry) : StatusWords (serviceEndWords e) := statusWords_of rfl

theorem cylStateWords_in (k : CylId) (c : Cylinder) : StatusWords (cylStateWords k c) := by
  have := offCyl_range k
  exact .cons (by omega) (by omega) .nil
theorem cylLastWords_in (k : CylId) (c : Cylinder) : StatusWords (cylLastWords k c) := by
  have := offCyl_range k
  exact .cons (by omega) (by omega) (.cons (by omega) (by omega) (.cons (by omega) (by omega) .nil))
theorem holdWords_in (k : CylId) (c : Cylinder) : StatusWords (holdWords k c) := by
  have := offCyl_range k
  exact .cons (by omega) (by omega) .nil
theorem faultWords_in (k : CylId) (c : Cylinder) : StatusWords (faultWords k c) := by
  have := offCyl_range k
  exact .cons (by omega) (by omega) .nil
theorem faultTotalWords_in (k : CylId) (c : Cylinder) : StatusWords (faultTotalWords k c) := by
  have := offCyl_range k
  exact .cons (by omega) (by omega) .nil
theorem missWords_in (k : CylId) (c : Cylinder) : StatusWords (missWords k c) := by
  have := offCyl_range k
  exact .cons (by omega) (by omega) .nil
theorem bankModeWords_in (bk : BankId) (x : Bank) : StatusWords (bankModeWords bk x) := by
  have := offBank_range bk
  exact .cons (by omega) (by omega) .nil
theorem conflictWords_in (bk : BankId) (x : Bank) : StatusWords (conflictWords bk x) := by
  have := offBank_range bk
  exact .cons (by omega) (by omega) .nil
theorem boostLowWords_in (bk : BankId) (x : Bank) : StatusWords (boostLowWords bk x) := by
  have := offBank_range bk
  exact .cons (by omega) (by omega) .nil

/-! ## Events (Machine/Events.lean) -/

/-- An operation folded over a list keeps what each of its steps keeps. -/
theorem Downstream.foldl {α : Type} {f : State → α → State} (hf : ∀ u a, Downstream s u → Downstream s (f u a)) (l : List α) :
    ∀ {u : State}, Downstream s u → Downstream s (l.foldl f u) := by
  induction l with
  | nil => exact fun h => h
  | cons a rest ih => exact fun h => ih (hf _ a h)

theorem Downstream.checkStopped (h : Downstream s u) : Downstream s u.checkStopped := by
  unfold State.checkStopped
  split
  · rename_i hc
    have g : Downstream s ((u.setCtl { u.ctl with stopMode := .none }).setCtl { u.ctl with run := .ready, stopMode := .none }) :=
      { h with ctl := h.ctl.trans (.inr ⟨hc.1, rfl, rfl⟩) }
    exact g.raise .runState
  · exact h

theorem Downstream.modEvent (h : Downstream s u) (k : CylId) (seq : Word) (f : Event → Event) :
    Downstream s (u.modEvent k seq f) := by
  unfold State.modEvent
  split
  · split
    · exact h.setCyl _ _
    · exact h
  · exact h

theorem Downstream.modPulse (h : Downstream s u) (k : CylId) (seq : Word) (index : Nat) (f : Pulse → Pulse) :
    Downstream s (u.modPulse k seq index f) := h.modEvent _ _ _

theorem Downstream.withdraw (h : Downstream s u) (reach : CylId → Bool) (o : PulseOutcome) :
    Downstream s (u.withdraw reach o) := ((h.setCyls _).setArm _).setBanks _

theorem Downstream.conflict (h : Downstream s u) (bk : BankId) : Downstream s (u.conflict bk) :=
  (Downstream.statusAll (conflictWords_in _ _) (h.setBank _ _)).raise _

theorem Downstream.conflicts (bk : BankId) (n : Nat) : ∀ {u : State}, Downstream s u → Downstream s (u.conflicts bk n) := by
  induction n with
  | zero => exact fun h => h
  | succ n ih => exact fun h => ih (h.conflict bk)

theorem Downstream.writeWords (l : List Word) : ∀ {u : State} {off : Nat}, Downstream s u → 0x1000 ≤ off →
    Downstream s (u.writeWords off l) := by
  induction l with
  | nil => exact fun h _ => h
  | cons w rest ih => exact fun h hr => ih (h.writeWord w hr) (by omega)

theorem Downstream.writeResults (h : Downstream s u) {r : Nat} (dry : Bool) (l : List Pulse) (hr : 0x1000 ≤ r) :
    Downstream s (u.writeResults r dry l) := Downstream.writeWords _ h (by omega)

theorem Downstream.writeBack (h : Downstream s u) (k : CylId) (e : Event) (i : Nat) : Downstream s (u.writeBack k e i) := by
  have := recordOffset_ge i
  exact (((h.writeResults _ _ (by omega)).writeWord _ (by omega)).writeWord _ (by omega)).writeWord _ (by omega)

theorem Downstream.closeEntry (h : Downstream s u) (k : CylId) (src : Source) (o : EventOutcome) (seq : Word) :
    Downstream s (u.closeEntry k src o seq) := Downstream.statusAll (cylLastWords_in _ _) (h.setCyl _ _)

theorem Downstream.notifyDone (h : Downstream s u) (notify : Bool) : Downstream s (u.notifyDone notify) := by
  unfold State.notifyDone
  split
  · exact h.raise _
  · exact h

theorem Downstream.report (h : Downstream s u) (k : CylId) (e : Event) : Downstream s (u.report k e) := by
  unfold State.report
  split
  · exact ((h.writeBack k e _).closeEntry _ _ _ _).notifyDone _
  · exact (h.closeEntry _ _ _ _).notifyDone _

theorem Downstream.finish (h : Downstream s u) (k : CylId) (e : Event) : Downstream s (u.finish k e) :=
  ((h.report k e).setCyl _ _).checkStopped

theorem Downstream.settle (h : Downstream s u) (k : CylId) : Downstream s (u.settle k) := by
  unfold State.settle
  split
  · split
    · exact h.finish _ _
    · exact h
  · exact h

theorem Downstream.settleAll (h : Downstream s u) : Downstream s u.settleAll :=
  Downstream.foldl (fun _ k g => g.settle k) _ h

/-! ## Channels (Machine/Channels.lean) -/

theorem Downstream.setMode (h : Downstream s u) (bk : BankId) (m : BankMode) : Downstream s (u.setMode bk m) :=
  Downstream.statusAll (bankModeWords_in _ _) (h.setBank _ _)

theorem Downstream.headCheck (h : Downstream s u) (bk : BankId) : Downstream s (u.headCheck bk) := by
  unfold State.headCheck
  dsimp only
  split
  · exact h.setBank _ _
  · exact h

theorem Downstream.release (h : Downstream s u) (bk : BankId) : Downstream s (u.release bk) := (h.setBank _ _).setMode _ _

theorem Downstream.clearFaults (h : Downstream s u) (k : CylId) : Downstream s (u.clearFaults k) :=
  Downstream.statusAll (faultWords_in _ _) (h.setCyl _ _)

theorem Downstream.quarantine (h : Downstream s u) (k : CylId) : Downstream s (u.quarantine k) :=
  ((Downstream.statusAll (cylStateWords_in _ _) (h.setCyl _ _)).raise _).withdraw _ _

theorem Downstream.quarantineTest (h : Downstream s u) (k : CylId) : Downstream s (u.quarantineTest k) := by
  unfold State.quarantineTest
  split
  · exact h.quarantine k
  · exact h

theorem Downstream.countFault (h : Downstream s u) (k : CylId) : Downstream s (u.countFault k) :=
  ((Downstream.statusAll ((faultWords_in _ _).append (faultTotalWords_in _ _)) (h.setCyl _ _)).raise _).quarantineTest _

theorem Downstream.countEnd (h : Downstream s u) (k : CylId) (o : PulseOutcome) : Downstream s (u.countEnd k o) := by
  unfold State.countEnd
  split
  · exact h.countFault k
  · exact h.clearFaults k

theorem Downstream.dropCapped (h : Downstream s u) (k : CylId) (e : Event) : Downstream s (u.dropCapped k e) :=
  (h.withdraw _ _).conflicts _ _

theorem Downstream.capCheck (h : Downstream s u) (k : CylId) (seq : Word) (o : PulseOutcome) :
    Downstream s (u.capCheck k seq o) := by
  unfold State.capCheck
  split
  · split
    · exact h.dropCapped _ _
    · exact h
  · exact h

theorem Downstream.endInEvent (h : Downstream s u) (k : CylId) (seq : Word) (index : Nat) (c : PulseCond) (r : PulseResult) :
    Downstream s (u.endInEvent k seq index c r) := (h.modPulse _ _ _ _).modEvent _ _ _

theorem Downstream.serviceDone (h : Downstream s u) (r : PulseResult) : Downstream s (u.serviceDone r) :=
  (Downstream.statusAll (serviceEndWords_in _) (h.setService _)).raise _

theorem Downstream.serviceResult (h : Downstream s u) (p : Player) : Downstream s (u.serviceResult p) := by
  unfold State.serviceResult
  split
  · exact h.serviceDone _
  · exact h

theorem Downstream.freeBank (h : Downstream s u) (bk : BankId) : Downstream s (u.freeBank bk) := (h.setBank _ _).release _

theorem Downstream.quenchOver (h : Downstream s u) (bk : BankId) : Downstream s (u.quenchOver bk) := by
  unfold State.quenchOver
  split
  · exact h
  · split
    · exact ((h.serviceResult _).freeBank _).headCheck _
    · exact ((h.freeBank _).modPulse _ _ _ _).headCheck _

theorem Downstream.judge (h : Downstream s u) (p : Player) : Downstream s (u.judge p) := by
  unfold State.judge
  split
  · exact h.settle _
  · exact h

theorem Downstream.quenchEnd (h : Downstream s u) (bk : BankId) : Downstream s (u.quenchEnd bk) := by
  unfold State.quenchEnd
  split
  · exact h
  · exact (h.quenchOver _).judge _

theorem Downstream.quenchStanding (h : Downstream s u) (bk : BankId) (level : Nat) :
    Downstream s (u.quenchStanding bk level) := by
  unfold State.quenchStanding
  split
  · exact h.quenchOver _
  · exact h

theorem Downstream.startQuench (h : Downstream s u) (bk : BankId) : Downstream s (u.startQuench bk) := by
  unfold State.startQuench
  split
  · exact h
  · exact (h.setBank _ _).quenchStanding _ _

theorem Downstream.reportEnd (h : Downstream s u) (p : Player) (r : PulseResult) : Downstream s (u.reportEnd p r) := by
  unfold State.reportEnd
  split
  · exact h.endInEvent _ _ _ _ _
  · exact h

theorem Downstream.fixEnd (h : Downstream s u) (bk : BankId) (p : Player) (o : PulseOutcome) :
    Downstream s (u.fixEnd bk p o) := ((h.setBank _ _).setMode _ _).reportEnd _ _

theorem Downstream.capPlayed (h : Downstream s u) (p : Player) (o : PulseOutcome) : Downstream s (u.capPlayed p o) := by
  unfold State.capPlayed
  split
  · exact h.capCheck _ _ _
  · exact h

theorem Downstream.stopPlayed (h : Downstream s u) (bk : BankId) (o : PulseOutcome) :
    Downstream s (u.stopPlayed bk o) := by
  unfold State.stopPlayed
  split
  · exact h
  · split
    · exact h
    · exact (((h.fixEnd _ _ _).countEnd _ _).capPlayed _ _).startQuench _

theorem Downstream.endPlayed (h : Downstream s u) (bk : BankId) (o : PulseOutcome) : Downstream s (u.endPlayed bk o) := by
  unfold State.endPlayed
  split
  · exact h
  · dsimp only
    split
    · exact (h.stopPlayed _ _).judge _
    · exact h.stopPlayed _ _

theorem Downstream.stopDry (h : Downstream s u) (bk : BankId) (x : Holder) (o : PulseOutcome) :
    Downstream s (u.stopDry bk x o) := by
  unfold State.stopDry
  split
  · exact h
  · exact ((((h.setBank _ _).endInEvent _ _ _ _ _).capCheck _ _ _).release _).headCheck _

theorem Downstream.endDry (h : Downstream s u) (bk : BankId) (x : Holder) (o : PulseOutcome) :
    Downstream s (u.endDry bk x o) := by
  unfold State.endDry
  split
  · exact h
  · exact (h.stopDry _ _ _).settle _

theorem Downstream.stopHolder (h : Downstream s u) (bk : BankId) (o : PulseOutcome) : Downstream s (u.stopHolder bk o) := by
  unfold State.stopHolder
  split
  · exact h
  · split
    · split
      · exact h.stopDry _ _ _
      · exact h.stopPlayed _ _
    · exact h

theorem Downstream.endHolder (h : Downstream s u) (bk : BankId) (o : PulseOutcome) : Downstream s (u.endHolder bk o) := by
  unfold State.endHolder
  split
  · exact h
  · split
    · split
      · exact h.endDry _ _ _
      · exact h.endPlayed _ _
    · exact h

theorem Downstream.countLow (h : Downstream s u) (bk : BankId) : Downstream s (u.countLow bk) :=
  Downstream.statusAll (boostLowWords_in _ _) (h.setBank _ _)

theorem Downstream.countBoostLow (bk : BankId) (n : Nat) : ∀ {u : State}, Downstream s u →
    Downstream s (u.countBoostLow bk n) := by
  induction n with
  | zero => exact fun h => h
  | succ n ih => exact fun h => ih (h.countLow bk)

/-- Playing consults free values in order. -/
theorem playFrom_free (p : Player) (sense : BankSense) (now : Time) (l : List Ramp) :
    ∀ m : PlayMarks, m.free ≤ (playFrom p sense now l m).1.free := by
  induction l with
  | nil =>
    intro m
    unfold playFrom
    split <;> exact le_refl _
  | cons r rest ih =>
    intro m
    cases r with
    | boostRise level limit =>
      simp only [playFrom]
      have hs : (m.sample sense.boostOk).free = m.free := by unfold PlayMarks.sample; split <;> rfl
      split
      · split
        · simp [PlayMarks.consult, hs]
        · refine le_trans ?_ (ih _)
          simp [PlayMarks.next, PlayMarks.consult, PlayMarks.reach, hs]
      · split <;> simp [hs]
    | batteryRise level limit =>
      simp only [playFrom]
      split
      · split
        · simp [PlayMarks.consult]
        · refine le_trans ?_ (ih _)
          simp [PlayMarks.next, PlayMarks.consult, PlayMarks.reach]
      · split <;> simp
    | freewheel time =>
      simp only [playFrom]
      split
      · split
        · simp [PlayMarks.consult]
        · refine le_trans ?_ (ih _)
          simp [PlayMarks.next, PlayMarks.consult]
      · split <;> simp

theorem Downstream.comeToRest (h : Downstream s u) (bk : BankId) (p : Player) (stop : PlayStop) :
    Downstream s (u.comeToRest bk p stop) := by
  unfold State.comeToRest
  split
  · exact (h.setBank _ _).endPlayed _ _
  · exact h.setBank _ _

theorem State.playPhases_free (s : State) (bk : BankId) (p : Player) (k : Nat) : s.freeCount ≤ (s.playPhases bk p k).1.free :=
  playFrom_free p (s.senseOf bk) s.now (p.profile.ramps.drop k) ⟨k, p.peak, p.boostLow, 0, s.freeCount⟩

theorem Downstream.enterPhase (h : Downstream s u) (bk : BankId) (k : Nat) : Downstream s (u.enterPhase bk k) := by
  unfold State.enterPhase
  split
  · exact h
  · exact ((h.setFreeCount (u.playPhases_free _ _ _)).countBoostLow _ _).comeToRest _ _ _

theorem Downstream.engage (h : Downstream s u) (bk : BankId) (job : Job) (k : CylId) (profile duration : Nat) :
    Downstream s (u.engage bk job k profile duration) := by
  unfold State.engage
  split
  · exact h
  · exact (h.setBank _ _).enterPhase _ _

theorem Downstream.levelReached (h : Downstream s u) (bk : BankId) (p : Player) : Downstream s (u.levelReached bk p) :=
  (h.setBank _ _).enterPhase _ _

theorem Downstream.setHolding (h : Downstream s u) (bk : BankId) (p : Player) (c : Bool) :
    Downstream s (u.setHolding bk p c) := h.setBank _ _

/-! ## The arbiters (Machine/Arbiter.lean) -/

theorem Downstream.makeHolder (h : Downstream s u) (bk : BankId) (r : Request) : Downstream s (u.makeHolder bk r) :=
  ((h.setBank _ _).setMode _ _).modPulse _ _ _ _

theorem Downstream.drivePulse (h : Downstream s u) (bk : BankId) (r : Request) : Downstream s (u.drivePulse bk r) := by
  unfold State.drivePulse
  split
  · exact h
  · exact h.engage _ _ _ _ _

theorem Downstream.grant (h : Downstream s u) (bk : BankId) (r : Request) : Downstream s (u.grant bk r) :=
  (h.makeHolder _ _).drivePulse _ _

theorem Downstream.grantCheck (h : Downstream s u) (bk : BankId) : Downstream s (u.grantCheck bk) := by
  unfold State.grantCheck
  dsimp only
  split
  · exact h
  · split
    · exact h.setBank _ _
    · split
      · exact (h.setBank _ _).grant _ _
      · exact h.setBank _ _

theorem Downstream.recheck (h : Downstream s u) (bk : BankId) (old : Option Request) : Downstream s (u.recheck bk old) := by
  unfold State.recheck
  split
  · exact h
  · exact h.grantCheck bk

theorem Downstream.slipDrop (h : Downstream s u) (bk : BankId) (r : Request) (crowded : Bool) (t : Time) :
    Downstream s (u.slipDrop bk r crowded t) := ((h.modPulse _ _ _ _).conflict _).settle _

theorem Downstream.enterList (h : Downstream s u) (bk : BankId) (r : Request) : Downstream s (u.enterList bk r) :=
  (h.setBank _ _).modPulse _ _ _ _

theorem Downstream.crowd (h : Downstream s u) (bk : BankId) : Downstream s (u.crowd bk) := by
  unfold State.crowd
  split
  · exact (h.setBank _ _).slipDrop _ _ _ _
  · exact h

theorem Downstream.join (h : Downstream s u) (bk : BankId) (r : Request) : Downstream s (u.join bk r) :=
  ((h.enterList _ _).crowd _).grantCheck _

theorem Downstream.request (h : Downstream s u) (bk : BankId) (r : Request) : Downstream s (u.request bk r) := by
  unfold State.request
  split
  · exact ((h.endHolder _ _).conflict _).join _ _
  · split
    · exact h.grant _ _
    · exact h.join _ _

/-! ## The arming unit (Machine/Arming.lean) -/

theorem Downstream.resolveHeld (h : Downstream s u) (k : CylId) (seq : Word) (index : Nat) (o : PulseOutcome) :
    Downstream s (u.resolveHeld k seq index o) := h.modPulse _ _ _ _

theorem Downstream.present (h : Downstream s u) (a : ArmedEntry) : Downstream s (u.present a) := by
  unfold State.present
  split
  · split
    · split
      · exact h.request _ _
      · exact h
    · exact h
  · exact h

theorem Downstream.markLate (h : Downstream s u) (a : ArmedEntry) : Downstream s (u.markLate a) := h.modPulse _ _ _ _

theorem Downstream.unlist (h : Downstream s u) (e : ArmEntry) : Downstream s (u.unlist e) := h.setArm _

theorem Downstream.armPulse (h : Downstream s u) (e : ArmEntry) (start : Time) : Downstream s (u.armPulse e start) :=
  (h.setArm _).modPulse _ _ _ _

theorem Downstream.lateAt {acc : State × List ArmedEntry} (h : Downstream s acc.1) (v : EdgeView) (a : ArmedEntry) :
    Downstream s (State.lateAt v a acc).1 := by
  unfold State.lateAt
  split
  · exact h.markLate _
  · exact (((h.markLate _).resolveHeld _ _ _ _).conflict _).settle _

theorem Downstream.reread (h : Downstream s u) (k : CylId) (seq : Word) : Downstream s (u.reread k seq) := by
  unfold State.reread
  split
  · split
    · exact h.turn
    · exact h
  · exact h

theorem Downstream.armRead {acc : State × List ArmedEntry} (h : Downstream s acc.1) (x : Setup) (v : EdgeView) (e : ArmEntry) :
    Downstream s (State.armRead x v e acc).1 := by
  unfold State.armRead
  split
  · exact (h.resolveHeld _ _ _ _).settle _
  · split
    · exact h.armPulse _ _
    · exact h.lateAt _ _

theorem Downstream.armNow {acc : State × List ArmedEntry} (h : Downstream s acc.1) (x : Setup) (v : EdgeView) (e : ArmEntry) :
    Downstream s (State.armNow x v e acc).1 := Downstream.armRead (acc := (_, _)) (h.reread _ _) _ _ _

theorem Downstream.armStep {acc : State × List ArmedEntry} (h : Downstream s acc.1) (x : Setup) (v : EdgeView) (e : ArmEntry) :
    Downstream s (State.armStep x v acc e).1 := by
  unfold State.armStep
  split
  · exact Downstream.armNow (acc := (_, _)) (h.unlist _) _ _ _
  · exact h

theorem Downstream.armFold (x : Setup) (v : EdgeView) (l : List ArmEntry) : ∀ {acc : State × List ArmedEntry},
    Downstream s acc.1 → Downstream s (l.foldl (State.armStep x v) acc).1 := by
  induction l with
  | nil => exact fun h => h
  | cons e rest ih => exact fun h => ih (h.armStep x v e)

theorem Downstream.presentLate {acc : State × List ArmedEntry} (h : Downstream s acc.1) :
    Downstream s (State.presentLate acc) := Downstream.foldl (fun _ a g => g.present a) _ h

theorem Downstream.armAll (h : Downstream s u) (x : Setup) (v : EdgeView) : Downstream s (u.armAll x v) :=
  (Downstream.armFold x v _ (acc := (u, [])) h).presentLate

theorem Downstream.startRead (h : Downstream s u) (a : ArmedEntry) : Downstream s (u.startRead a) := by
  unfold State.startRead
  split
  · exact (h.resolveHeld _ _ _ _).settle _
  · exact h.present _

theorem Downstream.startPulse (h : Downstream s u) (a : ArmedEntry) : Downstream s (u.startPulse a) :=
  (h.reread _ _).startRead _

end Sys2Proof.Machine
end

