-- ==== Sys2Proof/Laws/FramesLatch.lean ====
section
/-! SUPPORT. What the event latch and the run controller's shared effects leave unchanged (Machine/Latch.lean,
Machine/RunControl.lean, the trim copy of Machine/Setup.lean). -/

namespace Sys2Proof.Machine

variable {s u : State}

/-! ## The hold counts and the trim copy -/

theorem Downstream.setHold (h : Downstream s u) (k : CylId) (n : Nat) : Downstream s (u.setHold k n) :=
  Downstream.statusAll (holdWords_in _ _) (h.setCyl _ _)

theorem Downstream.limitHold (h : Downstream s u) (k : CylId) : Downstream s (u.limitHold k) := by
  unfold State.limitHold
  split
  · exact h.setHold _ _
  · exact h

theorem Downstream.limitHolds (h : Downstream s u) : Downstream s u.limitHolds :=
  Downstream.foldl (fun _ k g => g.limitHold k) _ h

/-- What is kept, followed by an operation behind the tracker. -/
theorem Keeps.andThen {t : State} (h : Keeps s t) (g : Downstream t u) : Keeps s u := h.trans g.toKeeps

theorem Keeps.putTrim (h : Keeps s u) (slot : Slot) (raw : Trim) : Keeps s (u.putTrim slot raw) :=
  Keeps.statusAll (trimWords_in _) { h with }

theorem Downstream.fetchTrim (h : Downstream s u) : Downstream s u.fetchTrim.2 := by
  unfold State.fetchTrim
  split
  · exact h.turn
  · dsimp only [Prod.map, id]
    exact Downstream.fetchWords _ h.turn

theorem Keeps.useTrim (h : Keeps s u) (copy : Option (Slot × Trim)) : Keeps s (u.useTrim copy) := by
  unfold State.useTrim
  split
  · exact (h.putTrim _ _).andThen (Downstream.refl _).limitHolds
  · exact (h.raise _).andThen (Downstream.refl _).limitHolds

theorem Keeps.copyTrim (h : Keeps s u) : Keeps s u.copyTrim := (h.andThen (Downstream.refl _).fetchTrim).useTrim _

/-! ## Records -/

theorem Downstream.setEntries (h : Downstream s u) (x : Setup) (v : EdgeView) : Downstream s (u.setEntries x v) := h.setCyls _

theorem Downstream.writeTakeFields (h : Downstream s u) (i : Nat) (seq : Word) : Downstream s (u.writeTakeFields i seq) := by
  have := recordOffset_ge i
  exact (((h.writeWord _ (by omega)).writeWord _ (by omega)).writeWord _ (by omega)).writeWord _ (by omega)

theorem Downstream.advanceTake (h : Downstream s u) : Downstream s u.advanceTake := h.setLatch _

theorem Downstream.finaliseRecord (h : Downstream s u) (i cylByte : Nat) (o : EventOutcome) (seq : Word) :
    Downstream s (u.finaliseRecord i cylByte o seq) := by
  have := recordOffset_ge i
  exact (((((h.writeTakeFields i seq).writeWord _ (by omega)).writeWord _ (by omega)).writeResults _ _
    (by omega)).writeWord _ (by omega)).advanceTake

theorem Downstream.closeRecord (h : Downstream s u) (v : LatchView) (cylByte : Nat) (o : EventOutcome) (notify : Bool) :
    Downstream s (u.closeRecord v cylByte o notify) := (h.finaliseRecord _ _ _ _).notifyDone _

theorem Downstream.pairServed (h : Downstream s u) (v : LatchView) (cylByte : Nat) (notify : Bool) (plan : List PulseEntry) :
    Downstream s (u.pairServed v cylByte notify plan).1 := by
  have := recordOffset_ge u.latch.takePos
  unfold State.pairServed
  dsimp only
  split
  · exact h.closeRecord _ _ _ _
  · split
    · exact (h.putPart _ (by omega)).advanceTake
    · split
      · exact h.finaliseRecord _ _ _ _
      · exact h

theorem Downstream.takePair (h : Downstream s u) (v : LatchView) (cylByte : Nat) (notify : Bool) (plan : List PulseEntry) :
    Downstream s (u.takePair v cylByte notify plan).1 := h.turn.pairServed _ _ _ _

theorem Downstream.takeEntries (h : Downstream s u) (x : Setup) (v : LatchView) (cylByte : Nat) (notify : Bool)
    (words : Option (List Word)) : Downstream s (u.takeEntries x v cylByte notify words).1 := by
  unfold State.takeEntries
  split
  · exact h.closeRecord _ _ _ _
  · split
    · exact (h.writeTakeFields _ _).takePair _ _ _ _
    · exact h.closeRecord _ _ _ _

theorem Downstream.takeReady (h : Downstream s u) (x : Setup) (v : LatchView) (cylByte : Nat) (notify : Bool) :
    Downstream s (u.takeReady x v cylByte notify).1 := (Downstream.fetchWords _ h).takeEntries _ _ _ _ _

theorem Downstream.takeMatching (h : Downstream s u) (x : Setup) (v : LatchView) (stateByte cylByte : Nat) (notify : Bool) :
    Downstream s (u.takeMatching x v stateByte cylByte notify).1 := by
  unfold State.takeMatching
  split
  · exact h.finaliseRecord _ _ _ _
  · split
    · exact h.finaliseRecord _ _ _ _
    · exact h.takeReady _ _ _ _

theorem Downstream.take (x : Setup) (v : LatchView) (fuel : Nat) : ∀ {u : State}, Downstream s u →
    Downstream s (u.take x v fuel).1 := by
  induction fuel with
  | zero => exact fun h => h
  | succ n ih =>
    intro u h
    have h1 := h.turn
    have h2 := h1.turn
    rw [State.take]
    generalize u.turn.turn = w at h2 ⊢
    generalize u.turn = y at h1 ⊢
    cases y.openRecord x with
    | parity c => exact h1.closeRecord v c .parity false
    | notReady => exact h1
    | invalid c => exact h1.closeRecord v c .invalid false
    | opened stateByte cylByte c =>
      dsimp only
      cases w.placeRecord x v c with
      | bad notify => exact h2.closeRecord v cylByte .parity notify
      | placed place notify =>
        cases place with
        | future => exact h2
        | past => exact ih (h2.closeRecord v cylByte .stale notify)
        | matching => exact h2.takeMatching x v stateByte cylByte notify

/-! ## The take touches the ring, its own items and the flags alone -/

/-- What the take's operations change: the memory, the event latch's items and the event unit. -/
def RingOnly (s t : State) : Prop := t = { s with latch := t.latch, ev := t.ev, mem := t.mem }

theorem RingOnly.refl (s : State) : RingOnly s s := rfl

theorem RingOnly.banks (h : RingOnly s u) : u.banks = s.banks := by
  rw [show u = _ from h]

theorem RingOnly.of (h : RingOnly s u) (l : Latch) (e : EventUnit) (m : Memory) :
    RingOnly s { u with latch := l, ev := e, mem := m } := by
  unfold RingOnly at h ⊢
  rw [h]

theorem RingOnly.turn (h : RingOnly s u) : RingOnly s u.turn := h.of u.latch u.ev u.mem.turn

theorem RingOnly.writeWord (h : RingOnly s u) (off : Nat) (w : Word) : RingOnly s (u.writeWord off w) :=
  h.of u.latch u.ev (u.mem.turn.putPart off w)

theorem RingOnly.raise (h : RingOnly s u) (f : Flag) : RingOnly s (u.raise f) := h.of u.latch (u.raise f).ev u.mem

theorem RingOnly.writeWords (l : List Word) : ∀ {u : State} (off : Nat), RingOnly s u → RingOnly s (u.writeWords off l) := by
  induction l with
  | nil => exact fun _ h => h
  | cons w rest ih => exact fun off h => ih _ (h.writeWord off w)

theorem RingOnly.fetchWords (l : List Nat) : ∀ {u : State}, RingOnly s u → RingOnly s (State.fetchWords l u).2 := by
  induction l with
  | nil => exact fun h => h
  | cons off rest ih =>
    intro u h
    unfold State.fetchWords
    split
    · exact h.turn
    · exact ih h.turn

theorem RingOnly.fetchTrim (h : RingOnly s u) : RingOnly s u.fetchTrim.2 := by
  unfold State.fetchTrim
  split
  · exact h.turn
  · dsimp only [Prod.map, id]
    exact RingOnly.fetchWords _ h.turn

theorem RingOnly.writeTakeFields (h : RingOnly s u) (i : Nat) (seq : Word) : RingOnly s (u.writeTakeFields i seq) :=
  (((h.writeWord _ _).writeWord _ _).writeWord _ _).writeWord _ _

theorem RingOnly.advanceTake (h : RingOnly s u) : RingOnly s u.advanceTake := h.of u.advanceTake.latch u.ev u.mem

theorem RingOnly.finaliseRecord (h : RingOnly s u) (i c : Nat) (o : EventOutcome) (seq : Word) :
    RingOnly s (u.finaliseRecord i c o seq) :=
  ((RingOnly.writeWords _ _ (((h.writeTakeFields i seq).writeWord _ _).writeWord _ _)).writeWord _ _).advanceTake

theorem RingOnly.closeRecord (h : RingOnly s u) (v : LatchView) (c : Nat) (o : EventOutcome) (n : Bool) :
    RingOnly s (u.closeRecord v c o n) := by
  unfold State.closeRecord State.notifyDone
  split
  · exact (h.finaliseRecord _ _ _ _).raise _
  · exact h.finaliseRecord _ _ _ _

theorem RingOnly.pairServed (h : RingOnly s u) (v : LatchView) (c : Nat) (n : Bool) (plan : List PulseEntry) :
    RingOnly s (u.pairServed v c n plan).1 := by
  unfold State.pairServed
  dsimp only
  split
  · exact h.closeRecord _ _ _ _
  · split
    · exact h.of u.advanceTake.latch u.ev _
    · split
      · exact h.finaliseRecord _ _ _ _
      · exact h

theorem RingOnly.takeEntries (h : RingOnly s u) (x : Setup) (v : LatchView) (c : Nat) (n : Bool) (w : Option (List Word)) :
    RingOnly s (u.takeEntries x v c n w).1 := by
  unfold State.takeEntries
  split
  · exact h.closeRecord _ _ _ _
  · split
    · exact (h.writeTakeFields _ _).turn.pairServed _ _ _ _
    · exact h.closeRecord _ _ _ _

theorem RingOnly.takeMatching (h : RingOnly s u) (x : Setup) (v : LatchView) (b c : Nat) (n : Bool) :
    RingOnly s (u.takeMatching x v b c n).1 := by
  unfold State.takeMatching
  split
  · exact h.finaliseRecord _ _ _ _
  · split
    · exact h.finaliseRecord _ _ _ _
    · exact (RingOnly.fetchWords _ h).takeEntries _ _ _ _ _

theorem RingOnly.take (x : Setup) (v : LatchView) (fuel : Nat) : ∀ {u : State}, RingOnly s u →
    RingOnly s (u.take x v fuel).1 := by
  induction fuel with
  | zero => exact fun h => h
  | succ n ih =>
    intro u h
    have h1 := h.turn
    have h2 := h1.turn
    rw [State.take]
    generalize u.turn.turn = w at h2 ⊢
    generalize u.turn = y at h1 ⊢
    cases y.openRecord x with
    | parity c => exact h1.closeRecord v c .parity false
    | notReady => exact h1
    | invalid c => exact h1.closeRecord v c .invalid false
    | opened b c cyl =>
      dsimp only
      cases w.placeRecord x v cyl with
      | bad n => exact h2.closeRecord v c .parity n
      | placed place n =>
        cases place with
        | future => exact h2
        | past => exact ih (h2.closeRecord v c .stale n)
        | matching => exact h2.takeMatching x v b c n

/-! ## Fallback and the latch -/

theorem Downstream.countMiss (h : Downstream s u) (k : CylId) : Downstream s (u.countMiss k) :=
  (Downstream.statusAll (missWords_in _ _) (h.setCyl _ _)).raise _

theorem Downstream.setFuel (h : Downstream s u) (k : CylId) (src : Source) : Downstream s (u.setFuel k src) := h.setCyl _ _

theorem Downstream.holdTo (h : Downstream s u) (k : CylId) (n : Nat) : Downstream s (u.holdTo k n) := by
  unfold State.holdTo
  split
  · exact h
  · exact h.setHold _ _

theorem Downstream.placePulse (h : Downstream s u) (x : Setup) (v : EdgeView) (k : CylId) (e : Event) (p : PulseEntry) :
    Downstream s (u.placePulse x v k e p) := by
  unfold State.placePulse
  dsimp only
  split
  · exact h.resolveHeld _ _ _ _
  · exact h.setArm _

theorem Downstream.enterEvent (h : Downstream s u) (x : Setup) (v : EdgeView) (k : CylId) (e : Event) :
    Downstream s (u.enterEvent x v k e) := by
  unfold State.enterEvent
  split
  · exact h.report _ _
  · exact (Downstream.foldl (fun _ p g => g.placePulse x v k e p) _ (h.setCyl _ _)).settle _

theorem Downstream.useHeld (h : Downstream s u) (k : CylId) (src : Source) : Downstream s (u.useHeld k src) := by
  unfold State.useHeld
  split
  · exact h.setHold _ _
  · exact h

theorem Downstream.enterFuel (h : Downstream s u) (k : CylId) (src : Source) : Downstream s (u.enterFuel k src) := by
  unfold State.enterFuel
  split
  · exact (h.setFuel _ _).raise _
  · exact h.setFuel _ _

theorem Downstream.fallBackTo (h : Downstream s u) (x : Setup) (w : EdgeView) (v : LatchView)
    (choice : Source × List PulseEntry) : Downstream s (u.fallBackTo x w v choice) :=
  ((h.useHeld _ _).enterFuel _ _).enterEvent _ _ _ _

theorem Downstream.fallBack (h : Downstream s u) (x : Setup) (w : EdgeView) (v : LatchView) : Downstream s (u.fallBack x w v) :=
  (h.countMiss _).fallBackTo _ _ _ _

theorem Downstream.fallBackCut (h : Downstream s u) (v : LatchView) (o : EventOutcome) : Downstream s (u.fallBackCut v o) :=
  (h.countMiss _).closeEntry _ _ _ _

theorem Downstream.holdPlan (h : Downstream s u) (k : CylId) (plan : List PulseEntry) : Downstream s (u.holdPlan k plan) :=
  h.setCyl _ _

theorem Downstream.takeEvent (h : Downstream s u) (x : Setup) (w : EdgeView) (k : CylId) (e : Event) :
    Downstream s (u.takeEvent x w k e) := ((h.holdPlan _ _).holdTo _ _).enterEvent _ _ _ _

theorem Downstream.clearHold (h : Downstream s u) (k : CylId) (o : EventOutcome) : Downstream s (u.clearHold k o) := by
  unfold State.clearHold
  split
  · exact h.holdTo _ _
  · exact h

theorem Downstream.planFuel (h : Downstream s u) (v : LatchView) : Downstream s (u.planFuel v) := by
  unfold State.planFuel
  split
  · exact h.setFuel _ _
  · exact h

theorem Downstream.closedEvent (h : Downstream s u) (v : LatchView) (o : EventOutcome) (notify : Bool) :
    Downstream s (u.closedEvent v o notify) := (((h.clearHold _ _).planFuel _).closeEntry _ _ _ _).notifyDone _

theorem Downstream.truncateOwn (h : Downstream s u) (bk : BankId) (k : CylId) (seq : Word) :
    Downstream s (u.truncateOwn bk k seq) := by
  unfold State.truncateOwn
  split
  · split
    · exact h.endHolder _ _
    · exact h
  · exact h

theorem Downstream.overrun (h : Downstream s u) (k : CylId) : Downstream s (u.overrun k) := by
  unfold State.overrun
  split
  · exact h
  · exact ((((h.withdraw _ _).truncateOwn _ _ _).modEvent _ _ _).settle _).recheck _ _

theorem Downstream.lookAhead (h : Downstream s u) : Downstream s u.lookAhead := h.turn.setLatch _

theorem Downstream.served (h : Downstream s u) (x : Setup) (w : EdgeView) (v : LatchView) (out : TakeResult) :
    Downstream s (u.served x w v out) := by
  unfold State.served
  split
  · exact h.takeEvent _ _ _ _
  · exact h.closedEvent _ _ _
  · split
    · exact h.fallBackCut _ _
    · exact h.fallBack _ _ _

theorem Downstream.serveLatch (h : Downstream s u) (x : Setup) (w : EdgeView) (v : LatchView) :
    Downstream s (u.serveLatch x w v) := (Downstream.take x v x.cylCount h).served _ _ _ _

theorem Downstream.modLatch (h : Downstream s u) (f : Latch → Latch) : Downstream s (u.modLatch f) := h.setLatch _

theorem Downstream.serveNext (h : Downstream s u) (x : Setup) (v : EdgeView) (k : CylId) (target : Word) :
    Downstream s (u.serveNext x v k target) := (h.modLatch _).serveLatch _ _ _

theorem Downstream.closeLatch (h : Downstream s u) (k : CylId) (target : Word) : Downstream s (u.closeLatch k target) :=
  (Downstream.statusAll (latchWords_in _) h).setCyl _ _

theorem Downstream.latchCylinder (h : Downstream s u) (x : Setup) (v : EdgeView) (p : CylId × Word) :
    Downstream s (u.latchCylinder x v p) := (((h.overrun _).serveNext _ _ _ _).lookAhead).closeLatch _ _

theorem Downstream.freshEntries (h : Downstream s u) (x : Setup) (v : EdgeView) : Downstream s (u.freshEntries x v) := by
  unfold State.freshEntries
  split
  · exact h.setEntries _ _
  · exact h

theorem Downstream.latchDue (h : Downstream s u) (x : Setup) (v : EdgeView) : Downstream s (u.latchDue x v) :=
  Downstream.foldl (fun _ p g => g.latchCylinder x v p) _ h

theorem Downstream.latchAll (h : Downstream s u) (x : Setup) (v : EdgeView) : Downstream s (u.latchAll x v) := by
  unfold State.latchAll
  split
  · exact ((h.freshEntries _ _).modLatch _).latchDue _ _
  · exact h

/-! ## The run controller -/

theorem Downstream.recover (h : Downstream s u) : Downstream s u.recover := (h.withdraw _ _).settleAll

theorem Downstream.stopEvent (h : Downstream s u) (hr : u.ctl.run = .stopping) : Downstream s u.stopEvent :=
  (h.setStopMode hr (by decide)).checkStopped

theorem Downstream.endCycleMode (h : Downstream s u) : Downstream s u.endCycleMode := by
  unfold State.endCycleMode
  split
  · rename_i hc
    exact h.stopEvent hc.1
  · exact h

theorem Downstream.truncateHolder (h : Downstream s u) (bk : BankId) : Downstream s (u.truncateHolder bk) := h.stopHolder _ _

theorem Downstream.truncateService (h : Downstream s u) (bk : BankId) : Downstream s (u.truncateService bk) := by
  unfold State.truncateService
  split
  · exact h.endHolder _ _
  · exact h

theorem Downstream.truncateServices (h : Downstream s u) : Downstream s u.truncateServices :=
  Downstream.foldl (fun _ bk g => g.truncateService bk) _ h

theorem Downstream.truncateHolders (h : Downstream s u) : Downstream s u.truncateHolders :=
  Downstream.foldl (fun _ bk g => g.truncateHolder bk) _ h

theorem Downstream.stopCut (h : Downstream s u) (hr : u.ctl.run = .stopping) : Downstream s u.stopCut :=
  ((((h.setStopMode hr (by decide)).withdraw _ _).truncateHolders).settleAll).checkStopped

/-- The move to NO_SIGNAL of R1 changes the tracker and its words only. -/
theorem Keeps.idleTracker (h : Keeps s u) : Keeps s u.idleTracker :=
  Keeps.statusAll ((syncWords_in _).append (tLastWords_in _)) (h.setTrk _)

end Sys2Proof.Machine
end

