-- ==== Sys2Proof/Laws/FramesEngine.lean ====
section
/-! SUPPORT. What the engine events, the timer expiries and the comparator changes leave unchanged: `Keeps` for each command
of these three families, from which the frame of each follows. -/

namespace Sys2Proof.Machine

variable {s u : State}

/-! ## The tracker's operations (Machine/Engine.lean) -/

theorem Keeps.recover (h : Keeps s u) : Keeps s u.recover := h.andThen (Downstream.refl _).recover
theorem Keeps.endCycleMode (h : Keeps s u) : Keeps s u.endCycleMode := h.andThen (Downstream.refl _).endCycleMode

theorem Keeps.loseSync (h : Keeps s u) (gap : Bool) : Keeps s (u.loseSync gap) :=
  (((Keeps.statusAll ((syncLossWords_in _).append (syncWords_in _)) (h.setTrk _)).raise _).recover).endCycleMode

theorem Keeps.assumePhase (h : Keeps s u) (x : Setup) : Keeps s (u.assumePhase x) := by
  unfold State.assumePhase
  split
  · exact (h.setTrk _).raise _
  · exact h

theorem Keeps.assumeAtEntry (h : Keeps s u) (x : Setup) : Keeps s (u.assumeAtEntry x) := by
  unfold State.assumeAtEntry
  split
  · exact (Keeps.statusAll (syncWords_in _) h).assumePhase x
  · exact h.assumePhase x

theorem Keeps.losePhase (h : Keeps s u) (x : Setup) : Keeps s (u.losePhase x) :=
  ((((Keeps.statusAll ((syncLossWords_in _).append (syncWords_in _)) (h.setTrk _)).raise _).recover).endCycleMode).assumePhase
    x

theorem Keeps.countMarkerError (h : Keeps s u) : Keeps s u.countMarkerError :=
  (h.setTrk _).status _ (by decide) (by decide)

theorem Keeps.modTrk (h : Keeps s u) (f : Tracker → Tracker) : Keeps s (u.modTrk f) := h.setTrk _

theorem Keeps.checkRun (h : Keeps s u) (x : Setup) : Keeps s (u.checkRun x) := by
  unfold State.checkRun
  split
  · exact h.losePhase x
  · exact h

theorem Keeps.markerError (h : Keeps s u) (x : Setup) : Keeps s (u.markerError x) :=
  (h.countMarkerError.modTrk _).checkRun x

theorem Keeps.checkMissing (h : Keeps s u) (x : Setup) : Keeps s (u.checkMissing x) := by
  unfold State.checkMissing
  split
  · exact h.markerError x
  · exact h

theorem Keeps.cycleBoundary (h : Keeps s u) (x : Setup) : Keeps s (u.cycleBoundary x) :=
  (((h.modTrk _).checkMissing x).modTrk _).copyTrim.endCycleMode

theorem Keeps.syncedEdge (h : Keeps s u) (x : Setup) (tooth : Nat) (zero : Bool) : Keeps s (u.syncedEdge x tooth zero) := by
  unfold State.syncedEdge
  split
  · exact (h.modTrk _).cycleBoundary x
  · exact h.modTrk _

theorem Keeps.trackEdge (h : Keeps s u) (x : Setup) (j : Judgement) : Keeps s (u.trackEdge x j) := by
  unfold State.trackEdge
  split
  · exact h.modTrk _
  · exact h.modTrk _
  · exact (h.modTrk _).assumeAtEntry x
  · split
    · exact h.syncedEdge _ _ _
    · exact h.modTrk _
  · exact h.loseSync _

theorem Keeps.decideEdge (h : Keeps s u) : Keeps s u.decideEdge := h.modTrk _

theorem edgeWords_in (t : Tracker) : StatusWords (edgeWords t) := by
  unfold edgeWords
  split
  · exact ((((edgeTimeWords_in _).append (edgeAngleWords_in _)).append (tLastWords_in _)).append (syncWords_in _)).append
      (cycleWords_in _)
  · exact (syncWords_in _).append (tLastWords_in _)

theorem Keeps.fireEdge (h : Keeps s u) (x : Setup) (r : Bool) : Keeps s (u.fireEdge x r) := by
  unfold State.fireEdge
  split
  · exact h.andThen (((Downstream.refl _).latchAll _ _).armAll _ _)
  · exact h.modTrk _

theorem Keeps.edgeEvent (h : Keeps s u) (x : Setup) (r : Bool) : Keeps s (u.edgeEvent x r) :=
  ((Keeps.statusAll (edgeWords_in _) h).andThen (Downstream.refl _).truncateServices).fireEdge x r

theorem Keeps.judgedEdge (h : Keeps s u) (x : Setup) (j : Judgement) (r : Bool) : Keeps s (u.judgedEdge x j r) :=
  (h.trackEdge _ _).decideEdge.edgeEvent _ _

theorem Keeps.acceptEdge (h : Keeps s u) (x : Setup) (interval : Nat) : Keeps s (u.acceptEdge x interval) :=
  (h.setTrk _).judgedEdge _ _ _

theorem Keeps.rejectEdge (h : Keeps s u) : Keeps s u.rejectEdge := (h.setTrk _).status _ (by decide) (by decide)

theorem Keeps.startTracking (h : Keeps s u) (x : Setup) : Keeps s (u.startTracking x) := (h.setTrk _).edgeEvent _ _

theorem Keeps.crankTaken (h : Keeps s u) (x : Setup) : Keeps s (u.crankTaken x) := by
  unfold State.crankTaken
  split
  · exact h.startTracking x
  · split
    · exact h.startTracking x
    · split
      · exact h.rejectEdge
      · exact h.acceptEdge _ _

theorem Keeps.phaseSlip (h : Keeps s u) : Keeps s u.phaseSlip :=
  ((Keeps.statusAll ((edgeAngleWords_in _).append (syncWords_in _)) (h.setTrk _)).raise _).recover

theorem Keeps.markerUnphased (h : Keeps s u) (c : MarkerClass) : Keeps s (u.markerUnphased c) := by
  unfold State.markerUnphased
  split
  · exact (Keeps.statusAll (syncWords_in _) (h.setTrk _)).raise _
  · exact (Keeps.statusAll ((edgeAngleWords_in _).append (syncWords_in _)) (h.setTrk _)).raise _
  · exact h.countMarkerError

theorem Keeps.markerAssumed (h : Keeps s u) (c : MarkerClass) : Keeps s (u.markerAssumed c) := by
  unfold State.markerAssumed
  split
  · exact Keeps.statusAll (syncWords_in _) (h.setTrk _)
  · exact h.phaseSlip
  · exact h.countMarkerError

theorem Keeps.markerPhased (h : Keeps s u) (x : Setup) (c : MarkerClass) : Keeps s (u.markerPhased x c) := by
  unfold State.markerPhased
  split
  · exact h.modTrk _
  · exact h.phaseSlip
  · exact (h.modTrk _).markerError x

theorem Keeps.markerTaken (h : Keeps s u) (x : Setup) : Keeps s (u.markerTaken x) := by
  unfold State.markerTaken
  dsimp only
  split
  · split
    · exact h.markerAssumed _
    · exact h.markerUnphased _
  · exact h.markerPhased _ _
  · exact h
  · exact h
  · exact h

theorem Keeps.stallNow (h : Keeps s u) : Keeps s u.stallNow :=
  ((Keeps.statusAll ((syncWords_in _).append (tLastWords_in _)) (h.setTrk _)).raise _).recover.endCycleMode

/-! ## The effects of the commands -/

theorem Keeps.crankArrives (h : Keeps s u) (edge : Edge) : Keeps s (u.crankArrives edge) := by
  unfold State.crankArrives
  split
  · split
    · exact h.crankTaken _
    · exact h
  · exact h

theorem Keeps.markerArrives (h : Keeps s u) (edge : Edge) : Keeps s (u.markerArrives edge) := by
  unfold State.markerArrives
  split
  · split
    · exact h.markerTaken _
    · exact h
  · exact h

theorem Keeps.stallExpires (h : Keeps s u) : Keeps s u.stallExpires := by
  unfold State.stallExpires
  split
  · exact (h.setNow _).stallNow
  · exact h

theorem Keeps.startExpires (h : Keeps s u) (sense : BankSense) : Keeps s (u.startExpires sense) := by
  unfold State.startExpires
  split
  · exact ((h.setArm _).expire _ _ _).andThen ((Downstream.refl _).startPulse _)
  · exact h

theorem Keeps.deadlineExpires (h : Keeps s u) (bk : BankId) (seq : Word) (entry : Nat) (sense : BankSense) :
    Keeps s (u.deadlineExpires bk seq entry sense) := by
  unfold State.deadlineExpires
  split
  · exact (h.expire _ _ _).andThen ((((Downstream.refl _).setBank _ _).slipDrop _ _ _ _).recheck _ _)
  · exact h

/-- An effect behind the tracker at a timer's time. -/
theorem Keeps.onTimer (h : Keeps s u) (timer : Option Time) (bk : BankId) (sense : BankSense) {effect : State → State}
    (he : ∀ u, Downstream u (effect u)) : Keeps s (u.onTimer timer bk sense effect) := by
  unfold State.onTimer
  split
  · exact (h.expire _ _ _).andThen (he _)
  · exact h

theorem Keeps.settleExpires (h : Keeps s u) (bk : BankId) : Keeps s (u.settleExpires bk) := by
  unfold State.settleExpires
  split
  · exact (h.setNow _).andThen (((Downstream.refl _).setBank _ _).setMode _ _)
  · exact h

theorem Keeps.durationExpires (h : Keeps s u) (bk : BankId) (sense : BankSense) : Keeps s (u.durationExpires bk sense) := by
  unfold State.durationExpires
  split
  · exact (h.expire _ _ _).andThen ((Downstream.refl _).endPlayed _ _)
  · exact h.onTimer _ _ _ fun u => (Downstream.refl u).endHolder bk _

theorem Downstream.nextPhase (h : Downstream s u) (bk : BankId) : Downstream s (u.nextPhase bk) := by
  unfold State.nextPhase
  split
  · exact h.enterPhase _ _
  · exact h

theorem Downstream.upperChange (h : Downstream s u) (bk : BankId) : Downstream s (u.upperChange bk) := by
  unfold State.upperChange
  split
  · exact h
  · split
    · split
      · exact h.levelReached _ _
      · exact h
    · split
      · exact h.levelReached _ _
      · exact h
    · split
      · exact h.setHolding _ _ _
      · exact h
    · exact h
    · exact h

theorem Downstream.lowerChange (h : Downstream s u) (bk : BankId) : Downstream s (u.lowerChange bk) := by
  unfold State.lowerChange
  split
  · exact h
  · split
    · split
      · exact h.setHolding _ _ _
      · exact h
    · split
      · exact h.quenchEnd _
      · exact h
    · exact h
    · exact h
    · exact h

theorem Downstream.shortChange (h : Downstream s u) (bk : BankId) : Downstream s (u.shortChange bk) := by
  unfold State.shortChange
  split
  · exact h
  · split
    · exact h.endPlayed _ _
    · exact h

/-! ## The commands, with nothing arriving meanwhile -/

/-- A command answers a next state, and keeps what `Keeps` says. -/
def Answers (o : Host.Outcome State Fault Refusal) (s : State) : Prop := ∃ t, o = .next t ∧ Keeps s t

theorem Answers.next {t : State} (h : Keeps s t) : Answers (.next t) s := ⟨t, rfl, h⟩

theorem execCrankEdge_keeps (edge : Edge) (t : Time) (sense : Four BankSense) (s : State) :
    Answers (execCrankEdge edge t sense s) s := .next ((((Keeps.refl s).setNow t).seeAll sense).crankArrives edge)

theorem execMarkerEdge_keeps (edge : Edge) (t : Time) (s : State) : Answers (execMarkerEdge edge t s) s :=
  .next (((Keeps.refl s).setNow t).markerArrives edge)

theorem execStall_keeps (s : State) : Answers (execStall s) s := .next (Keeps.refl s).stallExpires

theorem execStartExpiry_keeps (sense : BankSense) (s : State) : Answers (execStartExpiry sense s) s :=
  .next ((Keeps.refl s).startExpires sense)

theorem execSlipDeadlineExpiry_keeps (bk : BankId) (seq : Word) (entry : BitVec 3) (sense : BankSense) (s : State) :
    Answers (execSlipDeadlineExpiry bk seq entry sense s) s := .next ((Keeps.refl s).deadlineExpires bk seq _ sense)

theorem execHeadTimerExpiry_keeps (bk : BankId) (sense : BankSense) (s : State) :
    Answers (execHeadTimerExpiry bk sense s) s :=
  .next ((Keeps.refl s).onTimer _ _ _ fun u => (Downstream.refl u).grantCheck bk)

theorem execSettleExpiry_keeps (bk : BankId) (s : State) : Answers (execSettleExpiry bk s) s :=
  .next ((Keeps.refl s).settleExpires bk)

theorem execCapExpiry_keeps (bk : BankId) (sense : BankSense) (s : State) : Answers (execCapExpiry bk sense s) s :=
  .next ((Keeps.refl s).onTimer _ _ _ fun u => (Downstream.refl u).endHolder bk _)

theorem execDurationExpiry_keeps (bk : BankId) (sense : BankSense) (s : State) :
    Answers (execDurationExpiry bk sense s) s := .next ((Keeps.refl s).durationExpires bk sense)

theorem execRiseLimitExpiry_keeps (bk : BankId) (sense : BankSense) (s : State) :
    Answers (execRiseLimitExpiry bk sense s) s :=
  .next ((Keeps.refl s).onTimer _ _ _ fun u => (Downstream.refl u).endPlayed bk _)

theorem execFreewheelExpiry_keeps (bk : BankId) (sense : BankSense) (s : State) :
    Answers (execFreewheelExpiry bk sense s) s :=
  .next ((Keeps.refl s).onTimer _ _ _ fun u => (Downstream.refl u).nextPhase bk)

theorem execQuenchExpiry_keeps (bk : BankId) (sense : BankSense) (s : State) :
    Answers (execQuenchExpiry bk sense s) s :=
  .next ((Keeps.refl s).onTimer _ _ _ fun u => (Downstream.refl u).quenchEnd bk)

theorem execUpperInputChange_keeps (bk : BankId) (t : Time) (sense : BankSense) (s : State) :
    Answers (execUpperInputChange bk t sense s) s :=
  .next (((Keeps.refl s).expire _ _ _).andThen ((Downstream.refl _).upperChange _))

theorem execLowerInputChange_keeps (bk : BankId) (t : Time) (sense : BankSense) (s : State) :
    Answers (execLowerInputChange bk t sense s) s :=
  .next (((Keeps.refl s).expire _ _ _).andThen ((Downstream.refl _).lowerChange _))

theorem execShortInputChange_keeps (bk : BankId) (t : Time) (sense : BankSense) (s : State) :
    Answers (execShortInputChange bk t sense s) s :=
  .next (((Keeps.refl s).expire _ _ _).andThen ((Downstream.refl _).shortChange _))

end Sys2Proof.Machine
end

