-- ==== Sys2Proof/Laws/Status.lean ====
section
/-! SUPPORT. The status block's words: writing a list of them is one change of the memory, and what that change does. -/

namespace Sys2Proof.Machine

/-- The memory after the words of a list have been written in their order. -/
def Memory.putAll (l : List (Nat × Word)) (m : Memory) : Memory := l.foldl (fun m p => m.turn.putPart p.1 p.2) m

/-- The memory after an owner has shown the words of a list. -/
def Memory.mirror (live : Bool) (l : List (Nat × Word)) (m : Memory) : Memory := if live then m.putAll l else m

@[simp] theorem State.status_eq (off : Nat) (w : Word) (s : State) :
    s.status off w = s.setMem (s.mem.mirror s.sb.live [(off, w)]) := by
  unfold State.status Memory.mirror
  split <;> rfl

/-- Showing a list of words changes the memory alone. -/
@[simp] theorem State.statusAll_eq (l : List (Nat × Word)) : ∀ s : State,
    s.statusAll l = s.setMem (s.mem.mirror s.sb.live l) := by
  induction l with
  | nil =>
    intro s
    unfold Memory.mirror
    split <;> rfl
  | cons p rest ih =>
    intro s
    show State.statusAll rest (s.status p.1 p.2) = _
    rw [ih, State.status_eq]
    unfold Memory.mirror
    cases h : s.sb.live <;> simp [h, Memory.putAll, State.setMem]

/-- The words of a list lie apart from one another. -/
def Apart (l : List (Nat × Word)) : Prop := l.Pairwise (fun p q => p.1 + 2 ≤ q.1 ∨ q.1 + 2 ≤ p.1)

/-- One word of the part, in a memory between commands. -/
theorem Memory.putOne_calm {m : Memory} (h : m.calm) (off : Nat) (w : Word) :
    m.turn.putPart off w = m.writeWord off w false := by
  rw [Memory.turn_calm h, Memory.putPart_calm h]

theorem Memory.writeWord_calm {m : Memory} (h : m.calm) (off : Nat) (w : Word) (e : Bool) : (m.writeWord off w e).calm :=
  (m.writeWord_port off w e).trans h

theorem Memory.putAll_cons {m : Memory} (h : m.calm) (p : Nat × Word) (l : List (Nat × Word)) :
    m.putAll (p :: l) = (m.writeWord p.1 p.2 false).putAll l := by
  show (m.turn.putPart p.1 p.2).putAll l = _
  rw [Memory.putOne_calm h]

theorem Memory.putAll_sameOutside (l : List (Nat × Word)) : ∀ m : Memory, m.SameOutside (l.map Prod.fst) (m.putAll l) := by
  induction l with
  | nil => exact fun m h => ⟨h, fun a _ => ⟨rfl, rfl⟩⟩
  | cons p rest ih =>
    intro m h
    rw [Memory.putAll_cons h]
    obtain ⟨hc, h1⟩ := ih (m.writeWord p.1 p.2 false) (Memory.writeWord_calm h _ _ _)
    refine ⟨hc, fun a ha => ?_⟩
    have h0 := ha p.1 (by simp)
    have h1 := h1 a (fun off ho => ha off (List.mem_cons_of_mem _ ho))
    exact ⟨h1.1.trans (Memory.readByte_writeWord_ne _ _ _ h0.1 h0.2), h1.2.trans (Memory.byteBad_writeWord_ne _ _ _ h0.1 h0.2)⟩

/-- Reading a word that a change left alone. -/
theorem Memory.SameOutside.word {l : List Nat} {m m' : Memory} (h : m.SameOutside l m') (hm : m.calm) {c : Nat}
    (hc : ∀ off ∈ l, c + 2 ≤ off ∨ off + 2 ≤ c) : m'.readWord c = m.readWord c ∧ m'.wordBad c = m.wordBad c := by
  have h0 := (h hm).2 c (fun off ho => by have := hc off ho; omega)
  have h1 := (h hm).2 (c + 1) (fun off ho => by have := hc off ho; omega)
  unfold Memory.readWord Memory.wordBad
  rw [h0.1, h1.1, h0.2, h1.2]
  exact ⟨rfl, rfl⟩

theorem Memory.putAll_stored (l : List (Nat × Word)) : ∀ m : Memory, Apart l → (∀ p ∈ l, p.1 + 1 < memBytes) →
    m.Stored l (m.putAll l) := by
  induction l with
  | nil => exact fun m _ _ => ⟨m.putAll_sameOutside [], by simp⟩
  | cons p rest ih =>
    intro m ha hr
    refine ⟨m.putAll_sameOutside (p :: rest), fun hm q hq => ?_⟩
    rw [Memory.putAll_cons hm]
    have hw := Memory.writeWord_calm hm p.1 p.2 false
    have ha' := List.pairwise_cons.1 ha
    rcases List.mem_cons.1 hq with rfl | hq
    · have hs := (Memory.putAll_sameOutside rest (m.writeWord q.1 q.2 false)).word hw (c := q.1) (fun off ho => by
        obtain ⟨x, hx, rfl⟩ := List.mem_map.1 ho
        exact ha'.1 x hx)
      have hq := hr q (by simp)
      exact ⟨hs.1.trans (Memory.readWord_writeWord_same _ _ _ hq), hs.2.trans (Memory.wordBad_writeWord_same _ _ _ hq)⟩
    · exact (ih _ ha'.2 (fun x hx => hr x (List.mem_cons_of_mem _ hx))).2 hw q hq

/-- What showing a list of words does. -/
theorem Memory.mirror_shown (live : Bool) {l : List (Nat × Word)} (m : Memory) (ha : Apart l)
    (hr : ∀ p ∈ l, p.1 + 1 < memBytes) : Memory.Shown live l m (m.mirror live l) := by
  unfold Memory.Shown Memory.mirror
  cases live
  · rfl
  · exact m.putAll_stored l ha hr

@[simp] theorem Memory.mirror_nil (live : Bool) (m : Memory) : m.mirror live [] = m := by cases live <;> rfl

/-- Two showings one after another are one showing of both lists. -/
@[simp] theorem Memory.mirror_mirror (live : Bool) (l l' : List (Nat × Word)) (m : Memory) :
    (m.mirror live l).mirror live l' = m.mirror live (l ++ l') := by
  cases live <;> simp [Memory.mirror, Memory.putAll]

/-- A word shown again and again at one offset: what stands in the end is the last of them. -/
theorem Memory.mirror_again (live : Bool) (off : Nat) (l : List Word) (w : Word) (m : Memory) (hr : off + 1 < memBytes) :
    Memory.Shown live [(off, w)] m (m.mirror live ((l ++ [w]).map (Prod.mk off))) := by
  unfold Memory.Shown Memory.mirror
  cases live
  · rfl
  · have hall : ∀ (l : List Word) (m : Memory), m.SameOutside [off] (m.putAll (l.map (Prod.mk off))) := fun l m hm => by
      obtain ⟨h1, h2⟩ := Memory.putAll_sameOutside (l.map (Prod.mk off)) m hm
      exact ⟨h1, fun a ha => h2 a fun o ho => by
        simp only [List.map_map, List.mem_map, Function.comp] at ho
        obtain ⟨_, _, rfl⟩ := ho
        exact ha off (by simp)⟩
    refine ⟨hall _ _, fun hm q hq => ?_⟩
    obtain rfl := List.mem_singleton.1 hq
    have h1 := (hall l m hm).1
    rw [List.map_append, Memory.putAll, List.foldl_append]
    show ((m.putAll (l.map (Prod.mk off))).turn.putPart off w).Shows off w
    rw [Memory.putOne_calm h1]
    exact ⟨Memory.readWord_writeWord_same _ _ _ hr, Memory.wordBad_writeWord_same _ _ _ hr⟩

/-! ## Saturating counters -/

/-- A saturating counter after `n` causes. -/
theorem satCount_iterate (n : Nat) : ∀ w : Word, satCount^[n] w = BitVec.ofNat 16 (min 65535 (w.toNat + n)) := by
  have hs : ∀ w : Word, (satCount w).toNat = min 65535 (w.toNat + 1) := by
    intro w
    unfold satCount
    split
    · subst_vars
      rfl
    · rename_i h
      have h : w.toNat ≠ 65535 := fun g => h (BitVec.eq_of_toNat_eq (by simpa using g))
      have := w.isLt
      rw [BitVec.toNat_add]
      simp
      omega
  induction n with
  | zero =>
    intro w
    apply BitVec.eq_of_toNat_eq
    have := w.isLt
    simp
    omega
  | succ n ih =>
    intro w
    rw [Function.iterate_succ_apply, ih, hs]
    congr 1
    omega

/-- The words that `n` causes of a counter write at its offset, one after another (R182). -/
def countWords (off : Nat) : Nat → Word → List (Nat × Word)
  | 0, _ => []
  | n + 1, w => (off, satCount w) :: countWords off n (satCount w)

theorem countWords_last (off n : Nat) : ∀ w : Word, ∃ l : List Word,
    countWords off (n + 1) w = (l ++ [satCount^[n + 1] w]).map (Prod.mk off) := by
  induction n with
  | zero => exact fun w => ⟨[], rfl⟩
  | succ n ih =>
    intro w
    obtain ⟨l, hl⟩ := ih (satCount w)
    exact ⟨satCount w :: l, by rw [countWords, hl]; rfl⟩

/-- What several causes of one counter show in the end. -/
theorem Memory.mirror_count (live : Bool) (off n : Nat) (w : Word) (m : Memory) (hn : n ≠ 0) (hr : off + 1 < memBytes) :
    Memory.Shown live [(off, satCount^[n] w)] m (m.mirror live (countWords off n w)) := by
  obtain ⟨n, rfl⟩ := Nat.exists_eq_succ_of_ne_zero hn
  obtain ⟨l, hl⟩ := countWords_last off n w
  rw [hl]
  exact m.mirror_again live off _ _ hr

/-- The low samples of an instant: the count, and its word at every one of them (R107). -/
theorem State.countBoostLow_eq (bk : BankId) (n : Nat) : ∀ s : State, s.countBoostLow bk n =
    (s.setBank bk { s.bank bk with boostLowCount := satCount^[n] (s.bank bk).boostLowCount }).setMem
      (s.mem.mirror s.sb.live (countWords (offBank bk + 4) n (s.bank bk).boostLowCount)) := by
  induction n with
  | zero =>
    intro s
    show s = { s with banks := s.banks.set bk (s.banks.get bk), mem := s.mem.mirror s.sb.live [] }
    rw [Four.set_get, Memory.mirror_nil]
  | succ n ih =>
    intro s
    rw [State.countBoostLow, ih]
    simp [countWords, State.countLow, boostLowWords, State.setBank, State.bank, State.setMem, State.setBanks]

/-- Several conflicts: the count, its word at every one of them, and CONFLICT (R101). -/
theorem State.conflicts_eq (bk : BankId) (n : Nat) (hn : n ≠ 0) : ∀ s : State, s.conflicts bk n =
    ((s.setBank bk { s.bank bk with conflicts := satCount^[n] (s.bank bk).conflicts }).setMem
      (s.mem.mirror s.sb.live (countWords (offBank bk + 2) n (s.bank bk).conflicts))).raise .conflict := by
  obtain ⟨n, rfl⟩ := Nat.exists_eq_succ_of_ne_zero hn
  clear hn
  induction n with
  | zero =>
    intro s
    simp [State.conflicts, State.conflict, conflictWords, countWords, State.setBank, State.bank, State.setMem, State.setBanks]
  | succ n ih =>
    intro s
    rw [State.conflicts, ih]
    simp [countWords, State.conflict, conflictWords, State.setBank, State.bank, State.setMem, State.setBanks, State.raise, State.setEv,
      BitVec.or_assoc]

end Sys2Proof.Machine
end

