-- ==== Sys2Proof/Laws/Banks.lean ====
section
/-! SUPPORT. The rules of a bank (`Bank.ok`) through every operation that can change one, and the operations that leave all
banks alone. -/

namespace Sys2Proof.Machine

variable {s : State}

/-! ## Operations that leave the banks alone -/

@[simp] theorem State.modEvent_banks (k : CylId) (seq : Word) (f : Event → Event) (s : State) :
    (s.modEvent k seq f).banks = s.banks := by
  unfold State.modEvent
  split
  · split <;> rfl
  · rfl

@[simp] theorem State.modPulse_banks (k : CylId) (seq : Word) (i : Nat) (f : Pulse → Pulse) (s : State) :
    (s.modPulse k seq i f).banks = s.banks := State.modEvent_banks _ _ _ _

@[simp] theorem State.writeWords_banks (l : List Word) : ∀ (off : Nat) (s : State), (s.writeWords off l).banks = s.banks := by
  induction l with
  | nil => exact fun _ _ => rfl
  | cons w rest ih => exact fun off s => (ih (off + 2) (s.writeWord off w)).trans rfl

@[simp] theorem State.checkStopped_banks (s : State) : s.checkStopped.banks = s.banks := by
  unfold State.checkStopped
  split <;> rfl

@[simp] theorem State.notifyDone_banks (n : Bool) (s : State) : (s.notifyDone n).banks = s.banks := by
  unfold State.notifyDone
  split <;> rfl

@[simp] theorem State.closeEntry_banks (k : CylId) (src : Source) (o : EventOutcome) (seq : Word) (s : State) :
    (s.closeEntry k src o seq).banks = s.banks := by simp [State.closeEntry]

@[simp] theorem State.writeBack_banks (k : CylId) (e : Event) (i : Nat) (s : State) : (s.writeBack k e i).banks = s.banks := by
  simp [State.writeBack, State.writeResults]

@[simp] theorem State.report_banks (k : CylId) (e : Event) (s : State) : (s.report k e).banks = s.banks := by
  unfold State.report
  split <;> simp

@[simp] theorem State.finish_banks (k : CylId) (e : Event) (s : State) : (s.finish k e).banks = s.banks := by
  simp [State.finish]

@[simp] theorem State.settle_banks (k : CylId) (s : State) : (s.settle k).banks = s.banks := by
  unfold State.settle
  split
  · split <;> simp
  · rfl

/-- An operation folded over a list leaves the banks as each of its steps does. -/
theorem foldl_banks {α : Type} {f : State → α → State} (hf : ∀ u a, (f u a).banks = u.banks) (l : List α) :
    ∀ u : State, (l.foldl f u).banks = u.banks := by
  induction l with
  | nil => exact fun _ => rfl
  | cons a rest ih => exact fun u => (ih (f u a)).trans (hf u a)

@[simp] theorem State.settleAll_banks (s : State) : s.settleAll.banks = s.banks :=
  foldl_banks (fun u k => State.settle_banks k u) _ s

@[simp] theorem State.endInEvent_banks (k : CylId) (seq : Word) (i : Nat) (c : PulseCond) (r : PulseResult) (s : State) :
    (s.endInEvent k seq i c r).banks = s.banks := by simp [State.endInEvent]

@[simp] theorem State.serviceDone_banks (r : PulseResult) (s : State) : (s.serviceDone r).banks = s.banks := by
  simp [State.serviceDone]

@[simp] theorem State.clearFaults_banks (k : CylId) (s : State) : (s.clearFaults k).banks = s.banks := by
  simp [State.clearFaults]

@[simp] theorem State.setHold_banks (k : CylId) (n : Nat) (s : State) : (s.setHold k n).banks = s.banks := by
  simp [State.setHold]

/-! ## The rules of one bank -/

/-- The rules hold of a bank whose state, holder and channel are kept and whose wait list is no longer. -/
theorem Bank.ok_of_same {x y : Bank} (h : x.ok) (hm : y.mode = x.mode) (hh : y.holder = x.holder)
    (hc : y.channel = x.channel) (hw : y.waiting.length ≤ x.waiting.length) : y.ok := by
  obtain ⟨h1, h2, h3⟩ := h
  exact ⟨by unfold Bank.holderOk; rw [hm, hh]; exact h1, by unfold Bank.channelOk; rw [hm, hh, hc]; exact h2, hw.trans h3⟩

/-- The rules hold of a bank whose player changes its phase but not the pulse it plays. -/
theorem Bank.ok_of_player {x y : Bank} {p q : Player} (h : x.ok) (hp : x.channel = some p) (hm : y.mode = x.mode)
    (hh : y.holder = x.holder) (hq : y.channel = some q) (hw : y.waiting = x.waiting) (hcyl : q.cyl = p.cyl)
    (hjob : q.job = p.job) (hcond : q.cond = .quench ↔ p.cond = .quench) : y.ok := by
  obtain ⟨h1, h2, h3⟩ := h
  refine ⟨by unfold Bank.holderOk; rw [hm, hh]; exact h1, ?_, by unfold Bank.waitOk; rw [hw]; exact h3⟩
  intro r hr
  rw [hq] at hr
  cases hr
  rw [hm, hh, hcyl, hjob, hcond]
  exact h2 p hp

/-- A bank without a holder has no player. -/
theorem Bank.ok.noChannel {x : Bank} (h : x.ok) (hh : x.holder = none) : x.channel = none := by
  cases hc : x.channel with
  | none => rfl
  | some p =>
    obtain ⟨⟨g, hg, -⟩, -⟩ := h.2.1 p hc
    rw [hh] at hg
    exact nomatch hg

/-- The rules hold of a bank without holder and player, in IDLE or SETTLING. -/
theorem Bank.ok_of_free {x : Bank} (hh : x.holder = none) (hc : x.channel = none) (hm : x.mode = .idle ∨ x.mode = .settling)
    (hw : x.waiting.length ≤ 4) : x.ok := by
  refine ⟨?_, fun p hp => ?_, hw⟩
  · unfold Bank.holderOk
    rw [hh]
    rcases hm with hm | hm <;> simp [hm]
  · rw [hc] at hp
    exact nomatch hp

theorem Bank.reset_ok : Bank.reset.ok := Bank.ok_of_free rfl rfl (.inl rfl) (by decide)

/-! ## The rules of all banks -/

/-- Changing one bank to one that keeps the rules. -/
theorem banksOk_setBank (h : s.banksOk) (bk : BankId) {x : Bank} (hx : x.ok) : (s.setBank bk x).banksOk := by
  intro j
  by_cases hj : j = bk
  · subst hj
    rw [State.bank_setBank]
    exact hx
  · rw [State.bank_setBank_ne _ _ hj]
    exact h j

theorem banksOk_congr {t : State} (h : s.banksOk) (hb : t.banks = s.banks) : t.banksOk := by
  intro bk
  unfold State.bank
  rw [hb]
  exact h bk

theorem banksOk_modPulse (h : s.banksOk) (k : CylId) (seq : Word) (i : Nat) (f : Pulse → Pulse) :
    (s.modPulse k seq i f).banksOk := banksOk_congr h (State.modPulse_banks ..)

theorem banksOk_settle (h : s.banksOk) (k : CylId) : (s.settle k).banksOk := banksOk_congr h (State.settle_banks ..)

theorem banksOk_endInEvent (h : s.banksOk) (k : CylId) (seq : Word) (i : Nat) (c : PulseCond) (r : PulseResult) :
    (s.endInEvent k seq i c r).banksOk := banksOk_congr h (State.endInEvent_banks ..)

/-- The rules through a fold. -/
theorem banksOk_foldl {α : Type} {f : State → α → State} (hf : ∀ u a, u.banksOk → (f u a).banksOk) (l : List α) :
    ∀ {u : State}, u.banksOk → (l.foldl f u).banksOk := by
  induction l with
  | nil => exact fun h => h
  | cons a rest ih => exact fun h => ih (hf _ a h)

theorem banksOk_withdraw (h : s.banksOk) (reach : CylId → Bool) (o : PulseOutcome) : (s.withdraw reach o).banksOk := by
  intro bk
  show (((s.banks.map fun _ x => Bank.withdraw reach x)).get bk).ok
  rw [Four.get_map]
  exact Bank.ok_of_same (h bk) rfl rfl rfl (List.length_filter_le _ _)

theorem banksOk_conflict (h : s.banksOk) (bk : BankId) : (s.conflict bk).banksOk := by
  refine banksOk_congr (banksOk_setBank h bk (x := { s.bank bk with conflicts := satCount (s.bank bk).conflicts })
    (Bank.ok_of_same (h bk) rfl rfl rfl (le_refl _))) ?_
  simp [State.conflict]

theorem banksOk_conflicts (bk : BankId) (n : Nat) : ∀ {s : State}, s.banksOk → (s.conflicts bk n).banksOk := by
  induction n with
  | zero => exact fun h => h
  | succ n ih => exact fun h => ih (banksOk_conflict h bk)

/-- Setting a bank's state and its other fields at once, and writing the state's word. -/
theorem banksOk_setMode (h : s.banksOk) (bk : BankId) (x : Bank) (m : BankMode) (hx : ({ x with mode := m } : Bank).ok) :
    ((s.setBank bk x).setMode bk m).banksOk := by
  refine banksOk_congr (banksOk_setBank h bk hx) ?_
  simp [State.setMode]

theorem banksOk_headCheck (h : s.banksOk) (bk : BankId) : (s.headCheck bk).banksOk := by
  unfold State.headCheck
  dsimp only
  split
  · exact banksOk_setBank h bk (Bank.ok_of_same (h bk) rfl rfl rfl (le_refl _))
  · exact h

/-- A release of a bank whose player is gone. -/
theorem banksOk_release {t : State} (h : s.banksOk) (bk : BankId) (hb : ∀ j, j ≠ bk → t.bank j = s.bank j)
    (hc : (t.bank bk).channel = none) (hw : (t.bank bk).waiting.length ≤ 4) : (t.release bk).banksOk := by
  intro j
  unfold State.release State.setMode
  by_cases hj : j = bk
  · subst hj
    simp only [State.statusAll_eq, State.bank, State.setMem_banks, State.setBank_banks, Four.get_set_same, Four.set_set]
    exact Bank.ok_of_free rfl hc (.inr rfl) hw
  · simp only [State.statusAll_eq, State.bank, State.setMem_banks, State.setBank_banks, Four.set_set, Four.get_set_ne _ _ hj]
    have := hb j hj
    unfold State.bank at this
    rw [this]
    exact h j

theorem banksOk_quarantine (h : s.banksOk) (k : CylId) : (s.quarantine k).banksOk := by
  unfold State.quarantine
  exact banksOk_withdraw (banksOk_congr h (by simp)) _ _

theorem banksOk_quarantineTest (h : s.banksOk) (k : CylId) : (s.quarantineTest k).banksOk := by
  unfold State.quarantineTest
  split
  · exact banksOk_quarantine h k
  · exact h

theorem banksOk_countFault (h : s.banksOk) (k : CylId) : (s.countFault k).banksOk :=
  banksOk_quarantineTest (banksOk_congr h (by simp)) k

theorem banksOk_countEnd (h : s.banksOk) (k : CylId) (o : PulseOutcome) : (s.countEnd k o).banksOk := by
  unfold State.countEnd
  split
  · exact banksOk_countFault h k
  · exact banksOk_congr h (by simp)

theorem banksOk_capCheck (h : s.banksOk) (k : CylId) (seq : Word) (o : PulseOutcome) : (s.capCheck k seq o).banksOk := by
  unfold State.capCheck
  split
  · split
    · exact banksOk_conflicts _ _ (banksOk_withdraw h _ _)
    · exact h
  · exact h

@[simp] theorem State.serviceResult_banks (p : Player) (s : State) : (s.serviceResult p).banks = s.banks := by
  unfold State.serviceResult
  split <;> simp

theorem banksOk_freeBank (h : s.banksOk) (bk : BankId) : (s.freeBank bk).banksOk := by
  refine banksOk_release h bk (fun j hj => State.bank_setBank_ne _ _ hj) (by rw [State.bank_setBank]) ?_
  rw [State.bank_setBank]
  exact (h bk).2.2

theorem banksOk_quenchOver (h : s.banksOk) (bk : BankId) : (s.quenchOver bk).banksOk := by
  unfold State.quenchOver
  split
  · exact h
  · split
    · exact banksOk_headCheck (banksOk_freeBank (banksOk_congr h (by simp)) bk) bk
    · exact banksOk_headCheck (banksOk_modPulse (banksOk_freeBank h bk) _ _ _ _) bk

theorem banksOk_judge (h : s.banksOk) (p : Player) : (s.judge p).banksOk := by
  unfold State.judge
  split
  · exact banksOk_settle h _
  · exact h

theorem banksOk_quenchEnd (h : s.banksOk) (bk : BankId) : (s.quenchEnd bk).banksOk := by
  unfold State.quenchEnd
  split
  · exact h
  · exact banksOk_judge (banksOk_quenchOver h bk) _

theorem banksOk_quenchStanding (h : s.banksOk) (bk : BankId) (level : Nat) : (s.quenchStanding bk level).banksOk := by
  unfold State.quenchStanding
  split
  · exact banksOk_quenchOver h bk
  · exact h

theorem banksOk_startQuench (h : s.banksOk) (bk : BankId) : (s.startQuench bk).banksOk := by
  unfold State.startQuench
  split
  · exact h
  · rename_i p hp
    refine banksOk_quenchStanding (banksOk_setBank h bk ?_) bk _
    exact Bank.ok_of_player (h bk) hp rfl rfl rfl rfl rfl rfl Iff.rfl

@[simp] theorem State.reportEnd_banks (p : Player) (r : PulseResult) (s : State) : (s.reportEnd p r).banks = s.banks := by
  unfold State.reportEnd
  split <;> simp

theorem banksOk_fixEnd (h : s.banksOk) (bk : BankId) (p : Player) (o : PulseOutcome) (hp : (s.bank bk).channel = some p) :
    (s.fixEnd bk p o).banksOk := by
  refine banksOk_congr (banksOk_setMode h bk _ .quench ?_) (State.reportEnd_banks _ _ _)
  refine ⟨?_, ?_, (h bk).2.2⟩
  · obtain ⟨⟨g, hg, -⟩, -⟩ := (h bk).2.1 p hp
    unfold Bank.holderOk
    simp [hg]
  · intro r hr
    cases hr
    exact ⟨((h bk).2.1 p hp).1, by simp⟩

theorem banksOk_capPlayed (h : s.banksOk) (p : Player) (o : PulseOutcome) : (s.capPlayed p o).banksOk := by
  unfold State.capPlayed
  split
  · exact banksOk_capCheck h _ _ _
  · exact h

theorem banksOk_stopPlayed (h : s.banksOk) (bk : BankId) (o : PulseOutcome) : (s.stopPlayed bk o).banksOk := by
  unfold State.stopPlayed
  split
  · exact h
  · rename_i p hp
    split
    · exact h
    · exact banksOk_startQuench (banksOk_capPlayed (banksOk_countEnd (banksOk_fixEnd h bk p o hp) p.cyl o) p o) bk

theorem banksOk_endPlayed (h : s.banksOk) (bk : BankId) (o : PulseOutcome) : (s.endPlayed bk o).banksOk := by
  unfold State.endPlayed
  split
  · exact h
  · dsimp only
    split
    · exact banksOk_judge (banksOk_stopPlayed h bk o) _
    · exact banksOk_stopPlayed h bk o

/-- A dry holder's bank has no player. -/
theorem Bank.ok.dryChannel {x : Bank} {g : Holder} (h : x.ok) (hh : x.holder = some g) (hd : g.dry = true) :
    x.channel = none := by
  cases hc : x.channel with
  | none => rfl
  | some p =>
    obtain ⟨⟨g', hg, -, -, hdry⟩, -⟩ := h.2.1 p hc
    rw [hh] at hg
    cases hg
    rw [hd] at hdry
    exact nomatch hdry

/-- A drop cause leaves the player of every bank as it is. -/
theorem State.capCheck_channel (s : State) (k : CylId) (seq : Word) (o : PulseOutcome) (j : BankId) :
    ((s.capCheck k seq o).bank j).channel = (s.bank j).channel := by
  have hw : ∀ (reach : CylId → Bool) (out : PulseOutcome), ((s.withdraw reach out).bank j).channel = (s.bank j).channel := by
    intro reach out
    show ((s.banks.map fun _ x => Bank.withdraw reach x).get j).channel = _
    rw [Four.get_map]
    rfl
  have hc1 : ∀ (t : State) (bk : BankId), ((t.conflict bk).bank j).channel = (t.bank j).channel := by
    intro t bk
    simp only [State.conflict, State.statusAll_eq, State.bank, State.raise_banks, State.setMem_banks, State.setBank_banks]
    by_cases hj : j = bk
    · subst hj
      rw [Four.get_set_same]
    · rw [Four.get_set_ne _ _ hj]
  have hcf : ∀ (bk : BankId) (n : Nat) (t : State), ((t.conflicts bk n).bank j).channel = (t.bank j).channel := by
    intro bk n
    induction n with
    | zero => exact fun _ => rfl
    | succ n ih => exact fun t => (ih (t.conflict bk)).trans (hc1 t bk)
  unfold State.capCheck
  split
  · split
    · unfold State.dropCapped
      rw [hcf, hw]
    · rfl
  · rfl

theorem banksOk_stopDry (h : s.banksOk) (bk : BankId) (g : Holder) (o : PulseOutcome) (hh : (s.bank bk).holder = some g)
    (hd : g.dry = true) : (s.stopDry bk g o).banksOk := by
  unfold State.stopDry
  split
  · exact h
  · rename_i seq index kind dry hj
    have h0 : (s.setBank bk { s.bank bk with capAt := none, dryEndAt := none }).banksOk := by
      refine banksOk_setBank h bk ?_
      exact Bank.ok_of_same (h bk) rfl rfl rfl (le_refl _)
    have h1 := fun r => banksOk_capCheck (banksOk_endInEvent h0 g.cyl seq index .resolved r) g.cyl seq o
    dsimp only
    refine banksOk_headCheck (banksOk_release (h1 _) bk (fun _ _ => rfl) ?_ ((h1 _) bk).2.2) bk
    rw [State.capCheck_channel]
    unfold State.bank
    rw [State.endInEvent_banks]
    show ((s.banks.set bk _).get bk).channel = none
    rw [Four.get_set_same]
    exact (h bk).dryChannel hh hd

theorem banksOk_endDry (h : s.banksOk) (bk : BankId) (g : Holder) (o : PulseOutcome) (hh : (s.bank bk).holder = some g)
    (hd : g.dry = true) : (s.endDry bk g o).banksOk := by
  unfold State.endDry
  split
  · exact h
  · exact banksOk_settle (banksOk_stopDry h bk g o hh hd) _

theorem banksOk_stopHolder (h : s.banksOk) (bk : BankId) (o : PulseOutcome) : (s.stopHolder bk o).banksOk := by
  unfold State.stopHolder
  split
  · exact h
  · rename_i g hg
    split
    · split
      · rename_i hd
        exact banksOk_stopDry h bk g o hg hd
      · exact banksOk_stopPlayed h bk o
    · exact h

theorem banksOk_endHolder (h : s.banksOk) (bk : BankId) (o : PulseOutcome) : (s.endHolder bk o).banksOk := by
  unfold State.endHolder
  split
  · exact h
  · rename_i g hg
    split
    · split
      · rename_i hd
        exact banksOk_endDry h bk g o hg hd
      · exact banksOk_endPlayed h bk o
    · exact h

/-! ## Playing, granting, requesting -/

theorem banksOk_countLow (h : s.banksOk) (bk : BankId) : (s.countLow bk).banksOk := by
  refine banksOk_congr (banksOk_setBank h bk (x := { s.bank bk with
    boostLowCount := satCount (s.bank bk).boostLowCount }) (Bank.ok_of_same (h bk) rfl rfl rfl (le_refl _))) ?_
  simp [State.countLow]

theorem banksOk_countBoostLow (bk : BankId) (n : Nat) : ∀ {s : State}, s.banksOk → (s.countBoostLow bk n).banksOk := by
  induction n with
  | zero => exact fun h => h
  | succ n ih => exact fun h => ih (banksOk_countLow h bk)

theorem State.countBoostLow_bank (bk : BankId) (n : Nat) : ∀ s : State,
    ((s.countBoostLow bk n).bank bk).channel = (s.bank bk).channel := by
  induction n with
  | zero => exact fun _ => rfl
  | succ n ih => exact fun s => (ih (s.countLow bk)).trans (by simp [State.countLow, State.bank])

/-- A phase in which the player comes to rest is not the quench. -/
theorem playFrom_rest (p : Player) (sense : BankSense) (now : Time) (l : List Ramp) (cond : ChannelCond)
    (timer : Option Time) : ∀ m : PlayMarks, (playFrom p sense now l m).2 = .rest cond timer → cond ≠ .quench := by
  induction l with
  | nil =>
    intro m
    unfold playFrom
    split
    · exact nofun
    · intro h
      cases h
      exact nofun
  | cons r rest ih =>
    intro m
    cases r <;> simp only [playFrom] <;> split
    all_goals first
      | (split
         · exact nofun
         · exact ih _)
      | (split
         · exact nofun
         · intro h
           cases h
           exact nofun)

theorem banksOk_comeToRest (h : s.banksOk) (bk : BankId) {p q : Player} (stop : PlayStop)
    (hp : (s.bank bk).channel = some p) (hq : p.cond ≠ .quench) (hcyl : q.cyl = p.cyl) (hjob : q.job = p.job)
    (hcond : q.cond = p.cond) (hr : ∀ cond timer, stop = .rest cond timer → cond ≠ .quench) :
    (s.comeToRest bk q stop).banksOk := by
  unfold State.comeToRest
  split
  · refine banksOk_endPlayed (banksOk_setBank h bk ?_) bk _
    exact Bank.ok_of_player (h bk) hp rfl rfl rfl rfl hcyl hjob (by rw [hcond])
  · rename_i cond timer
    refine banksOk_setBank h bk ?_
    exact Bank.ok_of_player (h bk) hp rfl rfl rfl rfl hcyl hjob
      ⟨fun e => absurd e (hr cond timer rfl), fun e => absurd e hq⟩

theorem State.playPhases_rest {bk : BankId} {p : Player} {k : Nat} {cond : ChannelCond} {timer : Option Time}
    (h : (s.playPhases bk p k).2 = .rest cond timer) : cond ≠ .quench := by
  unfold State.playPhases at h
  exact playFrom_rest _ _ _ _ _ _ _ h

theorem banksOk_enterPhase (h : s.banksOk) (bk : BankId) (k : Nat)
    (hq : ∀ p, (s.bank bk).channel = some p → p.cond ≠ .quench) : (s.enterPhase bk k).banksOk := by
  unfold State.enterPhase
  split
  · exact h
  · rename_i p hp
    have hr : ∀ cond timer, (s.playPhases bk p k).2 = .rest cond timer → cond ≠ .quench :=
      fun cond timer ht => State.playPhases_rest ht
    generalize s.playPhases bk p k = out at hr ⊢
    have g : ((s.setFreeCount out.1.free).countBoostLow bk out.1.lows).banksOk :=
      banksOk_countBoostLow bk out.1.lows (s := s.setFreeCount out.1.free) h
    refine banksOk_comeToRest (p := p) (q := p.mark out.1) g bk out.2 ?_ (hq p hp) rfl rfl rfl hr
    rw [State.countBoostLow_bank]
    exact hp

/-- The channel of an ACTIVE bank is engaged for its holder, which is not dry. -/
theorem banksOk_engage (h : s.banksOk) (bk : BankId) (job : Job) (k : CylId) (profile duration : Nat) {g : Holder}
    (hh : (s.bank bk).holder = some g) (hj : g.job = job) (hk : g.cyl = k) (hd : g.dry = false)
    (hm : (s.bank bk).mode = .active) : (s.engage bk job k profile duration).banksOk := by
  unfold State.engage
  split
  · exact h
  · dsimp only
    refine banksOk_enterPhase (banksOk_setBank h bk ?_) bk 0 ?_
    · refine ⟨(h bk).1, ?_, (h bk).2.2⟩
      intro p hp
      cases hp
      exact ⟨⟨g, hh, hk, hj, hd⟩, by simp [hm, Setup.player]⟩
    · intro p hp
      rw [State.bank_setBank] at hp
      cases hp
      exact nofun

theorem banksOk_makeHolder (h : s.banksOk) (bk : BankId) (r : Request) (hh : (s.bank bk).holder = none) :
    (s.makeHolder bk r).banksOk ∧ ((s.makeHolder bk r).bank bk).mode = .active
      ∧ ((s.makeHolder bk r).bank bk).holder = some ⟨.event r.seq r.index r.kind r.dry, r.cyl, s.now⟩ := by
  have e : ∀ x : Bank, ((((s.setBank bk x).setMode bk .active).modPulse r.cyl r.seq r.index (fun p =>
      { p with cond := .active, slip := Time.since s.now r.start, startAngle := s.startAngle r.cyl })).bank bk)
        = { x with mode := .active } := by
    intro x
    simp [State.bank, State.setMode]
  unfold State.makeHolder
  refine ⟨banksOk_modPulse (banksOk_setMode h bk _ .active ?_) _ _ _ _, ?_, ?_⟩
  · refine ⟨?_, ?_, (h bk).2.2⟩
    · unfold Bank.holderOk
      simp [Bank.grantedTo]
    · intro p hp
      have := (h bk).noChannel hh
      dsimp only [Bank.grantedTo] at hp
      rw [this] at hp
      exact nomatch hp
  · rw [e]
  · rw [e]
    rfl

theorem banksOk_grant (h : s.banksOk) (bk : BankId) (r : Request) (hh : (s.bank bk).holder = none) :
    (s.grant bk r).banksOk := by
  obtain ⟨g, hm, hg⟩ := banksOk_makeHolder h bk r hh
  unfold State.grant State.drivePulse
  split
  · exact g
  · rename_i hd
    have hd' : r.dry = false := by simpa using hd
    exact banksOk_engage g bk _ _ _ _ hg rfl rfl (by unfold Holder.dry; exact hd') hm

theorem banksOk_grantCheck (h : s.banksOk) (bk : BankId) : (s.grantCheck bk).banksOk := by
  unfold State.grantCheck
  dsimp only
  split
  · exact h
  · rename_i hh
    have hh' : (s.bank bk).holder = none := by simpa using hh
    split
    · exact banksOk_setBank h bk (Bank.ok_of_same (h bk) rfl rfl rfl (le_refl _))
    · rename_i r rest hw
      split
      · refine banksOk_grant (banksOk_setBank h bk ?_) bk r ?_
        · refine Bank.ok_of_same (h bk) rfl rfl rfl ?_
          rw [hw]
          exact Nat.le_succ _
        · rw [State.bank_setBank]
          exact hh'
      · exact banksOk_setBank h bk (Bank.ok_of_same (h bk) rfl rfl rfl (le_refl _))

theorem banksOk_recheck (h : s.banksOk) (bk : BankId) (old : Option Request) : (s.recheck bk old).banksOk := by
  unfold State.recheck
  split
  · exact h
  · exact banksOk_grantCheck h bk

theorem banksOk_slipDrop (h : s.banksOk) (bk : BankId) (r : Request) (c : Bool) (t : Time) :
    (s.slipDrop bk r c t).banksOk := by
  unfold State.slipDrop
  exact banksOk_settle (banksOk_conflict (banksOk_modPulse h _ _ _ _) bk) _

theorem insertBy_length {α : Type} (before : α → α → Bool) (x : α) (l : List α) :
    (insertBy before x l).length = l.length + 1 := by
  induction l with
  | nil => rfl
  | cons y rest ih =>
    unfold insertBy
    split
    · rfl
    · simp [ih]

/-- Removing an entry of a list shortens it. -/
theorem remove_length {l : List Request} {r : Request} (h : r ∈ l) :
    (l.filter (fun y => !(y.seq == r.seq && y.index == r.index))).length + 1 ≤ l.length := by
  have : (l.filter (fun y => !(y.seq == r.seq && y.index == r.index))).length < l.length :=
    List.length_filter_lt_length_iff_exists.2 ⟨r, h, by simp⟩
  omega

/-- All banks but one keep the rules, and that one all but the length of its wait list. -/
theorem banksOk_crowd (bk : BankId) (h : ∀ j, j ≠ bk → (s.bank j).ok) (h1 : (s.bank bk).holderOk) (h2 : (s.bank bk).channelOk)
    (hw : (s.bank bk).waiting.length ≤ 5) : (s.crowd bk).banksOk := by
  unfold State.crowd
  split
  · rename_i last hl
    refine banksOk_slipDrop ?_ bk last true _
    intro j
    by_cases hj : j = bk
    · subst hj
      rw [State.bank_setBank]
      have hmem : last ∈ (s.bank j).waiting := by
        unfold crowdedOut at hl
        split at hl
        · exact List.mem_of_getLast? hl
        · exact nomatch hl
      have hlen := remove_length hmem
      refine ⟨h1, h2, ?_⟩
      show ((s.bank j).waiting.filter _).length ≤ 4
      omega
    · rw [State.bank_setBank_ne _ _ hj]
      exact h j hj
  · rename_i hl
    intro j
    by_cases hj : j = bk
    · subst hj
      refine ⟨h1, h2, ?_⟩
      show (s.bank j).waiting.length ≤ 4
      unfold crowdedOut at hl
      split at hl
      · rename_i h5
        cases hc : (s.bank j).waiting with
        | nil => simp
        | cons a rest => simp [hc] at hl
      · omega
    · exact h j hj

theorem State.enterList_bank (s : State) (bk : BankId) (r : Request) :
    (s.enterList bk r).bank bk = (s.bank bk).listed r := by simp [State.enterList, State.bank]

theorem State.enterList_bank_ne (s : State) {bk j : BankId} (r : Request) (hj : j ≠ bk) :
    (s.enterList bk r).bank j = s.bank j := by simp [State.enterList, State.bank, Four.get_set_ne _ _ hj]

theorem banksOk_join (h : s.banksOk) (bk : BankId) (r : Request) : (s.join bk r).banksOk := by
  refine banksOk_grantCheck (banksOk_crowd bk (fun j hj => ?_) ?_ ?_ ?_) bk
  · rw [State.enterList_bank_ne _ _ hj]
    exact h j
  · rw [State.enterList_bank]
    exact (h bk).1
  · rw [State.enterList_bank]
    exact (h bk).2.1
  · rw [State.enterList_bank]
    show (insertBy Request.before r (s.bank bk).waiting).length ≤ 5
    rw [insertBy_length]
    have : (s.bank bk).waiting.length ≤ 4 := (h bk).2.2
    omega

theorem banksOk_request (h : s.banksOk) (bk : BankId) (r : Request) : (s.request bk r).banksOk := by
  unfold State.request
  split
  · exact banksOk_join (banksOk_conflict (banksOk_endHolder h bk _) bk) bk r
  · split
    · rename_i hg
      refine banksOk_grant h bk r ?_
      unfold Bank.grantsAtOnce at hg
      simp only [Bool.and_eq_true, Option.isNone_iff_eq_none] at hg
      exact hg.1.1.1
    · exact banksOk_join h bk r

end Sys2Proof.Machine
end

