-- ==== Sys2Proof/Laws/BanksEngine.lean ====
section
/-! SUPPORT. The rules of the banks through arming, latching, the run controller's shared effects and the tracker. -/

namespace Sys2Proof.Machine

variable {s : State}

/-! ## Arming -/

theorem banksOk_resolveHeld (h : s.banksOk) (k : CylId) (seq : Word) (i : Nat) (o : PulseOutcome) :
    (s.resolveHeld k seq i o).banksOk := banksOk_modPulse h _ _ _ _

theorem banksOk_present (h : s.banksOk) (a : ArmedEntry) : (s.present a).banksOk := by
  unfold State.present
  split
  · split
    · split
      · exact banksOk_request h _ _
      · exact h
    · exact h
  · exact h

theorem banksOk_lateAt {acc : State × List ArmedEntry} (h : acc.1.banksOk) (v : EdgeView) (a : ArmedEntry) :
    (State.lateAt v a acc).1.banksOk := by
  unfold State.lateAt
  split
  · dsimp only
    exact banksOk_modPulse h _ _ _ _
  · dsimp only
    exact banksOk_settle (banksOk_conflict (banksOk_resolveHeld (banksOk_modPulse h _ _ _ _) _ _ _ _) _) _

theorem banksOk_armRead {acc : State × List ArmedEntry} (h : acc.1.banksOk) (x : Setup) (v : EdgeView) (e : ArmEntry) :
    (State.armRead x v e acc).1.banksOk := by
  unfold State.armRead
  split
  · dsimp only
    exact banksOk_settle (banksOk_resolveHeld h _ _ _ _) _
  · split
    · dsimp only
      unfold State.armPulse
      refine banksOk_modPulse ?_ _ _ _ _
      exact h
    · exact banksOk_lateAt h _ _

@[simp] theorem State.reread_banks (k : CylId) (seq : Word) (s : State) : (s.reread k seq).banks = s.banks := by
  unfold State.reread
  split
  · split <;> rfl
  · rfl

theorem banksOk_armNow {acc : State × List ArmedEntry} (h : acc.1.banksOk) (x : Setup) (v : EdgeView) (e : ArmEntry) :
    (State.armNow x v e acc).1.banksOk :=
  banksOk_armRead (acc := (_, _)) (banksOk_congr h (State.reread_banks ..)) _ _ _

theorem banksOk_armStep {acc : State × List ArmedEntry} (h : acc.1.banksOk) (x : Setup) (v : EdgeView) (e : ArmEntry) :
    (State.armStep x v acc e).1.banksOk := by
  unfold State.armStep
  split
  · exact banksOk_armNow (acc := (State.unlist e acc.1, acc.2)) h _ _ _
  · exact h

theorem banksOk_armAll (h : s.banksOk) (x : Setup) (v : EdgeView) : (s.armAll x v).banksOk := by
  have fold : ∀ (l : List ArmEntry) (acc : State × List ArmedEntry), acc.1.banksOk →
      (l.foldl (State.armStep x v) acc).1.banksOk := by
    intro l
    induction l with
    | nil => exact fun _ h => h
    | cons e rest ih => exact fun acc h => ih _ (banksOk_armStep h x v e)
  exact banksOk_foldl (fun _ a g => banksOk_present g a) _ (fold _ (s, []) h)

theorem banksOk_startPulse (h : s.banksOk) (a : ArmedEntry) : (s.startPulse a).banksOk := by
  have g := banksOk_congr h (State.reread_banks a.entry.cyl a.entry.seq s)
  unfold State.startPulse State.startRead
  split
  · exact banksOk_settle (banksOk_resolveHeld g _ _ _ _) _
  · exact banksOk_present g _

/-! ## The take leaves the banks alone -/

theorem State.take_banks (x : Setup) (v : LatchView) (fuel : Nat) (s : State) : (s.take x v fuel).1.banks = s.banks :=
  (RingOnly.take x v fuel (.refl s)).banks

@[simp] theorem State.countMiss_banks (k : CylId) (s : State) : (s.countMiss k).banks = s.banks := by simp [State.countMiss]

@[simp] theorem State.holdTo_banks (k : CylId) (n : Nat) (s : State) : (s.holdTo k n).banks = s.banks := by
  unfold State.holdTo
  split <;> simp

@[simp] theorem State.placePulse_banks (x : Setup) (v : EdgeView) (k : CylId) (e : Event) (s : State) (p : PulseEntry) :
    (s.placePulse x v k e p).banks = s.banks := by
  unfold State.placePulse
  dsimp only
  split <;> simp [State.resolveHeld]

@[simp] theorem State.enterEvent_banks (x : Setup) (v : EdgeView) (k : CylId) (e : Event) (s : State) :
    (s.enterEvent x v k e).banks = s.banks := by
  unfold State.enterEvent
  split
  · simp
  · rw [State.settle_banks, foldl_banks (fun u p => State.placePulse_banks x v k e u p)]
    rfl

@[simp] theorem State.fallBack_banks (x : Setup) (w : EdgeView) (v : LatchView) (s : State) :
    (s.fallBack x w v).banks = s.banks := by
  have h1 : ∀ (src : Source) (u : State), (u.useHeld v.cyl src).banks = u.banks := by
    intro src u
    unfold State.useHeld
    split <;> simp
  have h2 : ∀ (src : Source) (u : State), (u.enterFuel v.cyl src).banks = u.banks := by
    intro src u
    unfold State.enterFuel
    split <;> simp [State.setFuel]
  unfold State.fallBack State.fallBackNow State.fallBackTo
  rw [State.enterEvent_banks, h2, h1, State.countMiss_banks]

@[simp] theorem State.closedEvent_banks (v : LatchView) (o : EventOutcome) (n : Bool) (s : State) :
    (s.closedEvent v o n).banks = s.banks := by
  have h1 : ∀ u : State, (u.clearHold v.cyl o).banks = u.banks := by
    intro u
    unfold State.clearHold
    split <;> simp
  have h2 : ∀ u : State, (u.planFuel v).banks = u.banks := by
    intro u
    unfold State.planFuel
    split <;> simp [State.setFuel]
  unfold State.closedEvent
  rw [State.notifyDone_banks, State.closeEntry_banks, h2, h1]

@[simp] theorem State.served_banks (x : Setup) (w : EdgeView) (v : LatchView) (out : TakeResult) (s : State) :
    (s.served x w v out).banks = s.banks := by
  unfold State.served
  split
  · simp [State.takeEvent, State.holdPlan]
  · simp
  · split
    · simp [State.fallBackCut]
    · simp

@[simp] theorem State.serveLatch_banks (x : Setup) (w : EdgeView) (v : LatchView) (s : State) :
    (s.serveLatch x w v).banks = s.banks := (State.served_banks ..).trans (State.take_banks ..)

/-! ## The latch -/

theorem banksOk_truncateOwn (h : s.banksOk) (bk : BankId) (k : CylId) (seq : Word) : (s.truncateOwn bk k seq).banksOk := by
  unfold State.truncateOwn
  split
  · split
    · exact banksOk_endHolder h _ _
    · exact h
  · exact h

theorem banksOk_overrun (h : s.banksOk) (k : CylId) : (s.overrun k).banksOk := by
  unfold State.overrun
  split
  · exact h
  · exact banksOk_recheck (banksOk_settle (banksOk_congr (banksOk_truncateOwn (banksOk_withdraw h _ _) _ _ _)
      (State.modEvent_banks ..)) k) _ _

theorem banksOk_latchCylinder (h : s.banksOk) (x : Setup) (v : EdgeView) (p : CylId × Word) :
    (s.latchCylinder x v p).banksOk := by
  refine banksOk_congr (banksOk_overrun h p.1) ?_
  simp [State.latchCylinder, State.closeLatch, State.lookAhead, State.judgeAhead, State.serveNext]

theorem banksOk_latchAll (h : s.banksOk) (x : Setup) (v : EdgeView) : (s.latchAll x v).banksOk := by
  unfold State.latchAll State.latchDue
  split
  · refine banksOk_foldl (fun _ p g => banksOk_latchCylinder g x v p) _ (banksOk_congr h ?_)
    unfold State.freshEntries
    split <;> rfl
  · exact h

/-! ## The run controller and the tracker -/

theorem banksOk_recover (h : s.banksOk) : s.recover.banksOk := banksOk_congr (banksOk_withdraw h _ _) (State.settleAll_banks _)

theorem State.endCycleMode_banks (s : State) : s.endCycleMode.banks = s.banks := by
  unfold State.endCycleMode
  split
  · simp [State.stopEvent, State.setStopMode]
  · rfl

theorem banksOk_endCycleMode (h : s.banksOk) : s.endCycleMode.banksOk := banksOk_congr h (State.endCycleMode_banks s)

theorem banksOk_truncateServices (h : s.banksOk) : s.truncateServices.banksOk := by
  refine banksOk_foldl (fun u bk g => ?_) _ h
  unfold State.truncateService
  split
  · exact banksOk_endHolder g _ _
  · exact g

theorem banksOk_truncateHolders (h : s.banksOk) : s.truncateHolders.banksOk :=
  banksOk_foldl (fun _ bk g => banksOk_stopHolder g bk .truncated) _ h

theorem banksOk_stopCut (h : s.banksOk) : s.stopCut.banksOk := by
  have g : ((s.setStopMode .cut).withdraw (fun _ => true) .stopDrop).truncateHolders.banksOk :=
    banksOk_truncateHolders (banksOk_withdraw (s := s.setStopMode .cut) h _ _)
  exact banksOk_congr g (by simp [State.stopCut])

theorem State.limitHolds_banks (s : State) : s.limitHolds.banks = s.banks :=
  foldl_banks (fun u k => by unfold State.limitHold; split <;> simp) _ s

theorem State.useTrim_banks (copy : Option (Slot × Trim)) (s : State) : (s.useTrim copy).banks = s.banks := by
  unfold State.useTrim
  split <;> simp [State.limitHolds_banks, State.putTrim]

@[simp] theorem State.copyTrim_banks (s : State) : s.copyTrim.banks = s.banks :=
  (State.useTrim_banks ..).trans (RingOnly.refl s).fetchTrim.banks

theorem banksOk_loseSync (h : s.banksOk) (gap : Bool) : (s.loseSync gap).banksOk :=
  banksOk_endCycleMode (banksOk_recover (banksOk_congr h (by simp)))

@[simp] theorem State.assumePhase_banks (x : Setup) (s : State) : (s.assumePhase x).banks = s.banks := by
  unfold State.assumePhase
  split <;> rfl

@[simp] theorem State.assumeAtEntry_banks (x : Setup) (s : State) : (s.assumeAtEntry x).banks = s.banks := by
  unfold State.assumeAtEntry
  split <;> simp

theorem banksOk_losePhase (h : s.banksOk) (x : Setup) : (s.losePhase x).banksOk :=
  banksOk_congr (banksOk_endCycleMode (banksOk_recover (banksOk_congr h (by simp)))) (State.assumePhase_banks x _)

theorem banksOk_markerError (h : s.banksOk) (x : Setup) : (s.markerError x).banksOk := by
  have g : (s.countMarkerError.modTrk fun t => { t with errorRun := t.errorRun + 1 }).banksOk :=
    banksOk_congr h (by simp [State.countMarkerError])
  unfold State.markerError State.checkRun
  split
  · exact banksOk_losePhase g x
  · exact g

theorem banksOk_checkMissing (h : s.banksOk) (x : Setup) : (s.checkMissing x).banksOk := by
  unfold State.checkMissing
  split
  · exact banksOk_markerError h x
  · exact h

theorem banksOk_cycleBoundary (h : s.banksOk) (x : Setup) : (s.cycleBoundary x).banksOk := by
  unfold State.cycleBoundary
  refine banksOk_endCycleMode ?_
  refine banksOk_congr ?_ (State.copyTrim_banks _)
  exact banksOk_checkMissing (s := s.modTrk _) h x

theorem banksOk_syncedEdge (h : s.banksOk) (x : Setup) (tooth : Nat) (zero : Bool) : (s.syncedEdge x tooth zero).banksOk := by
  unfold State.syncedEdge
  split
  · exact banksOk_cycleBoundary (s := s.modTrk _) h x
  · exact h

theorem banksOk_trackEdge (h : s.banksOk) (x : Setup) (j : Judgement) : (s.trackEdge x j).banksOk := by
  unfold State.trackEdge
  split
  · exact h
  · exact h
  · exact banksOk_congr (s := s.modTrk _) h (State.assumeAtEntry_banks x _)
  · split
    · exact banksOk_syncedEdge h x _ _
    · exact h
  · exact banksOk_loseSync h _

theorem banksOk_fireEdge (h : s.banksOk) (x : Setup) (r : Bool) : (s.fireEdge x r).banksOk := by
  unfold State.fireEdge
  split
  · exact banksOk_armAll (banksOk_latchAll h _ _) _ _
  · exact h

theorem banksOk_edgeEvent (h : s.banksOk) (x : Setup) (r : Bool) : (s.edgeEvent x r).banksOk :=
  banksOk_fireEdge (banksOk_truncateServices (banksOk_congr h (by simp))) x r

theorem banksOk_startTracking (h : s.banksOk) (x : Setup) : (s.startTracking x).banksOk := by
  unfold State.startTracking
  refine banksOk_edgeEvent ?_ x false
  exact h

theorem banksOk_judgedEdge (h : s.banksOk) (x : Setup) (j : Judgement) (r : Bool) : (s.judgedEdge x j r).banksOk := by
  unfold State.judgedEdge
  refine banksOk_edgeEvent ?_ x r
  exact banksOk_trackEdge h x j

theorem banksOk_acceptEdge (h : s.banksOk) (x : Setup) (interval : Nat) : (s.acceptEdge x interval).banksOk := by
  unfold State.acceptEdge
  refine banksOk_judgedEdge ?_ x _ _
  exact h

theorem banksOk_crankTaken (h : s.banksOk) (x : Setup) : (s.crankTaken x).banksOk := by
  unfold State.crankTaken
  split
  · exact banksOk_startTracking h x
  · split
    · exact banksOk_startTracking h x
    · split
      · exact banksOk_congr h (by simp [State.rejectEdge])
      · exact banksOk_acceptEdge h x _

theorem banksOk_phaseSlip (h : s.banksOk) : s.phaseSlip.banksOk := banksOk_recover (banksOk_congr h (by simp))

theorem banksOk_markerPhased (h : s.banksOk) (x : Setup) (c : MarkerClass) : (s.markerPhased x c).banksOk := by
  unfold State.markerPhased
  split
  · exact h
  · exact banksOk_phaseSlip h
  · exact banksOk_markerError (s := s.modTrk _) h x

theorem banksOk_markerTaken (h : s.banksOk) (x : Setup) : (s.markerTaken x).banksOk := by
  unfold State.markerTaken
  dsimp only
  split
  · split
    · unfold State.markerAssumed
      split
      · exact banksOk_congr h (by simp)
      · exact banksOk_phaseSlip h
      · exact banksOk_congr h (by simp [State.countMarkerError])
    · unfold State.markerUnphased
      split <;> exact banksOk_congr h (by simp [State.countMarkerError])
  · exact banksOk_markerPhased h x _
  · exact h
  · exact h
  · exact h

theorem banksOk_stallNow (h : s.banksOk) : s.stallNow.banksOk :=
  banksOk_endCycleMode (banksOk_recover (banksOk_congr h (by simp)))

end Sys2Proof.Machine
end

