-- ==== Sys2Proof/Laws/Recover.lean ====
section
/-! SUPPORT. What the drops leave: after a withdrawal that reaches every cylinder no pulse waits for an angle, a start or a bank
(R23, R136), what holds a bank is as it was, and judging completed events changes neither. -/

namespace Sys2Proof.Machine

/-! ## Pulses and events -/

/-- A dropped pulse is beyond any further drop. -/
theorem Pulse.drop_not_droppable (t : Time) (o : PulseOutcome) (p : Pulse) : (p.drop t o).cond.droppable = false := by
  unfold Pulse.drop
  split
  · rfl
  · simp_all

/-- An event that keeps a pulse beside those of an entry is not complete, whatever that entry's pulse becomes. -/
theorem Event.others_not_done {e : Event} {i : Nat} (h : e.others i) (f : Pulse → Pulse) :
    (modPulses i f e.pulses).all (fun p => p.cond == .resolved) = false := by
  obtain ⟨q, hq, h1, h2⟩ := h
  simp [modPulses]
  exact ⟨q, hq, by simp [h1, h2]⟩

/-! ## Judging completed events -/

theorem State.checkStopped_cyls (s : State) : s.checkStopped.cyls = s.cyls := by
  unfold State.checkStopped
  split <;> rfl

theorem State.checkStopped_arm (s : State) : s.checkStopped.arm = s.arm := by
  unfold State.checkStopped
  split <;> rfl

theorem State.writeWords_cyls : ∀ (l : List Word) (o : Nat) (s : State), (s.writeWords o l).cyls = s.cyls
  | [], _, _ => rfl
  | _ :: l, o, s => State.writeWords_cyls l (o + 2) (s.writeWord o _)

theorem State.writeWords_arm : ∀ (l : List Word) (o : Nat) (s : State), (s.writeWords o l).arm = s.arm
  | [], _, _ => rfl
  | _ :: l, o, s => State.writeWords_arm l (o + 2) (s.writeWord o _)

theorem State.report_arm (s : State) (k : CylId) (e : Event) : (s.report k e).arm = s.arm := by
  simp only [State.report]
  cases e.record <;>
    simp [State.closeEntry, State.notifyDone, State.writeBack, State.writeResults, State.writeWord, State.setCyl] <;>
    split <;> simp [State.writeWords_arm, State.raise]

/-- Reporting an event leaves every event in the table where it is. -/
theorem State.report_event (s : State) (k j : CylId) (e : Event) : ((s.report k e).cyl j).event = (s.cyl j).event := by
  by_cases hj : j = k
  · subst hj
    simp only [State.report]
    cases e.record <;>
      simp [State.closeEntry, State.notifyDone, State.writeBack, State.writeResults, State.writeWords_cyls, State.writeWord,
        State.setCyl, State.cyl] <;>
      split <;> simp [State.raise]
  · simp only [State.report]
    cases e.record <;>
      simp [State.closeEntry, State.notifyDone, State.writeBack, State.writeResults, State.writeWords_cyls, State.writeWord,
        State.setCyl, State.cyl] <;>
      split <;> simp [State.raise, Eight.get_set_ne _ _ hj]

theorem State.settle_arm (s : State) (k : CylId) : (s.settle k).arm = s.arm := by
  unfold State.settle
  split
  · split
    · simp only [State.finish, State.checkStopped_arm]
      exact State.report_arm s k _
    · rfl
  · rfl

/-- Judging an event brings none into the table. -/
theorem State.settle_event {s : State} {k j : CylId} {e : Event} (h : ((s.settle k).cyl j).event = some e) :
    (s.cyl j).event = some e := by
  unfold State.settle at h
  split at h
  · split at h
    · simp only [State.finish, State.cyl, State.checkStopped_cyls] at h
      by_cases hj : j = k
      · subst hj
        simp [State.setCyl] at h
      · simp only [State.setCyl, State.setCyls_cyls, Eight.get_set_ne _ _ hj] at h
        exact (State.report_event s k j _).symm.trans h
    · exact h
  · exact h

/-! ## Nothing waits -/

/-- No pulse waits for an angle, a start or a bank: the pending list, the armed set and every wait list are empty, and no
pulse of the event table is PENDING, ARMED or WAITING. -/
def State.nothingWaits (s : State) : Prop :=
  s.arm.pendingList = [] ∧ s.arm.armedSet = [] ∧ (∀ bk, (s.bank bk).waiting = [])
    ∧ ∀ k e, (s.cyl k).event = some e → ∀ p ∈ e.pulses, p.cond.droppable = false

theorem State.withdraw_nothingWaits (s : State) (o : PulseOutcome) : (s.withdraw (fun _ => true) o).nothingWaits := by
  refine ⟨by simp [State.withdraw], by simp [State.withdraw], fun bk => by simp [State.withdraw, Bank.withdraw, State.bank], ?_⟩
  intro k e he p hp
  simp [State.withdraw, Cylinder.dropPulses, State.cyl] at he
  obtain ⟨e', -, rfl⟩ := he
  simp at hp
  obtain ⟨q, -, rfl⟩ := hp
  exact Pulse.drop_not_droppable _ _ _

theorem State.nothingWaits_congr {s t : State} (h : s.nothingWaits) (h1 : t.arm = s.arm) (h2 : t.banks = s.banks)
    (h3 : t.cyls = s.cyls) : t.nothingWaits := by
  unfold State.nothingWaits State.bank State.cyl at *
  rw [h1, h2, h3]
  exact h

theorem State.settle_nothingWaits {s : State} (h : s.nothingWaits) (k : CylId) : (s.settle k).nothingWaits := by
  obtain ⟨h1, h2, h3, h4⟩ := h
  have hb : ∀ bk, (s.settle k).bank bk = s.bank bk := fun bk => by simp only [State.bank, State.settle_banks]
  exact ⟨by rw [State.settle_arm, h1], by rw [State.settle_arm, h2], fun bk => by rw [hb, h3],
    fun j e he => h4 j e (State.settle_event he)⟩

theorem State.settleAll_nothingWaits {s : State} (h : s.nothingWaits) : s.settleAll.nothingWaits := by
  unfold State.settleAll
  generalize CylId.all = l
  induction l generalizing s with
  | nil => exact h
  | cons a l ih => exact ih (State.settle_nothingWaits h a)

/-- After the recovery drops nothing waits (R23). -/
theorem State.recover_nothingWaits (s : State) : s.recover.nothingWaits :=
  State.settleAll_nothingWaits (State.withdraw_nothingWaits s _)

theorem State.endCycleMode_arm (s : State) : s.endCycleMode.arm = s.arm := by
  unfold State.endCycleMode State.stopEvent State.setStopMode
  split
  · exact State.checkStopped_arm _
  · rfl

theorem State.endCycleMode_cyls (s : State) : s.endCycleMode.cyls = s.cyls := by
  unfold State.endCycleMode State.stopEvent State.setStopMode
  split
  · exact State.checkStopped_cyls _
  · rfl

theorem State.endCycleMode_nothingWaits {s : State} (h : s.nothingWaits) : s.endCycleMode.nothingWaits :=
  State.nothingWaits_congr h (State.endCycleMode_arm s) (State.endCycleMode_banks s) (State.endCycleMode_cyls s)

/-! ## What holds a bank goes on -/

theorem State.holdersKept_of_banks {s t : State} (h : t.banks = s.banks) : s.holdersKept t := fun bk => by
  simp only [State.bank, h, and_self]

theorem State.holdersKept.trans {s t u : State} (h : s.holdersKept t) (g : t.holdersKept u) : s.holdersKept u := fun bk =>
  ⟨(g bk).1.trans (h bk).1, (g bk).2.1.trans (h bk).2.1, (g bk).2.2.trans (h bk).2.2⟩

theorem State.withdraw_holdersKept (s : State) (reach : CylId → Bool) (o : PulseOutcome) :
    s.holdersKept (s.withdraw reach o) := fun bk => by
  simp [State.withdraw, Bank.withdraw, State.bank]

/-- The recovery drops leave what holds a bank as it was (R23). -/
theorem State.recover_holdersKept (s : State) : s.holdersKept s.recover :=
  (State.withdraw_holdersKept s _ _).trans (State.holdersKept_of_banks (State.settleAll_banks _))

/-- A raised flag stays raised where every sticky flag is kept. -/
theorem sticky_kept {a b : Word} (h : a &&& b = a) {i : Nat} (ha : a.getLsbD i = true) : b.getLsbD i = true := by
  rw [← h, BitVec.getLsbD_and, Bool.and_eq_true] at ha
  exact ha.2

/-- With no service pulse in play an edge truncates none (R124). -/
theorem State.truncateServices_of_noService {s : State} (h : s.noService) : s.truncateServices = s := by
  have hb : ∀ bk, s.truncateService bk = s := fun bk => by simp [State.truncateService, h bk]
  simp only [State.truncateServices, BankId.all, List.foldl, hb]

end Sys2Proof.Machine
end

