-- ==== Sys2Proof/Laws/Edges.lean ====
section
/-! SUPPORT. What an accepted crank edge comes to: its judgement and its edge event, and what the edge event keeps. -/

namespace Sys2Proof.Machine

/-- Truncating the service pulses keeps the tracker, the setup unit and the time. -/
theorem State.truncateServices_down (s : State) : Downstream s s.truncateServices := by
  have h : ∀ (l : List BankId) (u : State), Downstream s u → Downstream s (l.foldl State.truncateService u) := by
    intro l
    induction l with
    | nil => exact fun u h => h
    | cons bk l ih =>
      intro u h
      refine ih _ ?_
      unfold State.truncateService
      split
      · exact h.endHolder _ _
      · exact h
  exact h _ _ (.refl s)

/-- The edge event of a firing edge keeps the tracker, the setup unit, the time and every raised flag (R21). -/
theorem State.edgeEvent_fires (u : Setup) (r : Bool) (w : State) (hf : w.trk.canFire = true) :
    (w.edgeEvent u r).trk = w.trk ∧ (w.edgeEvent u r).su = w.su ∧ (w.edgeEvent u r).now = w.now
      ∧ w.ev.sticky &&& (w.edgeEvent u r).ev.sticky = w.ev.sticky := by
  have h1 : Downstream w (w.statusAll (edgeWords w.trk)) := Downstream.statusAll (edgeWords_in _) (.refl w)
  have h2 := State.truncateServices_down (w.statusAll (edgeWords w.trk))
  have h3 : Downstream (w.statusAll (edgeWords w.trk)).truncateServices (w.edgeEvent u r) := by
    unfold State.edgeEvent State.fireEdge
    rw [if_pos (by rw [h2.trk, h1.trk]; exact hf)]
    exact ((Downstream.refl _).latchAll u _).armAll u _
  exact ⟨h3.trk.trans (h2.trk.trans h1.trk), h3.su.trans (h2.su.trans h1.su), h3.now.trans (h2.now.trans h1.now),
    ((h1.toKeeps.trans h2.toKeeps).trans h3.toKeeps).sticky⟩

/-- The edge event of any other edge makes the next firing edge re-acquiring, and keeps the rest of these (R24). -/
theorem State.edgeEvent_quiet (u : Setup) (r : Bool) (w : State) (hf : w.trk.canFire = false) :
    (w.edgeEvent u r).trk = { w.trk with reacquire := true } ∧ (w.edgeEvent u r).su = w.su ∧ (w.edgeEvent u r).now = w.now
      ∧ w.ev.sticky &&& (w.edgeEvent u r).ev.sticky = w.ev.sticky := by
  have h1 : Downstream w (w.statusAll (edgeWords w.trk)) := Downstream.statusAll (edgeWords_in _) (.refl w)
  have h2 := State.truncateServices_down (w.statusAll (edgeWords w.trk))
  have h3 : w.edgeEvent u r =
      (w.statusAll (edgeWords w.trk)).truncateServices.modTrk fun t => { t with reacquire := true } := by
    unfold State.edgeEvent State.fireEdge
    rw [if_neg (by rw [h2.trk, h1.trk, hf]; simp)]
  rw [h3]
  refine ⟨?_, h2.su.trans h1.su, h2.now.trans h1.now, (h1.toKeeps.trans h2.toKeeps).sticky⟩
  rw [State.modTrk_trk, h2.trk, h1.trk]

/-- An accepted edge with an interval is judged on that interval (R3, R4, R5). -/
theorem State.crankArrives_taken {u : Setup} {s : State} {t : Time} {i : Nat} (sense : Four BankSense)
    (h : EdgeTaken u s u.crankEdge t i) :
    ((s.at t).seeAll sense).crankArrives u.crankEdge =
      (((s.at t).seeAll sense).setTrk
        { s.trk.measure u (s.trk.judge u (s.trk.gapLike u i)) i t with reacquire := false }).judgedEdge u
          (s.trk.judge u (s.trk.gapLike u i)) s.trk.reacquire := by
  obtain ⟨h1, h2, -, h4, ⟨l, h5, h6⟩, h7⟩ := h
  have hi : s.trk.interval t = some i := by simp only [Tracker.interval, h5, Option.map, h6]; rfl
  have hn : s.trk.isNoise u i = false := by
    simp only [Tracker.isNoise]
    split
    · rename_i x hx
      obtain ⟨h8, h9⟩ := h7 x hx
      exact Bool.or_eq_false_iff.2 ⟨decide_eq_false (by omega), decide_eq_false (by omega)⟩
    · rfl
  have e1 : ((s.at t).seeAll sense).su.setup = some u := h1
  have e2 : (((s.at t).seeAll sense).ctl.run.tracks && u.crankEdge == u.crankEdge) = true := by
    rw [Bool.and_eq_true]
    exact ⟨h2, beq_self_eq_true _⟩
  simp only [State.crankArrives, e1, e2, if_true, State.crankTaken]
  have e3 : ((s.at t).seeAll sense).trk = s.trk := rfl
  have e4 : ((s.at t).seeAll sense).now = t := rfl
  simp only [e3, e4, h4, if_false, hi, hn]
  rfl

end Sys2Proof.Machine
end

