-- ==== Sys2Proof/Laws/Lists.lean ====
section
/-! SUPPORT. Lists kept in an order (Machine/Ops.lean, `insertBy` and `sortBy`): what an insertion and a sorting leave, for an
order on the entries of which `P` holds. -/

namespace Sys2Proof.Machine

variable {α : Type} {before : α → α → Bool} {P : α → Prop}

theorem insertBy_perm (before : α → α → Bool) (x : α) (l : List α) : (insertBy before x l).Perm (x :: l) := by
  induction l with
  | nil => exact .refl _
  | cons y rest ih =>
    unfold insertBy
    split
    · exact .refl _
    · exact (ih.cons y).trans (.swap x y rest)

theorem mem_insertBy {x y : α} {l : List α} : y ∈ insertBy before x l ↔ y = x ∨ y ∈ l :=
  (insertBy_perm before x l).mem_iff.trans List.mem_cons

theorem sortBy_perm (before : α → α → Bool) (l : List α) : (sortBy before l).Perm l := by
  induction l with
  | nil => exact .refl _
  | cons x rest ih => exact (insertBy_perm before x (sortBy before rest)).trans (ih.cons x)

/-- An order whose negation is transitive, on the entries of which `P` holds. -/
structure Ranks (before : α → α → Bool) (P : α → Prop) : Prop where
  asymm : ∀ x y, P x → P y → before x y = true → before y x = false
  trans : ∀ x y z, P x → P y → P z → before y x = false → before z y = false → before z x = false

/-- An entry inserted into a list in order leaves it in order. -/
theorem insertBy_inOrder (h : Ranks before P) {x : α} (hx : P x) (l : List α) : (∀ y ∈ l, P y) →
    l.Pairwise (fun a b => before b a = false) → (insertBy before x l).Pairwise (fun a b => before b a = false) := by
  induction l with
  | nil => intro _ _; simp [insertBy]
  | cons y rest ih =>
    intro hl hs
    obtain ⟨h1, h2⟩ := List.pairwise_cons.1 hs
    have hy := hl y (by simp)
    unfold insertBy
    split
    · rename_i hb
      refine List.pairwise_cons.2 ⟨fun z hz => ?_, hs⟩
      have hyx := h.asymm x y hx hy hb
      rcases List.mem_cons.1 hz with rfl | hz
      · exact hyx
      · exact h.trans x y z hx hy (hl z (by simp [hz])) hyx (h1 z hz)
    · rename_i hb
      refine List.pairwise_cons.2 ⟨fun z hz => ?_, ih (fun z hz => hl z (by simp [hz])) h2⟩
      rcases mem_insertBy.1 hz with rfl | hz
      · simpa using hb
      · exact h1 z hz

theorem sortBy_inOrder (h : Ranks before P) (l : List α) (hl : ∀ y ∈ l, P y) :
    (sortBy before l).Pairwise (fun a b => before b a = false) := by
  induction l with
  | nil => exact .nil
  | cons x rest ih =>
    exact insertBy_inOrder h (hl x (by simp)) _ (fun y hy => hl y (by simp [(sortBy_perm before rest).mem_iff.1 hy]))
      (ih fun y hy => hl y (by simp [hy]))

end Sys2Proof.Machine
end

