-- ==== Sys2Proof/Laws/PerInstr.lean ====
section
/-! SUPPORT. One family of lemmas with one member for each command: what makes the command well formed, and the code that
the REQUEST word of a request carries. -/

namespace Sys2Proof.Laws.Table

open Sys2Proof

/-- The code a request's word carries in its low four bits (R128); a command that is no request has none. -/
def Code : Instr → Nat → Prop
  | .load _ _ _, n => n = 1
  | .run _ _ _, n => n = 2
  | .stop _ _ _ _ _, n => n = 3
  | .inhibit _ _, n => n = 4
  | .release _ _ _, n => n = 5
  | .service _ _ _ _ _, n => n = 6
  | .softReset _ _, n => n = 7
  | .paritySense _ _, n => n = 8
  | .undefinedRequest _ _ _, n => n = 0 ∨ 9 ≤ n
  | _, _ => False

/-- What the operands of a command must select: an entry index of 0..4, a code no request has, a register whose writes are
ignored. -/
def Selects : Instr → Prop
  | .slipDeadlineExpiry _ _ entry _ _ => entry.toNat < 5
  | .undefinedRequest code _ _ => code = 0 ∨ 9 ≤ code.toNat
  | .registerWriteIgnored reg _ => reg ≠ 2 ∧ reg ≠ 5
  | _ => True

/-- A command is well formed exactly if its operands select something, and a well-formed request's word carries the code
of its row. -/
def Statement (c : Instr) : Prop :=
  (c.wf = true ↔ Selects c) ∧ ∀ w, c.requestWord? = some w → c.wf = true → Code c (w.toNat % 16)

/-- The low four bits of a REQUEST word are its code (R128). -/
theorem requestWord_code (code : BitVec 4) (arg : Byte) (top : BitVec 4) :
    (Machine.requestWord code arg top).toNat % 16 = code.toNat := by
  rw [Machine.requestWord, BitVec.toNat_append, Nat.shiftLeft_eq, Nat.mul_comm, ← Nat.two_pow_add_eq_or_of_lt code.isLt]
  omega

theorem crankEdge (edge : Edge) (t : Time) (sense : Four BankSense) (during : List Arrival) : Statement (.crankEdge edge t sense during) := by
  simp [Statement, Selects, Instr.wf, Instr.requestWord?]

theorem markerEdge (edge : Edge) (t : Time) (during : List Arrival) : Statement (.markerEdge edge t during) := by
  simp [Statement, Selects, Instr.wf, Instr.requestWord?]

theorem stall (during : List Arrival) : Statement (.stall during) := by
  simp [Statement, Selects, Instr.wf, Instr.requestWord?]

theorem startExpiry (sense : BankSense) (during : List Arrival) : Statement (.startExpiry sense during) := by
  simp [Statement, Selects, Instr.wf, Instr.requestWord?]

theorem slipDeadlineExpiry (bank : BankId) (seq : Word) (entry : BitVec 3) (sense : BankSense) (during : List Arrival) : Statement (.slipDeadlineExpiry bank seq entry sense during) := by
  simp [Statement, Selects, Instr.wf, Instr.requestWord?]

theorem headTimerExpiry (bank : BankId) (sense : BankSense) (during : List Arrival) : Statement (.headTimerExpiry bank sense during) := by
  simp [Statement, Selects, Instr.wf, Instr.requestWord?]

theorem settleExpiry (bank : BankId) (during : List Arrival) : Statement (.settleExpiry bank during) := by
  simp [Statement, Selects, Instr.wf, Instr.requestWord?]

theorem capExpiry (bank : BankId) (sense : BankSense) (during : List Arrival) : Statement (.capExpiry bank sense during) := by
  simp [Statement, Selects, Instr.wf, Instr.requestWord?]

theorem durationExpiry (bank : BankId) (sense : BankSense) (during : List Arrival) : Statement (.durationExpiry bank sense during) := by
  simp [Statement, Selects, Instr.wf, Instr.requestWord?]

theorem riseLimitExpiry (bank : BankId) (sense : BankSense) (during : List Arrival) : Statement (.riseLimitExpiry bank sense during) := by
  simp [Statement, Selects, Instr.wf, Instr.requestWord?]

theorem freewheelExpiry (bank : BankId) (sense : BankSense) (during : List Arrival) : Statement (.freewheelExpiry bank sense during) := by
  simp [Statement, Selects, Instr.wf, Instr.requestWord?]

theorem upperInputChange (bank : BankId) (t : Time) (sense : BankSense) (during : List Arrival) : Statement (.upperInputChange bank t sense during) := by
  simp [Statement, Selects, Instr.wf, Instr.requestWord?]

theorem lowerInputChange (bank : BankId) (t : Time) (sense : BankSense) (during : List Arrival) : Statement (.lowerInputChange bank t sense during) := by
  simp [Statement, Selects, Instr.wf, Instr.requestWord?]

theorem shortInputChange (bank : BankId) (t : Time) (sense : BankSense) (during : List Arrival) : Statement (.shortInputChange bank t sense during) := by
  simp [Statement, Selects, Instr.wf, Instr.requestWord?]

theorem quenchExpiry (bank : BankId) (sense : BankSense) (during : List Arrival) : Statement (.quenchExpiry bank sense during) := by
  simp [Statement, Selects, Instr.wf, Instr.requestWord?]

theorem load (arg : Byte) (top : BitVec 4) (during : List Arrival) : Statement (.load arg top during) := by
  simp [Statement, Selects, Instr.wf, Instr.requestWord?, Code, requestWord_code]

theorem loadComplete (during : List Arrival) : Statement (.loadComplete during) := by
  simp [Statement, Selects, Instr.wf, Instr.requestWord?]

theorem loadFail (during : List Arrival) : Statement (.loadFail during) := by
  simp [Statement, Selects, Instr.wf, Instr.requestWord?]

theorem run (arg : Byte) (top : BitVec 4) (during : List Arrival) : Statement (.run arg top during) := by
  simp [Statement, Selects, Instr.wf, Instr.requestWord?, Code, requestWord_code]

theorem stop (arg : Byte) (top : BitVec 4) (t : Time) (sense : Four BankSense) (during : List Arrival) : Statement (.stop arg top t sense during) := by
  simp [Statement, Selects, Instr.wf, Instr.requestWord?, Code, requestWord_code]

theorem inhibit (arg : Byte) (top : BitVec 4) : Statement (.inhibit arg top) := by
  simp [Statement, Selects, Instr.wf, Instr.requestWord?, Code, requestWord_code]

theorem release (arg : Byte) (top : BitVec 4) (during : List Arrival) : Statement (.release arg top during) := by
  simp [Statement, Selects, Instr.wf, Instr.requestWord?, Code, requestWord_code]

theorem service (arg : Byte) (top : BitVec 4) (t : Time) (sense : BankSense) (during : List Arrival) : Statement (.service arg top t sense during) := by
  simp [Statement, Selects, Instr.wf, Instr.requestWord?, Code, requestWord_code]

theorem softReset (arg : Byte) (top : BitVec 4) : Statement (.softReset arg top) := by
  simp [Statement, Selects, Instr.wf, Instr.requestWord?, Code, requestWord_code]

theorem paritySense (arg : Byte) (top : BitVec 4) : Statement (.paritySense arg top) := by
  simp [Statement, Selects, Instr.wf, Instr.requestWord?, Code, requestWord_code]

theorem undefinedRequest (code : BitVec 4) (arg : Byte) (top : BitVec 4) : Statement (.undefinedRequest code arg top) := by
  have zero : code = 0 ↔ code.toNat = 0 := BitVec.toNat_eq
  simp [Statement, Selects, Instr.wf, undefinedCode, Instr.requestWord?, Code, requestWord_code] at zero ⊢
  simp [zero]

theorem eventRead : Statement .eventRead := by
  simp [Statement, Selects, Instr.wf, Instr.requestWord?]

theorem eventMaskWrite (mask : Word) : Statement (.eventMaskWrite mask) := by
  simp [Statement, Selects, Instr.wf, Instr.requestWord?]

theorem registerWriteIgnored (reg : BitVec 3) (data : Word) : Statement (.registerWriteIgnored reg data) := by
  simp [Statement, Selects, Instr.wf, ignoredRegister, Instr.requestWord?]

theorem hostMemoryWrite (addr : BitVec 13) (data : Word) : Statement (.hostMemoryWrite addr data) := by
  simp [Statement, Selects, Instr.wf, Instr.requestWord?]

theorem hostMemoryRead (addr : BitVec 13) : Statement (.hostMemoryRead addr) := by
  simp [Statement, Selects, Instr.wf, Instr.requestWord?]

theorem powerOnReset : Statement .powerOnReset := by
  simp [Statement, Selects, Instr.wf, Instr.requestWord?]

theorem powerOnResetEnd : Statement .powerOnResetEnd := by
  simp [Statement, Selects, Instr.wf, Instr.requestWord?]

theorem pinReset : Statement .pinReset := by
  simp [Statement, Selects, Instr.wf, Instr.requestWord?]

theorem pinResetRelease : Statement .pinResetRelease := by
  simp [Statement, Selects, Instr.wf, Instr.requestWord?]

end Sys2Proof.Laws.Table
end

