-- ==== Sys2Proof/Laws/Playing.lean ====
section
/-! SUPPORT. Where a player comes to rest, what engaging a channel does without a standing short report, when a bank is open to a
request, and what reading a byte of a word gives. -/

namespace Sys2Proof.Machine

/-! ## Playing -/

/-- With BOOST_OK high, the first phase that does not end at its entry is where the player rests, with no mark made (R106 to
R110). -/
theorem playFrom_rests (p : Player) (sense : BankSense) (t : Time) (l : List Ramp) (cond : ChannelCond) (timer : Option Time)
    (m : PlayMarks) (h : Rests sense p.profile.holdUpper t l cond timer) (hs : sense.current.toNat < p.shortLevel)
    (hb : sense.boostOk = true) : playFrom p sense t l m = (m, .rest cond timer) := by
  have hs' : ¬ p.shortLevel ≤ sense.current.toNat := by omega
  rcases h with ⟨rfl, rfl, rfl⟩ | ⟨time, l, rfl, h0, rfl, rfl⟩ | ⟨lv, lim, l, rfl, h1, rfl, rfl⟩
    | ⟨lv, lim, l, rfl, h1, rfl, rfl⟩
  · by_cases h : p.profile.holdUpper ≤ sense.current.toNat
    · have h' : ¬ sense.current.toNat < p.profile.holdUpper := by omega
      simp [playFrom, hs', senseAtLeast, h, h']
    · have h' : sense.current.toNat < p.profile.holdUpper := by omega
      simp [playFrom, hs', senseAtLeast, h, h']
  · simp [playFrom, hs', senseAtLeast, h0]
  · simp [playFrom, hs', senseAtLeast, Nat.not_le.2 h1]
  · simp [playFrom, hs', senseAtLeast, Nat.not_le.2 h1, PlayMarks.sample, hb]

/-- Without a standing short report no play ends short, and no free value is consulted (R112). -/
theorem playFrom_noShort (p : Player) (sense : BankSense) (t : Time) (hs : sense.current.toNat < p.shortLevel) (l : List Ramp) :
    ∀ m, ∃ cond timer, (playFrom p sense t l m).2 = .rest cond timer ∧ cond ≠ .quench
      ∧ (playFrom p sense t l m).1.free = m.free := by
  have hs' : ¬ p.shortLevel ≤ sense.current.toNat := by omega
  induction l with
  | nil =>
    intro m
    simp [playFrom, senseAtLeast, hs']
  | cons r rest ih =>
    intro m
    cases r with
    | boostRise l lim =>
      simp only [playFrom, senseAtLeast, hs', PlayMarks.shortFirst]
      simp
      split
      · obtain ⟨c, ti, h1, h2, h3⟩ := ih (((m.sample sense.boostOk).reach (Time.since t p.grantedAt)).next false)
        refine ⟨c, ⟨ti, h1⟩, h2, ?_⟩
        rw [h3]
        simp [PlayMarks.next, PlayMarks.consult, PlayMarks.reach, PlayMarks.sample]
        split <;> rfl
      · refine ⟨_, ⟨_, rfl⟩, by simp, ?_⟩
        simp [PlayMarks.sample]
        split <;> rfl
    | batteryRise l lim =>
      simp only [playFrom, senseAtLeast, hs', PlayMarks.shortFirst]
      simp
      split
      · obtain ⟨c, ti, h1, h2, h3⟩ := ih ((m.reach (Time.since t p.grantedAt)).next false)
        refine ⟨c, ⟨ti, h1⟩, h2, ?_⟩
        rw [h3]
        simp [PlayMarks.next, PlayMarks.consult, PlayMarks.reach]
      · exact ⟨_, ⟨_, rfl⟩, by simp, rfl⟩
    | freewheel l =>
      simp only [playFrom, senseAtLeast, hs', PlayMarks.shortFirst]
      simp
      split
      · obtain ⟨c, ti, h1, h2, h3⟩ := ih (m.next false)
        refine ⟨c, ⟨ti, h1⟩, h2, ?_⟩
        rw [h3]
        simp [PlayMarks.next, PlayMarks.consult]
      · exact ⟨_, ⟨_, rfl⟩, by simp, rfl⟩

/-- What engaging a channel does without a standing short report (R105): its player, the low BOOST_OK count and the word that
shows it; nothing else changes. -/
theorem State.engage_eq (u : Setup) (s : State) (bk : BankId) (job : Job) (k : CylId) (f dur : Nat) (hu : s.su.setup = some u)
    (hs : (s.senseOf bk).current.toNat < (u.banks.get bk).shortLevel) :
    ∃ q words lows, s.engage bk job k f dur =
        { s with
          mem := s.mem.mirror s.sb.live words
          banks := s.banks.set bk { s.banks.get bk with channel := some q, boostLowCount := lows } }
      ∧ q.job = job ∧ q.cyl = k ∧ q.profile = (u.profiles[f]?).getD ⟨[], 0, 0⟩ ∧ q.grantedAt = s.now
      ∧ q.durationAt = Time.add s.now dur ∧ q.cond ≠ .quench
      ∧ (words = [] ∨ Memory.Shown s.sb.live [(0x244 + 8 * bk.index, lows)] s.mem (s.mem.mirror s.sb.live words)) := by
  obtain ⟨c, ti, h1, h2, h3⟩ := playFrom_noShort (u.player bk job k f dur s.now) (s.senseOf bk) s.now hs
    ((u.player bk job k f dur s.now).profile.ramps.drop 0) ⟨0, none, false, 0, s.freeCount⟩
  have hp : State.playPhases (s.setBank bk { s.bank bk with channel := some (u.player bk job k f dur s.now) }) bk
      (u.player bk job k f dur s.now) 0 = playFrom (u.player bk job k f dur s.now) (s.senseOf bk) s.now
        ((u.player bk job k f dur s.now).profile.ramps.drop 0) ⟨0, none, false, 0, s.freeCount⟩ := rfl
  generalize playFrom (u.player bk job k f dur s.now) (s.senseOf bk) s.now
    ((u.player bk job k f dur s.now).profile.ramps.drop 0) ⟨0, none, false, 0, s.freeCount⟩ = r at *
  have hc : ((s.setBank bk { s.bank bk with channel := some (u.player bk job k f dur s.now) }).bank bk).channel
      = some (u.player bk job k f dur s.now) := by simp [State.setBank, State.bank]
  have hb : ((u.player bk job k f dur s.now).mark r.1).cond.boostGate = false := rfl
  have hq : ∀ q : Player, q = { (u.player bk job k f dur s.now).mark r.1 with cond := c, phaseTimer := ti } →
      q.job = job ∧ q.cyl = k ∧ q.profile = (u.profiles[f]?).getD ⟨[], 0, 0⟩ ∧ q.grantedAt = s.now
        ∧ q.durationAt = Time.add s.now dur ∧ q.cond ≠ .quench := by
    rintro _ rfl
    simp [Player.mark, Setup.player, h2]
  obtain ⟨g1, g2, g3, g4, g5, g6⟩ := hq _ rfl
  simp only [State.engage, hu, State.enterPhase, hc, hp, h1, State.comeToRest]
  by_cases hl : r.1.lows = 0
  · refine ⟨_, [], (s.banks.get bk).boostLowCount, ?_, g1, g2, g3, g4, g5, g6, .inl rfl⟩
    simp [State.countBoostLow, hl, hb, h3, State.setBank, State.bank, State.setBanks, State.setFreeCount]
  · have ho : offBank bk + 4 = 0x244 + 8 * bk.index := by unfold offBank; omega
    refine ⟨_, countWords (offBank bk + 4) r.1.lows (s.banks.get bk).boostLowCount,
      satCount^[r.1.lows] (s.banks.get bk).boostLowCount, ?_, g1, g2, g3, g4, g5, g6, .inr ?_⟩
    · simp [State.countBoostLow_eq, hb, h3, State.setBank, State.bank, State.setBanks, State.setFreeCount, State.setMem]
    · rw [← ho]
      exact Memory.mirror_count _ _ _ _ _ hl (by cases bk <;> decide)

/-- A channel that plays a phase turns its cylinder's low side on (R103, R187). -/
theorem State.lowSidePin_of_playing (s : State) (bk : BankId) {q : Player} (h : (s.bank bk).channel = some q)
    (hq : q.cond ≠ .quench) : s.lowSidePin q.cyl = true := by
  have hl : q.cond.lowSide = true := by cases hc : q.cond <;> simp_all [ChannelCond.lowSide]
  simp only [State.lowSidePin, List.any_eq_true]
  exact ⟨bk, by cases bk <;> decide, by simp [h, hl]⟩

/-! ## Requests -/

/-- An open bank has reached the availability instant of a request (R85). -/
theorem Bank.reached_of_open {x : Bank} {r : Request} {t : Time} (h : x.openAt r.boost r.minDwell r.recharge t) :
    x.reached r t = true := by
  obtain ⟨h1, h2⟩ := h
  simp only [Bank.reached, Bank.instant, latestOf]
  cases hr : x.releaseAt with
  | none =>
    cases hb : r.boost
    · simp
    · cases he : x.boostEnd with
      | none => simp
      | some b => simp [h2 hb b he]
  | some q =>
    have h1 := h1 q hr
    cases hb : r.boost
    · simp [h1]
    · cases he : x.boostEnd with
      | none => simp [h1]
      | some b =>
        have h2 := h2 hb b he
        simp [Time.latest]
        by_cases hc : Time.later (Time.add b r.recharge) (Time.add q r.minDwell) = true <;> simp [hc, h1, h2]

/-! ## The bytes of a word -/

theorem Memory.readWord_low (m : Memory) (off : Nat) : (m.readWord off).extractLsb' 0 8 = m.readByte off := by
  apply BitVec.eq_of_getLsbD_eq
  intro i hi
  rw [BitVec.getLsbD_extractLsb', Memory.readWord, BitVec.getLsbD_append]
  simp [hi]

theorem Memory.readWord_high (m : Memory) (off : Nat) : (m.readWord off).extractLsb' 8 8 = m.readByte (off + 1) := by
  apply BitVec.eq_of_getLsbD_eq
  intro i hi
  rw [BitVec.getLsbD_extractLsb', Memory.readWord, BitVec.getLsbD_append]
  simp [hi]

theorem loByte_readWord (m : Memory) (off : Nat) : loByte (m.readWord off) = (m.readByte off).toNat := by
  rw [loByte, Memory.readWord_low]

theorem hiByte_readWord (m : Memory) (off : Nat) : hiByte (m.readWord off) = (m.readByte (off + 1)).toNat := by
  rw [hiByte, Memory.readWord_high]

/-- A start whose record's STATE word shows no abort meets none (R43). -/
theorem State.abortMet_of_noAbort {s t : State} {e : Event} {k : CylId} {seq : Word} (h : s.noAbort e)
    (he : (t.cyl k).event = some e) (hm : t.mem = s.mem) : t.abortMet k seq = false := by
  simp only [State.abortMet, State.eventOf, he]
  by_cases hq : e.seq = seq
  · simp only [hq, if_true]
    cases hr : e.record with
    | none => rfl
    | some i =>
      have hi := h i hr
      simp [Memory.abortFound, hm, recordOffset, hi.1, stateAbortReq, loByte_readWord]
      exact fun h => hi.2 (BitVec.eq_of_toNat_eq h)
  · simp [hq]

end Sys2Proof.Machine
end

