-- ==== Sys2Proof/Laws/Port.lean ====
section
/-! SUPPORT. The word arbiter at the level of the state (Machine/Port.lean): with nothing to arrive, the part's accesses are
those of a memory that stands still; and what the arrivals during a command leave alone. -/

namespace Sys2Proof.Machine

variable {s : State}

/-! ## Nothing arrives -/

@[simp] theorem State.meanwhile_nil (effect : State → State) (s : State) : s.meanwhile [] effect = effect s := rfl

theorem State.turn_calm (h : s.mem.calm) : s.turn = s := by
  unfold State.turn
  rw [Memory.turn_calm h]
  rfl

theorem State.writeWord_calm (h : s.mem.calm) (off : Nat) (w : Word) :
    s.writeWord off w = s.setMem (s.mem.writeWord off w false) := by
  unfold State.writeWord
  rw [Memory.putOne_calm h]

/-- A reading of words that stand still: all of them, or none at the first parity error. -/
theorem State.fetchWords_calm (h : s.mem.calm) (l : List Nat) : State.fetchWords l s =
    (if l.any s.mem.wordBad then none else some (l.map s.mem.readWord), s) := by
  induction l with
  | nil => rfl
  | cons off rest ih =>
    unfold State.fetchWords
    rw [State.turn_calm h, ih]
    cases hb : s.mem.wordBad off
    · cases ha : rest.any s.mem.wordBad <;> simp [hb, ha, Prod.map]
    · simp [hb]

/-- A trim copy's reading of words that stand still (R156). -/
theorem State.fetchTrim_calm (h : s.mem.calm) : s.fetchTrim = (readTrim s.mem, s) := by
  unfold State.fetchTrim readTrim
  dsimp only
  rw [State.turn_calm h, State.fetchWords_calm h]
  cases hb : s.mem.wordBad offSelector
  · simp only [Bool.false_eq_true, if_false, Bool.false_or, Prod.map, id]
    split <;> rfl
  · simp

theorem State.copyTrim_calm (h : s.mem.calm) : s.copyTrim = s.useTrim (readTrim s.mem) := by
  unfold State.copyTrim
  rw [State.fetchTrim_calm h]

theorem State.reread_calm (h : s.mem.calm) (k : CylId) (seq : Word) : s.reread k seq = s := by
  unfold State.reread
  rw [State.turn_calm h]
  split
  · split <;> rfl
  · rfl

theorem State.takeReady_calm (h : s.mem.calm) (u : Setup) (v : LatchView) (cylByte : Nat) (notify : Bool) :
    s.takeReady u v cylByte notify = s.takeEntries u v cylByte notify
      (if (entryWords s.latch.takePos).any s.mem.wordBad then none
        else some ((entryWords s.latch.takePos).map s.mem.readWord)) := by
  unfold State.takeReady
  rw [State.fetchWords_calm h]

theorem State.takePair_calm (h : s.mem.calm) (v : LatchView) (cylByte : Nat) (notify : Bool) (plan : List PulseEntry) :
    s.takePair v cylByte notify plan = s.pairServed v cylByte notify plan := by
  unfold State.takePair
  rw [State.turn_calm h]

theorem State.lookAhead_calm (h : s.mem.calm) : s.lookAhead = s.judgeAhead := by
  unfold State.lookAhead
  rw [State.turn_calm h]

/-! ## What arrives -/

/-- The three ways a command ends: with nothing to arrive or in a held part, and with the port opened and closed (R163). A
property holds at the end where the effect gives it, where the closing of the port keeps it, and where each arrival taken
afterwards keeps it. -/
theorem State.meanwhile_induct {P : State → Prop} {effect : State → State} {during : List Arrival} {s : State}
    (direct : P (effect s))
    (opened : s.held = false → ∀ t, t = effect (s.openPort during) →
      P t ∧ ∀ p, t.mem.port = some p → P (((t.setMem { t.mem with port := none }).keepReads p).keepLoad p))
    (after : ∀ t x, P t → P (t.afterwards x)) : P (s.meanwhile during effect) := by
  have hf : ∀ (l : List Arrival) (t : State), P t → P (l.foldl State.afterwards t) := by
    intro l
    induction l with
    | nil => exact fun t ht => ht
    | cons x rest ih => exact fun t ht => ih _ (after t x ht)
  unfold State.meanwhile
  split
  · exact direct
  · split
    · exact hf _ _ direct
    · rename_i hh
      obtain ⟨h1, h2⟩ := opened (by simpa using hh) _ rfl
      unfold State.closePort
      split
      · rename_i p hp
        exact hf _ _ (h2 p hp)
      · exact h1

/-- What a reading has come to is the staging copy and a number of free values consulted (R147), and only while the LOAD goes on. -/
theorem State.keepLoad_eq (p : Port) (s : State) : s.keepLoad p =
    match p.reading with
    | some r => if s.ctl.run = .loading then
        { s with su := { s.su with staging := r.staging }, freeCount := s.freeCount + r.used } else s
    | none => s := rfl

/-- Outside LOADING a host write meets no reading. -/
theorem State.readBeforeWrite_eq (s : State) : s.readBeforeWrite =
    if s.ctl.run = .loading then
      { s with
        su := { s.su with staging := stageMore s.mem (Config.loadReads s.freeCount) s.su.staging }
        freeCount := s.freeCount + 1 }
    else s := by
  by_cases h : s.ctl.run = .loading <;>
    simp [State.readBeforeWrite, State.reading, h, Reading.advance, State.keepReading, State.setSu, State.setFreeCount]

/-- What arrives leaves the queue alone. -/
theorem State.afterwards_pending (s : State) (x : Arrival) : (s.afterwards x).pending = s.pending := by
  unfold State.afterwards
  split
  · unfold State.takeWrite
    split
    · rfl
    · unfold State.hostWrite State.readBeforeWrite
      split <;> rfl
  · unfold State.takeRead
    split
    · rfl
    · split
      · rfl
      · unfold State.hostRead State.hostParityError
        split
        · simp
        · rfl
  · unfold State.takeSoftReset State.takeRequest
    split
    · rfl
    · simp [State.resetBlocks, State.answer]
  · simp [State.assertReset, State.resetBlocks]

end Sys2Proof.Machine
end

