-- ==== Sys2Proof/Tests/Slice0.lean ====
section
/-! SUPPORT. The model's own tests: ill-formed commands, the manual's worked cases one step at a time, and for each
statement a state and operands that meet its hypotheses. Expected values come from the rule or worked case that each test
names. -/

namespace Sys2Proof.Tests

set_option Elab.async false

open Sys2Proof Sys2Proof.Machine

/-! ## States to start from -/

/-- Profile 2 of "One MAIN played to its end" (06). -/
def boosted : Profile := ⟨[.boostRise 160 3000, .freewheel 200], 96, 80⟩

/-- An inline six on a 60−2 wheel (01 and 02, worked cases), two cylinders to a bank. -/
def six : Setup where
  n := 60
  m := 2
  wheelOffset := 0
  gapRatio := 32
  crankEdge := .rising
  stallTicks := 5000000
  markerLo := 2000
  markerHi := 3999
  markerEdge := .rising
  phaseAssume := false
  cylCount := 6
  faultLimit := 3
  ringLen := 8
  limp := none
  cyls := ⟨⟨0, .a, 3000⟩, ⟨3840, .b, 3000⟩, ⟨7680, .c, 3000⟩, ⟨11520, .a, 3000⟩, ⟨15360, .b, 3000⟩, ⟨19200, .c, 3000⟩,
    ⟨0, .a, 0⟩, ⟨0, .a, 0⟩⟩
  banks := .fill ⟨216, 8, 1200⟩
  profiles := [boosted, ⟨[.batteryRise 100 3000], 96, 80⟩]

/-- A state in READY with that setup copy. -/
def ready : State :=
  { State.reset with
    su := { SetupUnit.reset with setup := some six, trim := { Trim.default with predictMode := 1 } }
    ctl := { Control.reset .power with run := .ready }
    faultLimit := 3 }

def running : State := { ready with ctl := { ready.ctl with run := .running } }

/-- What a command makes of a state. -/
def after (c : Instr) (s : State) : State :=
  match exec c s with
  | .next t => t
  | _ => s

def edgeAt (t : Nat) : Instr := .crankEdge .rising (BitVec.ofNat 32 t) (.fill restSense) []

/-- The tracker before tooth 56 of "Crossing the gap while phased" (01), with t0 = 1,000,000. -/
def tooth55 : Tracker :=
  { Tracker.reset with
    sync := .phased, tooth := 55, rev := true, cycle := 7, lastTime := some 1000000, lastAngle := 22080
    lastInterval := some 50000, tLast := some 50000, tPred := 50000, markerSeen := true, reacquire := false }

/-- The same after tooth 57, by the worked case's row. -/
def tooth57 : Tracker :=
  { tooth55 with
    tooth := 57, lastTime := some 1101300, lastAngle := 22464, lastInterval := some 50900, tLast := some 50900
    tPrev := some 50400, tPred := 51400 }

/-- The same after tooth 0. -/
def tooth0 : Tracker :=
  { tooth57 with
    tooth := 0, rev := false, cycle := 8, lastTime := some 1257300, lastAngle := 0, lastInterval := some 156000
    tLast := some 52000, tPrev := some 50900, tPred := 53100 }

/-- A memory with the words of a list. -/
def words (l : List (Nat × Nat)) : Memory :=
  l.foldl (fun m p => m.writeWord p.1 (BitVec.ofNat 16 p.2) false) ⟨0, [], [], none⟩

/-- Selector 1 and slot 1 of "A trim changeover with a clamp and a fault" (08), PREDICT_MODE LINEAR. -/
def trimMem : Memory :=
  words [(0x100, 1), (0x130, 2400), (0x132, 1200), (0x134, 1000), (0x136, 2000), (0x138, 4000), (0x13A, 28000), (0x13C, 400),
    (0x13E, 1500), (0x140, 0), (0x142, 0), (0x144, 5000), (0x146, 1 + 256 * 20), (0x148, 1), (0x14A, 0), (0x14C, 0),
    (0x14E, 0)]

def phased (trk : Tracker) : State := { ready with trk := trk, mem := trimMem }

/-- A tracker that has just accepted an edge at tick 1,000. -/
def turning (sync : Sync) (tooth angle : Nat) (rev assumed : Bool) (run : Nat) : Tracker :=
  { Tracker.reset with
    sync := sync, tooth := tooth, lastAngle := angle, rev := rev, phaseAssumed := assumed, errorRun := run
    lastTime := some 1000, lastInterval := some 50000, tLast := some 50000, tPred := 50000, stallAt := some 5001000 }

/-- A pulse of entry `i`. -/
def pulse (i : Nat) (kind : Kind) (cond : PulseCond) (outcome : Option PulseOutcome) : Pulse where
  plan := ⟨i, kind, 0, -96, 18000⟩
  cond := cond
  start := none
  outcome := outcome
  late := false
  boostLow := false
  crowded := false
  startAngle := 0
  slip := 0
  driven := 0
  peak := 0

/-- An event of cylinder 3 with sequence 5 and record 2. -/
def eventOf (source : Source) (dry : Bool) (pulses : List Pulse) : Event where
  seq := 5
  source := source
  record := if source = .plan then some 2 else none
  notify := true
  target := 8
  dry := dry
  snap := ⟨192, 1000, 2000, 4000, 20000⟩
  drive := 2000
  pulses := pulses

def withEvent (e : Event) (s : State) : State := { s with cyls := s.cyls.set .c3 { s.cyl .c3 with event := some e } }

def withBankC (x : Bank) (s : State) : State := { s with banks := s.banks.set .c x }

/-- A player on cylinder 3, granted at tick 1,000 for 18,000 ticks. -/
def playerOf (cond : ChannelCond) (job : Job) : Player where
  cond := cond
  job := job
  cyl := .c3
  profile := boosted
  phase := 0
  shortLevel := 216
  quenchLevel := 8
  quenchMax := 1200
  grantedAt := 1000
  durationAt := 19000
  phaseTimer := some 4000
  quenchAt := if cond = .quench then some 20200 else none
  peak := none
  boostLow := false
  result := if cond = .quench then some ⟨.fired, 18000, 1850, false⟩ else none

/-- A bank with that player and its holder. -/
def bankOf (cond : ChannelCond) (job : Job) : Bank :=
  { Bank.reset with
    mode := if cond = .quench then .quench else .active
    holder := some ⟨job, .c3, 1000⟩
    channel := some (playerOf cond job)
    capAt := if cond = .quench then none else some 19000 }

def mainJob : Job := .event 5 1 .main false

/-- RUNNING, bank C playing or quenching the MAIN of cylinder 3, a POST of the same event pending. -/
def playing (cond : ChannelCond) : State :=
  withBankC (bankOf cond mainJob) (withEvent (eventOf .held false
    [pulse 1 .main (if cond = .quench then .quench else .active) (if cond = .quench then some .fired else none),
      pulse 2 .post .pending none]) running)

/-- READY, bank C playing or quenching the service pulse. -/
def servicing (cond : ChannelCond) : State := withBankC (bankOf cond (.service 0)) ready

def armEntry : ArmEntry := ⟨5, .c3, 1, .main, 8, -96, 192, 2000, 3000⟩

/-- RUNNING, with a pulse of cylinder 3 armed for tick 5,000, and nothing else in play. -/
def armedFor (source : Source) (dry : Bool) (m : Memory) : State :=
  { withEvent (eventOf source dry [pulse 1 .main .armed none, pulse 2 .post .pending none]) running with
    arm := ⟨[], [⟨armEntry, 5000⟩]⟩, mem := m }

/-- A request for bank C by the same pulse. -/
def requestOf (dry : Bool) : Request where
  seq := 5
  index := 1
  cyl := .c3
  kind := .main
  start := 5000
  deadline := 7000
  boost := true
  minDwell := 400
  recharge := 1500
  profile := 0
  duration := 18000
  late := false
  dry := dry

/-- RUNNING, with that request waiting at bank C, which was released at tick 5,000. -/
def waitingFor (head : Option Time) (dry : Bool) : State :=
  withBankC { Bank.reset with mode := .settling, waiting := [requestOf dry], releaseAt := some 5000, settleAt := some 5400, headAt := head }
    (withEvent (eventOf .held dry [pulse 1 .main .waiting none, pulse 2 .post .pending none]) running)

/-- A part held in reset by RESET_N. -/
def heldReset : State := after .pinReset ready

/-- A state with another setup copy. -/
def withSetup (u : Setup) (s : State) : State := { s with su := { s.su with setup := some u } }

/-- The trim set as `trimMem`'s slot 1 has it. -/
def trimRaw : Trim := trimOf ((slotWords 0x130).map trimMem.readWord)

/-- A selector whose word has bad parity. -/
def badTrim : Memory := (⟨0, [], [], none⟩ : Memory).writeWord 0x100 1 true

/-- The tracker ten teeth after tooth 0, at tick 1,000. -/
def marked (sync : Sync) (angle : Nat) (assumed : Bool) (run : Nat) : State :=
  { running with trk := turning sync 10 angle false assumed run }

/-- A READY record of cylinder 3 at index 0, one MAIN, with a cycle tag, then other words. -/
def recordMem (tag : Nat) (more : List (Nat × Nat)) : Memory :=
  words ([(0x1000, 1 + 256 * 3), (0x1002, tag + 256), (0x1004, 2), (0x1006, 65440), (0x1008, 9000), (0x100A, 0), (0x100C, 0),
    (0x100E, 0), (0x1010, 0), (0x1012, 0), (0x1014, 0), (0x1016, 0), (0x1018, 0), (0x101A, 0), (0x101C, 0), (0x101E, 0),
    (0x1020, 0)] ++ more)

/-- The same with the word at an offset stored with bad parity. -/
def damaged (off : Nat) (w : Word) : Memory := (recordMem 0x41 []).writeWord off w true

def viewOf (cut : Option EventOutcome) : LatchView where
  cyl := .c3
  target := 0x0141
  seq := 0x03A0
  snap := ⟨192, 1000, 2000, 4000, 20000⟩
  dry := false
  cut := cut

/-- A firing edge at tick 1,000. -/
def viewAt (angle tPred : Nat) (cycle : Word) : EdgeView := ⟨1000, angle, 192, tPred, cycle, false⟩

def onePulse : List PulseEntry := [⟨1, .main, 0, -96, 18000⟩]

/-- RUNNING, bank C held by a dry MAIN of cylinder 3. -/
def dryHeld : State :=
  withBankC { Bank.reset with
      mode := .active, holder := some ⟨.event 5 1 .main true, .c3, 1000⟩, capAt := some 19000, dryEndAt := some 18999 }
    (withEvent (eventOf .held true [pulse 1 .main .active none, pulse 2 .post .pending none]) running)

/-- An event of cylinder 6, which shares bank C, with sequence 9 and an ACTIVE POST. -/
def postEvent (dry : Bool) : Event :=
  { eventOf .held dry [pulse 0 .post .active none, pulse 1 .post .pending none] with seq := 9 }

def postPlayer : Player := { playerOf (.hold true) (.event 9 0 .post false) with cyl := .c6 }

/-- RUNNING, a MAIN of cylinder 3 armed for tick 5,000, and bank C held by that POST. -/
def postHeld (dry : Bool) : State :=
  let s := withBankC { bankOf (.hold true) (.event 9 0 .post dry) with
      holder := some ⟨.event 9 0 .post dry, .c6, 1000⟩, channel := if dry then none else some postPlayer }
    (armedFor .held false ⟨0, [], [], none⟩)
  { s with cyls := s.cyls.set .c6 { s.cyl .c6 with event := some (postEvent dry) } }

/-- RUNNING, a MAIN of cylinder 3 armed, bank C held by a PILOT with four requests waiting. -/
def crowded (kind : Kind) : State :=
  let r := fun (i : Nat) => { requestOf false with index := i, kind := kind, cyl := .c6, seq := 9, start := 4000 }
  let s := withBankC { bankOf .freewheel (.event 5 0 .pilot false) with waiting := [r 0, r 1, r 2, r 3] }
    (armedFor .held false ⟨0, [], [], none⟩)
  { s with
    cyls := s.cyls.set .c6 { s.cyl .c6 with
      event := some { eventOf .held false ([0, 1, 2, 3].map fun i => pulse i kind .waiting none) with seq := 9 } } }

/-! ## Ill-formed commands, and decoding -/

theorem test_wf_entry : (Instr.slipDeadlineExpiry .a 5 5 restSense []).wf = false
    ∧ (Instr.slipDeadlineExpiry .a 5 4 restSense []).wf = true := by decide

theorem test_wf_undefined_code : (Instr.undefinedRequest 1 0 0).wf = false ∧ (Instr.undefinedRequest 8 0 0).wf = false
    ∧ (Instr.undefinedRequest 0 0 0).wf = true ∧ (Instr.undefinedRequest 9 0 0).wf = true := by decide

theorem test_wf_ignored_register : (Instr.registerWriteIgnored 2 7).wf = false
    ∧ (Instr.registerWriteIgnored 5 7).wf = false ∧ (Instr.registerWriteIgnored 6 7).wf = true := by decide

/-- The table gives no row any bits, so no word spells a command. -/
theorem test_no_word_spells_a_command : decodeTableWord 16 0x0012 = none := rfl

/-! ## Crossing the gap while phased (01, worked case) -/

theorem test_crankEdge_tooth56 : (after (edgeAt 1050400) (phased tooth55)).trk.tPred = 50800
    ∧ (after (edgeAt 1050400) (phased tooth55)).trk.lastAngle = 22272 := by decide +kernel

theorem test_crankEdge_tooth0 : (after (edgeAt 1257300) (phased tooth57)).trk = { tooth0 with
    markerSeen := false, stallAt := some 6257300 } := by decide +kernel

theorem test_crankEdge_noise : (after (edgeAt 1266300) (phased tooth0)).trk = { tooth0 with noiseEdges := 1 } := by
  decide +kernel

/-- R188: the second edge of one tick is rejected, also with an expected interval of 0. -/
theorem test_crankEdge_sameTick :
    (after (edgeAt 1000) (phased { turning .gapSearch 0 0 false false 0 with lastInterval := some 0 })).trk.noiseEdges = 1 := by
  decide +kernel

theorem test_crankEdge_tooth1 : (after (edgeAt 1310800) (phased tooth0)).trk.tPred = 55000
    ∧ (after (edgeAt 1310800) (phased tooth0)).trk.lastAngle = 192 := by decide +kernel

/-- An estimated angle near the gap (01). -/
theorem test_estimate : [0, 100000, 150000, 160000].map (fun t => tooth57.estimate six (1101300 + BitVec.ofNat 32 t))
    = [22464, 22837, 23024, 23039] := by decide +kernel

/-- The trim changeover of 08: the boundary clamps ARM_WINDOW to 960 and PLAN_LOW_AHEAD below RING_LEN, here 8. -/
theorem test_trim_changeover : (after (edgeAt 1257300) (phased tooth57)).su.clampMask = 0x0802
    ∧ (after (edgeAt 1257300) (phased tooth57)).su.slot = .slot1
    ∧ (after (edgeAt 1257300) (phased tooth57)).su.trim.armWindow = 960
    ∧ (after (edgeAt 1257300) (phased tooth57)).su.trim.planLowAhead = 7 := by decide +kernel

/-- The table under R69, for a pitch of 192. -/
theorem test_angle_to_time :
    [(1, 5000), (1, 5088), (1, 5100), (96, 3700), (512, 6634), (896, 6633)].map (fun p => (angleToTime p.1 p.2 192).toNat)
      = [26, 27, 27, 1850, 17691, 30954] := by decide +kernel

/-! ## Marker, stall, latch -/

/-- "Cranking to phased on assumption, overturned by the marker" (01): the marker at the estimated angle 14,100. -/
theorem test_markerEdge_slip :
    let y := after (.markerEdge .rising 22875 []) { running with trk := turning .crankSync 13 14016 false true 0 }
    y.trk.sync = .phased ∧ y.trk.rev = true ∧ y.trk.lastAngle = 2496 ∧ y.ev.sticky = 0x0040 := by decide +kernel

/-- The same case with the marker at 2,580, in the window: no flag. -/
theorem test_markerEdge_window :
    let y := after (.markerEdge .rising 22875 []) { running with trk := turning .crankSync 13 2496 false true 0 }
    y.trk.sync = .phased ∧ y.trk.phaseAssumed = false ∧ y.ev.sticky = 0 := by decide +kernel

/-- R11: STALL is bit 14, and the pending pulse of the playing event is dropped SYNC_DROP. -/
theorem test_stall :
    let y := after (.stall []) { playing (.hold true) with trk := turning .phased 3 576 false false 0 }
    y.ev.sticky = 0x4000 ∧ y.now = 5001000
      ∧ (y.cyl .c3).event.map (fun e => e.pulses.map (·.outcome)) = some [none, some .syncDrop] := by decide +kernel

/-- "A scan with a stale record" (02): cylinder 3's latch with tag 0x41 against records of cylinders 2, 3 and 4, and the two
variants. -/
theorem test_placement : [(CylId.c2, 0x41), (.c3, 0x41), (.c4, 0x41), (.c3, 0x42), (.c5, 0x40)].map
    (fun p => place six .c3 p.1 (BitVec.ofNat 8 p.2) 0x41) = [.past, .matching, .future, .future, .past] := by decide +kernel

/-! ## One MAIN played to its end, and its bank (05 and 06, worked cases); the grant is at tick 1,000 -/

theorem test_startExpiry_grants :
    let y := after (.startExpiry ⟨0, true⟩ []) (armedFor .held false ⟨0, [], [], none⟩)
    (y.bank .c).mode = .active ∧ (y.bank .c).channel.map (fun p => (p.cond, p.phaseTimer, p.durationAt))
      = some (.boostRise true 160, some 8000, 23000) := by decide +kernel

/-- BOOST_OK low: the rise runs on the battery gate and BOOST_LOW_COUNT rises by one. -/
theorem test_startExpiry_boostLow :
    let y := after (.startExpiry ⟨0, false⟩ []) (armedFor .held false ⟨0, [], [], none⟩)
    (y.bank .c).boostLowCount = 1 ∧ y.boostPin .c = false ∧ y.batteryPin .c = true := by decide +kernel

theorem test_upperInputChange :
    let x := (after (.upperInputChange .c 2850 ⟨160, true⟩ []) (playing (.boostRise true 160))).bank .c
    x.boostEnd = some 2850 ∧ x.channel.map (fun p => (p.cond, p.phaseTimer, p.peak)) = some (.freewheel, some 3050, some 1850) := by
  decide +kernel

theorem test_freewheelExpiry :
    ((after (.freewheelExpiry .c ⟨112, true⟩ []) (withBankC { bankOf .freewheel mainJob with
      channel := some { playerOf .freewheel mainJob with phase := 1 } } (playing .freewheel))).bank .c).channel.map (·.cond)
      = some (.hold false) := by decide +kernel

theorem test_lowerInputChange_hold :
    ((after (.lowerInputChange .c 3640 ⟨79, true⟩ []) (playing (.hold false))).bank .c).channel.map (·.cond) = some (.hold true) := by
  decide +kernel

theorem test_durationExpiry :
    let y := after (.durationExpiry .c ⟨90, true⟩ []) (playing (.hold true))
    ((y.bank .c).mode, (y.bank .c).channel.map (fun p => (p.cond, p.quenchAt))) = (.quench, some (.quench, some 20200))
      ∧ (y.cyl .c3).event.map (fun e => (e.drive, e.pulses.map (·.driven))) = some (20000, [18000, 0]) := by decide +kernel

theorem test_lowerInputChange_quench :
    let y := after (.lowerInputChange .c 19430 ⟨7, true⟩ []) (withBankC { bankOf .quench mainJob with boostEnd := some 2850 }
      (playing .quench))
    (y.bank .c).mode = .settling ∧ (y.bank .c).settleAt = some 19830 ∧ (y.bank .c).channel = none := by decide +kernel

theorem test_quenchExpiry : ((after (.quenchExpiry .c ⟨30, true⟩ []) (playing .quench)).bank .c).releaseAt = some 20200 := by
  decide +kernel

/-- 06: the limit at 3,000 ends the MAIN OPEN_FAULT with DRIVEN 3,000; PULSE_FAULT is bit 7. -/
theorem test_riseLimitExpiry :
    let y := after (.riseLimitExpiry .c ⟨50, true⟩ []) (playing (.boostRise false 160))
    (y.cyl .c3).event.map (fun e => e.pulses.map (fun p => (p.outcome, p.driven))) = some [(some .openFault, 3000), (none, 0)]
      ∧ y.ev.sticky = 0x0080 ∧ (y.cyl .c3).faults = 1 := by decide +kernel

/-- "An intermittent coil to quarantine and release" (06): the third fault. -/
theorem test_shortInputChange_quarantine :
    let s := playing (.hold true)
    let y := after (.shortInputChange .c 2000 ⟨216, true⟩ []) { s with cyls := s.cyls.set .c3 { s.cyl .c3 with faults := 2 } }
    (y.cyl .c3).quarantined = true ∧ (y.cyl .c3).faults = 3 ∧ y.ev.sticky = 0x0180
      ∧ (y.cyl .c3).event.map (fun e => e.pulses.map (·.outcome)) = some [some .shortFault, some .quarantineDrop] := by
  decide +kernel

/-- "The cap meeting the duration" (05), the cap first. -/
theorem test_capExpiry :
    let y := after (.capExpiry .c ⟨90, true⟩ []) (playing (.hold true))
    (y.cyl .c3).event.map (fun e => (e.drive, e.pulses.map (·.outcome))) = some (20000, [some .capped, some .capDrop])
      ∧ (y.bank .c).conflicts = 1 ∧ y.ev.sticky = 0x0200 := by decide +kernel

/-- The same with the duration first: the MAIN ends FIRED, and reaches the cap. -/
theorem test_durationExpiry_cap :
    let y := after (.durationExpiry .c ⟨90, true⟩ []) (playing (.hold true))
    (y.cyl .c3).event.map (fun e => e.pulses.map (·.outcome)) = some [some .fired, some .capDrop]
      ∧ (y.bank .c).conflicts = 1 := by decide +kernel

/-- R91: the drop at the deadline, 2,000 after the start. -/
theorem test_slipDeadlineExpiry :
    let y := after (.slipDeadlineExpiry .c 5 1 restSense []) (waitingFor (some 5400) false)
    y.now = 7000 ∧ (y.cyl .c3).event.map (fun e => e.pulses.map (fun p => (p.outcome, p.slip))) = some [(some .slipDrop, 2000), (none, 0)]
      := by decide +kernel

/-- R91, R92: two deadlines at one tick, the second pulse's taken first: it makes no grant check, and both are dropped. -/
theorem test_slipDeadlineExpiry_notHead :
    let w := waitingFor (some 7000) false
    let s := withBankC { w.bank .c with waiting := [requestOf false, { requestOf false with index := 2, kind := .post }] } w
    let y := after (.slipDeadlineExpiry .c 5 2 restSense []) s
    (y.bank .c).holder = none ∧ (y.bank .c).waiting = [requestOf false]
      ∧ ((after (.slipDeadlineExpiry .c 5 1 restSense []) y).bank .c).conflicts = 2 := by decide +kernel

/-- "Preemption and a slip drop on a shared bank" (05): the head is granted at release plus MIN_DWELL. -/
theorem test_headTimerExpiry :
    let y := after (.headTimerExpiry .c ⟨0, true⟩ []) (waitingFor (some 5400) false)
    (y.bank .c).mode = .active ∧ (y.cyl .c3).event.map (fun e => e.pulses.map (·.slip)) = some [400, 0] := by decide +kernel

theorem test_settleExpiry :
    let y := after (.settleExpiry .c []) (withBankC { Bank.reset with mode := .settling, settleAt := some 5400 } running)
    (y.bank .c).mode = .idle ∧ y.now = 5400 := by decide +kernel

/-! ## Requests (07, "Request results seen by the host") -/

theorem test_service_accepted :
    let y := after (.service 4 0 100 ⟨0, true⟩ []) ready
    y.ctl.request = 0x0046 ∧ y.ctl.lastResult = .accepted ∧ (y.bank .a).mode = .active := by decide +kernel

theorem test_service_refused :
    let y := after (.service 2 0 200 ⟨0, true⟩ []) (servicing (.hold true))
    y.ctl.lastResult = .refused ∧ (y.bank .b).mode = .idle := by decide +kernel

/-- "A service pulse cut short by the starter" (06), with ts at tick 1,000. -/
theorem test_crankEdge_truncates_service :
    let y := after (.crankEdge .rising 4100 (.fill ⟨90, true⟩) []) (servicing (.hold true))
    y.trk.sync = .gapSearch ∧ (y.bank .c).channel.map (·.result) = some (some ⟨.truncated, 3100, 0, false⟩) := by decide +kernel

/-- A service pulse's quench end raises SERVICE_DONE. -/
theorem test_service_quench_end :
    let y := after (.quenchExpiry .c ⟨30, true⟩ []) (servicing .quench)
    y.ev.sticky = 0x8000 ∧ y.sb.service.driven = 18000 ∧ y.sb.service.outcome = 1 := by decide +kernel

theorem test_stop_refused : (after (.stop 7 0 100 (.fill restSense) []) ready).ctl.lastResult = .refused := by decide +kernel

/-- "A cycle stop overtaken by a cut" (07), the cut: the ACTIVE pulse is TRUNCATED and the other STOP_DROP. -/
theorem test_stop_cut :
    let y := after (.stop 0 0 2000 (.fill ⟨90, true⟩) []) (playing (.hold true))
    y.ctl.run = .stopping ∧ y.ctl.stopMode = .cut ∧ y.ev.sticky = 0x0800
      ∧ (y.cyl .c3).event.map (fun e => e.pulses.map (·.outcome)) = some [some .truncated, some .stopDrop] := by decide +kernel

theorem test_inhibit : (after (.inhibit 1 0) ready).ctl.inhibit = true := by decide +kernel

theorem test_release :
    (after (.release 7 0 []) ready).ctl.lastResult = .refused ∧ (after (.release 6 0 []) ready).ctl.lastResult = .accepted := by
  decide +kernel

theorem test_run :
    let y := after (.run 0 0 []) { ready with mem := trimMem }
    y.ctl.run = .running ∧ y.ev.sticky = 0x0800 ∧ y.su.slot = .slot1 ∧ (after (.run 0 0 []) y).ctl.lastResult = .refused := by
  decide +kernel

theorem test_undefinedRequest :
    let y := after (.undefinedRequest 9 1 2) ready
    y.ctl.request = 0x2019 ∧ y.ctl.lastResult = .refused := by decide +kernel

/-- R142, R166, R168: a word written under even sense raises MEM_PARITY, bit 13, when the host reads it. -/
theorem test_paritySense :
    let y := after (.hostMemoryRead 0x180) (after (.hostMemoryWrite 0x180 0xABCD) (after (.paritySense 1 0) ready))
    y.pins.busData = 0xABCD ∧ y.ev.sticky = 0x2000 ∧ y.sb.lastParityAddr = 0x0300 := by decide +kernel

/-! ## LOAD (08, "A LOAD that fails at the TDC check"), on a staging copy that has been read whole -/

/-- A V8 setup and one profile, but for cylinder 8's TDC_ANGLE. -/
def fieldsV8 (tdc8 : Nat) : List (Nat × Nat) :=
  [(0, 60 + 256 * 2), (4, 32), (6, 500), (8, 2000), (10, 3999), (0x0E, 8 + 256), (0x10, 3 + 256 * 16),
    (0x20, 0), (0x28, 2880), (0x30, 5760), (0x38, 8640), (0x40, 11520), (0x48, 14400), (0x50, 17280), (0x58, tdc8),
    (0x60, 216 + 256 * 8), (0x62, 1200), (256, 1 + 256 * 160), (258, 3000), (260, 4 + 256 * 96), (262, 80)]

def staged (tdc8 : Nat) : List StagedByte :=
  (List.range 288).map fun i =>
    let w := ((fieldsV8 tdc8).find? (fun p => p.1 == i / 2 * 2)).elim 0 Prod.snd
    ⟨BitVec.ofNat 8 (if i % 2 = 0 then w % 256 else w / 256), false⟩

def loading (tdc8 : Nat) : State :=
  { ready with
    ctl := { ready.ctl with run := .loading }, su := { ready.su with staging := staged tdc8 }, mem := trimMem }

theorem test_load : (after (.load 0 0 []) ready).ctl.run = .loading ∧ (after (.load 0 0 []) running).ctl.lastResult = .refused := by
  decide +kernel

theorem test_loadFail :
    let y := after (.loadFail []) (loading 22600)
    y.su.error = ⟨8, 0x58⟩ ∧ y.ctl.run = .stopped ∧ y.su.setup = none ∧ y.mem.readWord 0x196 = 0x58 := by decide +kernel

theorem test_loadComplete :
    let y := after (.loadComplete []) (loading 20160)
    y.ctl.run = .ready ∧ y.sb.live = true ∧ y.mem.readWord 0x19C = 0xFFFF
      ∧ (y.su.setup.map fun u => CylId.all.map u.firingPos) = some [1, 2, 3, 4, 5, 6, 7, 8] := by decide +kernel

/-- A bad read served after LAST_PARITY_ADDR has been written, the 18th access after the 17 reads of the trim copy, is recorded
(R168); one served before it is not, after a reset. -/
theorem test_loadComplete_badRead :
    [17, 18].map (fun n =>
      (after (.loadComplete [⟨n, .hostRead 0x880⟩])
        { loading 20160 with mem := (loading 20160).mem.writeWord 0x1100 5 true }).mem.readWord 0x19C) = [0xFFFF, 0x1100] := by
  decide +kernel

/-! ## Registers, memory, resets -/

theorem test_eventRead :
    let y := after .eventRead { ready with ev := ⟨0x0900, 0x0100⟩ }
    y.pins.busData = 0x0100 ∧ y.ev.sticky = 0x0800 := by decide +kernel

theorem test_eventMaskWrite :
    (after (.eventMaskWrite 0x0800) { ready with ev := ⟨0x0900, 0⟩ }).irq = true := by decide +kernel

theorem test_registerWriteIgnored : exec (.registerWriteIgnored 1 0xFFFF) ready = .next ready := rfl

theorem test_hostMemoryWrite_beyond : (after (.hostMemoryWrite 0x1800 7) ready).mem = ready.mem := by decide +kernel

/-- R170: READY is 2, cause POWER 1 in bits 12..11; SOFT is 3. -/
theorem test_status : ready.readRegister 1 = 0x0802 ∧ (after (.softReset 0 0) ready).readRegister 1 = 0x1800 := by decide +kernel

theorem test_powerOnReset :
    let y := after .powerOnReset ready
    y.held = true ∧ (after .powerOnResetEnd y).held = false ∧ y.mem.bytes = [] := by decide +kernel

theorem test_pinReset : heldReset.ctl.resetCause = .pin ∧ (after .pinResetRelease heldReset).held = false
    ∧ (after .eventRead heldReset).pins.busData = 0 := by decide +kernel

/-! ## What arrives during a command (09, R163, R164, R173) -/

/-- A host write between the two words of a LOAD failure: SETUP_ERROR keeps the host's value, its offset is the part's. -/
theorem test_arrival_between_words :
    let y := after (.loadFail [⟨1, .hostWrite 0xCA 7⟩, ⟨0, .hostWrite 0xCB 9⟩]) (loading 22600)
    y.mem.readWord 0x194 = 7 ∧ y.mem.readWord 0x196 = 0x58 ∧ y.ctl.run = .stopped := by decide +kernel

/-- "A reset during a write-back leaves its first words": the service entry, cut after two of its words. -/
theorem test_arrival_reset :
    let s := { servicing .quench with mem := words [(0x1B4, 1), (0x1B6, 1), (0x1B2, 1), (0x1B8, 0)], sb := ⟨true, 0xFFFF, .zero⟩ }
    let y := after (.quenchExpiry .c ⟨30, true⟩ [⟨2, .softReset 0 0⟩]) s
    [0x1B4, 0x1B6, 0x1B2, 0x1B8].map y.mem.readWord = [18000, 1850, 1, 0] ∧ y.ctl = Control.reset .soft ∧ y.bank .c = .reset := by
  decide +kernel

/-- A host read among the words returns what then stands. -/
theorem test_arrival_read :
    (after (.loadFail [⟨1, .hostRead 0xCA⟩]) (loading 22600)).pins.busData = 8 := by decide +kernel

/-- R37: ABORT_REQ written after the record's words have been read, and before the pair. -/
theorem test_arrival_abort : [(21, 4), (22, 4), (21, 0)].map (fun p =>
    ((State.take six (viewOf none) 6 ({ running with mem := recordMem 0x41 [] }.openPort
      [⟨p.1, .hostWrite 0x800 (BitVec.ofNat 16 (p.2 + 256 * 3))⟩])).2 matches .taken _,
    (State.take six (viewOf none) 6 ({ running with mem := recordMem 0x41 [] }.openPort
      [⟨p.1, .hostWrite 0x800 (BitVec.ofNat 16 (p.2 + 256 * 3))⟩])).2 == .closed .aborted true))
    = [(false, true), (true, false), (false, false)] := by decide +kernel

/-- R10, R183: a loss of sync leaves the host's value in NOISE_EDGES. -/
theorem test_syncLost_words :
    let s := { phased (turning .phased 20 3840 false false 1) with mem := words [(0x1A0, 77), (0x1A2, 78)], sb := ⟨true, 0xFFFF, .zero⟩ }
    let y := after (edgeAt 101000) s
    [0x1A0, 0x1A2, 0x1A4].map y.mem.readWord = [77, 78, 1] := by decide +kernel

/-- R147: in LOADING a host write inside a command of another cause meets the reading: a free value is consulted for it. -/
theorem test_arrival_loading :
    let s := servicing .quench
    let y := after (.quenchExpiry .c ⟨30, true⟩ [⟨0, .hostWrite 8 7⟩]) { s with ctl := { s.ctl with run := .loading } }
    y.freeCount = 1 ∧ y.mem.readWord 0x10 = 7 ∧ y.sb.service.driven = 18000 := by decide +kernel

/-- R173: the port takes no access during a power-on reset. -/
theorem test_port_power : BusAccess.returned (after .powerOnReset ready) (.registerRead 0) = none
    ∧ BusAccess.returned heldReset (.registerRead 0) = some 0 ∧ BusAccess.returned ready (.registerRead 0) = some 0x8401 := by
  decide +kernel

/-! ## Witnesses: the hypotheses of each statement are met, at the ends of their ranges -/

/-! ### Every command -/

theorem witness_StepTakesFrontCommand :
    ({ ready with pending := [.stall [], .eventRead] } : State).pending = .stall [] :: [.eventRead] ∧ ready.pending = [] :=
  ⟨rfl, rfl⟩

/-- The invariants hold in states in use, and a step there answers a next state. -/
theorem witness_StepKeepsMemoryForm :
    let s := { ready with mem := trimMem, pending := [.hostMemoryWrite 0x80 5] }
    s.memOk ∧ ∃ t, step s = .next t := by
  have h : trimMem.wf = true := by decide +kernel
  exact ⟨h, _, rfl⟩

theorem bankOf_ok (cond : ChannelCond) : (bankOf cond mainJob).ok := by
  by_cases c : cond = .quench <;>
    simp [bankOf, Bank.ok, Bank.holderOk, Bank.channelOk, Bank.waitOk, playerOf, Bank.reset, c, mainJob, Holder.dry]

theorem reset_ok : Bank.reset.ok := by simp [Bank.ok, Bank.holderOk, Bank.channelOk, Bank.waitOk, Bank.reset]

theorem withBankC_ok {x : Bank} (h : x.ok) (s : State) (hs : s.banks = .fill .reset) : (withBankC x s).banksOk := by
  intro bk
  cases bk <;> simp only [withBankC, State.bank, hs] <;> first | exact reset_ok | exact h

theorem witness_StepKeepsBankRules :
    let s := { playing (.hold true) with pending := [.settleExpiry .a []] }
    s.banksOk ∧ ∃ t, step s = .next t := ⟨withBankC_ok (bankOf_ok _) _ rfl, _, rfl⟩

theorem witness_StepKeepsRunRules :
    let s := { running with pending := [.inhibit 1 0] }
    s.runOk ∧ ∃ t, step s = .next t := ⟨by simp [State.runOk, running, ready, Control.reset, RunState.tracks], _, rfl⟩

theorem heldReset_ok : heldReset.held = true ∧ heldReset.heldOk :=
  ⟨by decide +kernel, fun _ => ⟨.pin, by decide +kernel⟩⟩

theorem witness_StepKeepsHeldReset : ∃ t, step { heldReset with pending := [.eventMaskWrite 1] } = .next t := ⟨_, rfl⟩

theorem witness_StepKeepsHoldLimit :
    let s := { ready with cyls := .fill { Cylinder.reset with holdCount := 2 }, pending := [.eventMaskWrite 1] }
    s.holdsOk ∧ ∃ t, step s = .next t := ⟨fun k => by cases k <;> decide +kernel, _, rfl⟩

/-- The last byte below the status block, and the first and last of the two regions above it. -/
theorem witness_HostRegionsKept :
    (∃ t, exec (.softReset 0 0) ready = .next t) ∧ ready.mem.calm ∧ ((0x17F : Nat) < 0x180)
      ∧ ¬ (Instr.loadFail [⟨0, .hostWrite 0x80 7⟩]).meets 0x81 ∧ (0x100 : Nat) ≠ 2 * (0x81 : BitVec 13).toNat := by
  refine ⟨⟨_, rfl⟩, rfl, by decide, ?_, by decide⟩
  rintro ⟨x, hx, data, h⟩
  simp only [Instr.during, List.mem_singleton] at hx
  subst hx
  cases h

theorem witness_RunStateMoves : ∃ t, exec (.load 0 0 []) ready = .next t ∧ t.ctl.run ≠ ready.ctl.run :=
  ⟨_, rfl, by decide +kernel⟩

theorem stall_resets (l : List Arrival) (h : ∀ x ∈ l, resetArrives x.what = false) : ¬ (Instr.stall l).resets := by
  rintro (⟨_, _, h'⟩ | h' | h' | ⟨x, hx, h'⟩)
  · cases h'
  · cases h'
  · cases h'
  · simp [h x hx] at h'

theorem witness_FlagsAndSettingsKept :
    (∃ t, exec (.stall [⟨0, .hostRead 5⟩]) ready = .next t) ∧ ¬ (Instr.stall [⟨0, .hostRead 5⟩]).resets
      ∧ (Instr.stall [⟨0, .hostRead 5⟩]).requestWord? = none :=
  ⟨⟨_, rfl⟩, stall_resets _ (by decide), rfl⟩

/-! ### What arrives during a command -/

theorem witness_ArbiterOrder :
    ready.held = false ∧ ready.mem.calm ∧ ready.ctl.run ≠ .loading ∧ (words []).wordBad 0x3000 = false
      ∧ (∀ x : State, State.writeWord 0x180 7 x = [((0x180 : Nat), (7 : Word))].foldl (fun x p => x.writeWord p.1 p.2) x)
      ∧ loadError (stageAll trimMem (staged 22600)) = some ⟨8, 0x58⟩ :=
  ⟨rfl, rfl, by decide, by decide +kernel, fun _ => rfl, by decide +kernel⟩

theorem witness_ResetDuringCommand :
    (Instr.stall [⟨1, .hostRead 5⟩, ⟨0, .softReset 0 0⟩]).during = [⟨1, .hostRead 5⟩] ++ [⟨0, .softReset 0 0⟩]
      ∧ (Instr.startExpiry restSense [⟨4, .pinReset⟩]).during = [] ++ [⟨4, .pinReset⟩]
      ∧ resetArrives (.hostRead 5) = false ∧ ready.held = false ∧ ready.mem.calm := ⟨rfl, rfl, rfl, rfl, rfl⟩

/-! ### Crank edges -/

/-- Whether a crank edge of the setup's polarity is taken and is no noise, decided. -/
def takenAt (u : Setup) (s : State) (t : Time) (i : Nat) : Bool :=
  s.su.setup == some u && s.ctl.run.tracks && s.trk.sync != .noSignal
    && s.trk.lastTime.any (fun l => i == min 16777215 (Time.since t l)) && (s.trk.expected u).all (fun x => decide (x ≤ 4 * i ∧ 0 < i))

theorem taken {u : Setup} {s : State} {t : Time} {i : Nat} (h : takenAt u s t i = true) : EdgeTaken u s u.crankEdge t i := by
  simp only [takenAt, Bool.and_eq_true, beq_iff_eq, bne_iff_ne, Option.any_eq_true, Option.all_eq_true_iff_get,
    decide_eq_true_eq] at h
  obtain ⟨⟨⟨⟨h1, h2⟩, h3⟩, l, h4, h5⟩, h6⟩ := h
  refine ⟨h1, h2, rfl, h3, ⟨l, h4, h5⟩, fun x hx => ?_⟩
  simpa [hx] using h6 (by simp [hx])

theorem ready_noService : ready.noService := fun bk => by cases bk <;> rfl

theorem witness_EdgesNotTaken :
    State.reset.ctl.run = .stopped ∧ (loading 0).ctl.run = .loading ∧ State.reset.su.setup = none
      ∧ ready.su.setup = some six ∧ Edge.falling ≠ six.crankEdge ∧ Edge.falling ≠ six.markerEdge
      ∧ ready.trk.sync = .noSignal ∧ (marked .gapSearch 0 false 0).trk.sync = .gapSearch
      ∧ (marked .gapCheck 0 false 0).trk.sync = .gapCheck := by decide +kernel

theorem servicing_playing : Playing (servicing (.hold true)) .c (playerOf (.hold true) (.service 0)) ⟨8, true⟩ :=
  ⟨rfl, by decide +kernel, by decide +kernel⟩

theorem witness_FirstEdge :
    ready.su.setup = some six ∧ ready.ctl.run.tracks = true ∧ ready.trk.sync = .noSignal ∧ ready.noService
      ∧ (servicing (.hold true)).trk.sync = .noSignal
      ∧ Playing (servicing (.hold true)) .c (playerOf (.hold true) (.service 0)) ((Four.fill ⟨8, true⟩).get .c)
      ∧ ((servicing (.hold true)).bank .c).holder = some ⟨.service 0, .c3, 1000⟩
      ∧ ((servicing (.hold true)).bank .c).mode = .active :=
  ⟨rfl, rfl, rfl, ready_noService, rfl, servicing_playing, rfl, rfl⟩

/-- Tooth 0 of the worked case: 4 × 13,274 is noise against 53,100, and 4 × 13,275 is not. -/
theorem witness_NoiseEdge :
    (phased tooth0).su.setup = some six ∧ (phased tooth0).ctl.run.tracks = true ∧ (phased tooth0).trk.lastTime = some 1257300
      ∧ tooth0.tooth ≠ six.n - six.m - 1
      ∧ 4 * min 16777215 (Time.since 1270574 1257300) < (phased tooth0).trk.tPred * 1
      ∧ ¬ (4 * min 16777215 (Time.since 1270575 1257300) < (phased tooth0).trk.tPred * 1
        ∨ min 16777215 (Time.since 1270575 1257300) = 0)
      ∧ min 16777215 (Time.since 1257300 1257300) = 0
      ∧ (phased (turning .gapSearch 0 0 false false 0)).trk.lastInterval = some 50000 := by decide +kernel

/-- Tooth 56, and tooth 0 in CRANK_SYNC where the angle falls back without the assumption. -/
theorem witness_PassedEdge :
    EdgeTaken six (phased tooth55) six.crankEdge 1050400 50400
      ∧ EdgeTaken six (phased { tooth57 with sync := .crankSync }) six.crankEdge 1257300 156000
      ∧ (phased tooth55).noService
      ∧ (tooth55.tLast = some 50000 ∧ (six.gapRatio * 50000 ≤ 16 * 50400 ↔ tooth55.tooth = six.n - six.m - 1)
        ∧ tooth55.lastAngle ≤ (six.wheelOffset + 11520 + 56 * (11520 / six.n)) % 23040
        ∧ tooth57.tLast = some 50900 ∧ (six.gapRatio * 50900 ≤ 16 * 156000 ↔ tooth57.tooth = six.n - six.m - 1)
        ∧ (phased tooth55).arm.pendingList = [] ∧ (phased tooth55).ctl.run = .ready) :=
  ⟨taken (by decide +kernel), taken (by decide +kernel), ready_noService, by decide +kernel⟩

/-- A gap of exactly 2.0 pitches: found, found before the last tooth, confirmed after it; and an edge one tick short of it. -/
theorem witness_GapFound :
    (EdgeTaken six (marked .gapSearch 0 false 0) six.crankEdge 101000 100000
        ∧ EdgeTaken six (marked .gapSearch 0 false 0) six.crankEdge 100999 99999
        ∧ EdgeTaken six (marked .gapCheck 0 false 0) six.crankEdge 101000 100000
        ∧ EdgeTaken six (phased (turning .gapCheck 57 0 false false 0)) six.crankEdge 101000 100000
        ∧ EdgeTaken { six with phaseAssume := true }
          (withSetup { six with phaseAssume := true } (phased (turning .gapCheck 57 0 false false 0))) .rising 101000 100000)
      ∧ (marked .gapSearch 0 false 0).noService
      ∧ (six.gapRatio * 50000 ≤ 16 * 100000 ∧ ¬ six.gapRatio * 50000 ≤ 16 * 99999 ∧ 57 = six.n - six.m - 1
        ∧ (marked .gapCheck 0 false 0).trk.tooth ≠ six.n - six.m - 1 ∧ (marked .gapCheck 0 false 0).trk.phaseAssumed = false) := by
  refine ⟨⟨?_, ?_, ?_, ?_, ?_⟩, ready_noService, by decide +kernel⟩ <;> exact taken (by decide +kernel)

/-- A run that stops under mode CYCLE. -/
def cycling : Control := { running.ctl with run := .stopping, stopMode := .cycle }

/-- An unexpected gap after tooth 20, and a missing gap after tooth 57; a stop in mode CYCLE. -/
theorem witness_SyncLost :
    EdgeTaken six (phased (turning .phased 20 3840 false false 0)) six.crankEdge 101000 100000
      ∧ EdgeTaken six (phased (turning .crankSync 57 10944 false false 0)) six.crankEdge 51000 50000
      ∧ (phased (turning .phased 20 3840 false false 0)).noService
      ∧ EdgeTaken six { phased (turning .phased 20 3840 false false 0) with ctl := cycling } six.crankEdge 101000 100000
      ∧ decide (six.gapRatio * 50000 ≤ 16 * 100000) ≠ decide (20 = six.n - six.m - 1)
      ∧ decide (six.gapRatio * 50000 ≤ 16 * 50000) ≠ decide (57 = six.n - six.m - 1) :=
  ⟨taken (by decide +kernel), taken (by decide +kernel), ready_noService,
    ⟨rfl, rfl, rfl, by decide, ⟨_, rfl, by decide +kernel⟩, by decide +kernel⟩, by decide +kernel⟩

theorem readTrim_trimMem : readTrim trimMem = some (.slot1, trimRaw) := by decide +kernel

/-- The wheel whose cycle begins at tooth 1. -/
def shifted : State :=
  withSetup { six with wheelOffset := 11400 } (phased { tooth57 with tooth := 0, rev := true, lastAngle := 22920 })

/-- Tooth 0 with its marker seen, with the third missing, and under the assumption; and another tooth. -/
theorem witness_CycleBoundary :
    (EdgeTaken six (phased tooth57) six.crankEdge 1257300 156000
        ∧ EdgeTaken six (phased { tooth57 with markerSeen := false, errorRun := 2 }) six.crankEdge 1257300 156000
        ∧ EdgeTaken six (phased { tooth57 with sync := .crankSync, phaseAssumed := true }) six.crankEdge 1257300 156000)
      ∧ EdgeTaken { six with wheelOffset := 11400 } shifted .rising 1152300 51000
      ∧ (readTrim trimMem = some (.slot1, trimRaw) ∧ readTrim badTrim = none ∧ shifted.mem.calm)
      ∧ (tooth57.phaseAssumed = false ∧ six.gapRatio * 50900 ≤ 16 * 156000 ∧ tooth57.tooth = six.n - six.m - 1
        ∧ six.wheelOffset % 23040 < tooth57.lastAngle ∧ ¬ six.gapRatio * 50900 ≤ 16 * 51000
        ∧ (11400 + 11520 + 1 * (11520 / six.n)) % 23040 < shifted.trk.lastAngle) := by
  refine ⟨⟨?_, ?_, ?_⟩, taken (by decide +kernel), ⟨readTrim_trimMem, by decide +kernel, rfl⟩, by decide +kernel⟩ <;>
    exact taken (by decide +kernel)

/-! ### The marker, and the stall -/

theorem markedTaken (sync : Sync) (angle : Nat) (assumed : Bool) (run : Nat) (c : MarkerClass)
    (h : six.classify ((turning sync 10 angle false assumed run).estimate six 1000) = c) :
    MarkerTaken six (marked sync angle assumed run) six.markerEdge 1000 c := ⟨rfl, rfl, rfl, h⟩

/-- Each clause at an end of its window: 2,000 to 3,999, and its twin 13,520 to 15,519. -/
theorem witness_MarkerPhases :
    MarkerTaken six (marked .crankSync 2000 true 0) six.markerEdge 1000 .window
      ∧ MarkerTaken six (marked .crankSync 13520 false 0) six.markerEdge 1000 .twin
      ∧ MarkerTaken six (marked .crankSync 1999 false 0) six.markerEdge 1000 .outside
      ∧ MarkerTaken six (marked .phased 3999 false 2) six.markerEdge 1000 .window
      ∧ MarkerTaken six (marked .phased 4000 false 1) six.markerEdge 1000 .outside := by
  refine ⟨?_, ?_, ?_, ?_, ?_⟩ <;> exact markedTaken _ _ _ _ _ (by decide +kernel)

theorem witness_MarkerSlipOrLoss :
    MarkerTaken six (marked .phased 15519 false 0) six.markerEdge 1000 .twin
      ∧ MarkerTaken six (marked .crankSync 13520 true 0) six.markerEdge 1000 .twin
      ∧ MarkerTaken six (marked .phased 4000 false 2) six.markerEdge 1000 .outside ∧ (marked .phased 4000 false 2).trk.errorRun = 2
      ∧ (marked .phased 4000 false 2).mem.calm
      ∧ MarkerTaken six { marked .phased 4000 false 2 with ctl := cycling } six.markerEdge 1000 .outside := by
  refine ⟨?_, ?_, ?_, rfl, rfl, ⟨rfl, rfl, rfl, by decide +kernel⟩⟩ <;> exact markedTaken _ _ _ _ _ (by decide +kernel)

theorem witness_StallExpiry : (marked .phased 0 false 0).trk.stallAt = some 5001000 ∧ ready.trk.stallAt = none
    ∧ cycling.run = .stopping ∧ cycling.stopMode = .cycle := ⟨rfl, rfl, rfl, rfl⟩

/-! ### Latch, take and fallback -/

/-- LATCH_ADVANCE at its least and its greatest, and the latch points that lie farthest from the edge. -/
theorem witness_NextEntries :
    (960 ≤ 960 ∧ 960 ≤ 5760 ∧ 5760 ≤ 5760 ∧ (six.cyls.get .c1).tdc < 23040 ∧ (23039 : Nat) < 23040)
      ∧ [(960, 0), (5760, 23039), (1920, 21120), (1920, 21121)].map (fun p => freshTarget six p.1 (viewAt p.2 50000 0xFFFF) .c1)
        = [0, 1, 0, 1]
      ∧ ready.ctl.run ≠ .running ∧ ready.ctl.run ≠ .stopping ∧ running.ctl.run = .running := by decide +kernel

theorem witness_LatchMade :
    ready.su.setup = some six ∧ ready.mem.calm ∧ (ready.cyl .c3).event = none ∧ ({ ready.sb with live := true } : StatusOwner).live = true :=
  ⟨rfl, rfl, rfl, rfl⟩

/-- One event with a pulse in play, one with a pulse in QUENCH, one that waits, and one with a dry holder. -/
theorem witness_Overrun :
    ((playing (.hold true)).banksOk ∧ (playing .quench).banksOk ∧ (armedFor .held false (words [])).banksOk)
      ∧ (Playing { playing (.hold true) with pins := { ready.pins with sense := .fill ⟨8, true⟩ } } .c
          (playerOf (.hold true) mainJob) ((Four.fill ⟨8, true⟩).get .c)
        ∧ mainJob = .event 5 1 .main false ∧ (playing (.hold true)).bankOf .c3 = .c)
      ∧ ((playing .quench).cyl .c3).event = some (eventOf .held false [pulse 1 .main .quench (some .fired), pulse 2 .post .pending none])
      ∧ ((playing .quench).bank .c).mode = .quench
      ∧ ((armedFor .held false (words [])).bank .c).holder = none
      ∧ ((dryHeld.bank .c).holder = some ⟨.event 5 1 .main true, .c3, 1000⟩ ∧ (dryHeld.bank .c).mode = .active
        ∧ dryHeld.bankOf .c3 = .c ∧ (dryHeld.bank .c).waiting = []
        ∧ (dryHeld.cyl .c3).event = some (eventOf .held true [pulse 1 .main .active none, pulse 2 .post .pending none])) :=
  ⟨⟨withBankC_ok (bankOf_ok _) _ rfl, withBankC_ok (bankOf_ok _) _ rfl, fun bk => by cases bk <;> exact reset_ok⟩,
    ⟨⟨rfl, by decide +kernel, by decide +kernel⟩, rfl, rfl⟩, rfl, rfl, rfl, ⟨rfl, rfl, rfl, rfl, rfl⟩⟩

theorem witness_RecordPlacement :
    (∀ i j : CylId, i ≠ j → i.number ≤ six.cylCount → j.number ≤ six.cylCount → (six.cyls.get i).tdc ≠ (six.cyls.get j).tdc)
      ∧ (recordMem 0x42 []).calm
      ∧ ((recordMem 0x42 []).wordBad 0x1000 = false ∧ (recordMem 0x42 []).wordBad 0x1002 = false
        ∧ (recordMem 0x42 []).readByte 0x1000 = 1 ∧ ((recordMem 0x42 []).readByte 0x1001).toNat = CylId.c3.number
        ∧ place six .c3 .c3 ((recordMem 0x42 []).readByte 0x1002) ((viewOf none).target.extractLsb' 0 8) = .future)
      ∧ ((recordMem 0x42 []).writeWord 0x1000 0x0304 false).readByte 0x1000 = 4
      ∧ (CylId.c1.number ≤ six.cylCount ∧ CylId.c6.number ≤ six.cylCount ∧ six.firingPos .c1 = 1 ∧ six.firingPos .c6 = 6) :=
  ⟨fun i j => by cases i <;> cases j <;> decide +kernel, rfl, by decide +kernel, by decide +kernel, by decide +kernel⟩

/-- One record for each end: the two words damaged, CYL 0 and 7, a tag one behind, ABORT_REQ, an entry damaged, KIND 4. -/
theorem witness_RecordsFinalised :
    ((running.su.setup = some six ∧ (recordMem 0x41 []).calm) ∧ running.latch.takePos < 64)
      ∧ ((damaged 0x1000 0x0301).wordBad 0x1000 = true ∧ (damaged 0x1002 0x0141).wordBad 0x1002 = true
        ∧ (damaged 0x1002 0x0141).wordBad 0x1000 = false ∧ (words [(0x1000, 1 + 256 * 7)]).readByte 0x1001 = 7
        ∧ six.cylCount < 7 ∧ (words [(0x1000, 4)]).readByte 0x1000 = 4 ∧ (words [(0x1000, 2)]).readByte 0x1000 = 2)
      ∧ (place six .c3 .c3 0x40 0x41 = .past ∧ place six .c3 .c3 0x41 0x41 = .matching
        ∧ (damaged 0x1020 0).wordBad 0x1020 = true ∧ (damaged 0x1020 0).wordBad 0x1002 = false)
      ∧ planValid 2 [⟨0, 4, 0, 0, 1⟩] = false ∧ planValid 2 [⟨0, 2, 1, -5760, 1⟩, ⟨1, 3, 0, 5759, 1⟩] = true :=
  ⟨⟨⟨rfl, rfl⟩, by decide +kernel⟩, by decide +kernel⟩

/-- Also the host's write of ABORT_REQ, with the record's CYL, that may arrive at any of its accesses. -/
theorem witness_TakeRecord :
    (recordMem 0x41 []).calm
      ∧ (∀ j, j < 17 → (recordMem 0x41 []).wordBad (0x1000 + 2 * j) = false)
      ∧ ((recordMem 0x41 []).readByte 0x1000 = 1 ∧ ((recordMem 0x41 []).readByte 0x1001).toNat = (viewOf none).cyl.number
        ∧ (recordMem 0x41 []).readByte 0x1002 = (viewOf none).target.extractLsb' 0 8 ∧ (viewOf none).cut = none
        ∧ planValid six.profiles.length
          [⟨0, 2, 0, -96, 9000⟩, ⟨1, 0, 0, 0, 0⟩, ⟨2, 0, 0, 0, 0⟩, ⟨3, 0, 0, 0, 0⟩, ⟨4, 0, 0, 0, 0⟩] = true)
      ∧ 2 * (0x800 : BitVec 13).toNat = 0x1000 ∧ (0x0304 : Word).extractLsb' 8 8 = (recordMem 0x41 []).readByte 0x1001
      ∧ (0x0304 : Word).extractLsb' 0 8 = (4 : Byte) ∧ running.ctl.evenParity = false :=
  ⟨rfl, by decide +kernel⟩

theorem witness_FallbackWithoutFuel :
    six.limp = none ∧ (ready.cyl (viewOf none).cyl).held = none
      ∧ ready.su.trim.holdLimit ≤ ({ ready.cyl .c3 with holdCount := 2 } : Cylinder).holdCount := by decide +kernel

/-- A held plan one below HOLD_LIMIT, a limp plan, a pulse on the edge itself (TDC 7,680, REL_ANGLE −96), and a plan whose pulses
all lie behind the edge, the nearest by one step. -/
theorem witness_FallbackPlans :
    (running.ctl.run = .running ∧ onePulse ≠ []
      ∧ ∀ p ∈ onePulse, ((viewOf none).target - 0x0141).toInt * 23040 + (six.cyls.get .c3).tdc + p.relAngle - 7585 < (0 : Int)) ∧
    ({ ready.cyl .c3 with held := some onePulse, holdCount := 1 } : Cylinder).holdCount < ready.su.trim.holdLimit
      ∧ (ready.cyl .c3).held = none ∧ ({ six with limp := some onePulse } : Setup).limp = some onePulse
      ∧ ∀ p ∈ onePulse, (0 : Int) ≤ ((viewOf none).target - 0x0141).toInt * 23040 + (six.cyls.get .c3).tdc + p.relAngle - 7584 := by
  decide +kernel

/-- A taken record without pulses, with a pulse on the edge, and with one a step behind it; an ABORTED one with a hold count; and both
fallbacks. -/
theorem witness_TakeServed :
    let s := { running with cyls := running.cyls.set .c3 { running.cyl .c3 with holdCount := 2 } }
    (s.mem.calm ∧ (s.cyl (viewOf none).cyl).event = none ∧ s.ctl.run = .running ∧ (s.cyl .c3).holdCount ≠ 0 ∧ (63 : Nat) < 64)
      ∧ ((∀ p ∈ onePulse, (0 : Int) ≤ ((viewOf none).target - 0x0141).toInt * 23040 + (six.cyls.get .c3).tdc + p.relAngle - 7584)
        ∧ ∀ p ∈ onePulse, ((viewOf none).target - 0x0141).toInt * 23040 + (six.cyls.get .c3).tdc + p.relAngle - 7585 < (0 : Int))
      ∧ onePulse ≠ [] ∧ (viewOf none).cut = none ∧ (viewOf (some .quarantined)).cut = some .quarantined :=
  ⟨⟨rfl, by decide +kernel⟩, by decide +kernel⟩

theorem witness_WriteBack :
    let e := eventOf .plan false [pulse 1 .main .resolved (some .fired)]
    ((withEvent e running).cyl .c3).event = some e ∧ e.source = .plan ∧ e.record = some 2 ∧ running.mem.calm
      ∧ (∀ p ∈ e.pulses, p.cond = .resolved) ∧ running.ctl.run ≠ .stopping
      ∧ e.pulses.find? (fun p => p.plan.index == 1) = some (pulse 1 .main .resolved (some .fired))
      ∧ ∀ p ∈ e.pulses, p.plan.index ≠ 0 := ⟨rfl, rfl, rfl, rfl, by decide +kernel⟩

/-! ### Arming and starts -/

/-- Also an edge before the gap and one within a tooth pitch, the overspeed cut at its bounds, and a window through 0 at its greatest width. -/
theorem witness_PredictionAndAngles :
    ((16777215 : Nat) ≤ 16777215 ∧ predict true (some 16777215) (some 0) = 16777215) ∧ (2399 : Nat) ≤ 2399 ∧ (160 : Nat) ≤ 160 ∧ (160 : Nat) ≤ 480 ∧ (480 : Nat) ≤ 480
    ∧ (angleToTime 2399 16777215 160).toNat < 2 ^ 29
    ∧ (tooth57.sync = .phased ∧ tooth57.lastTime.isSome = true ∧ tooth57.tooth = six.n - six.m - 1 ∧ tooth57.tPred ≠ 0
      ∧ (turning .crankSync 10 0 false false 0).sync = .crankSync ∧ (turning .crankSync 10 0 false false 0).tooth ≠ six.n - six.m - 1)
    ∧ ((2719 + 23040 - 20000) % 23040 < 5760 ∧ (19999 : Nat) < 23040
      ∧ [20000, 2719, 19999, 2720, 8480, 14239, 8479, 14240].map ({ six with markerLo := 20000, markerHi := 2719 } : Setup).classify =
        [.window, .window, .outside, .outside, .twin, .twin, .outside, .outside])
    ∧ ([4999, 5000, 5100, 5101].map (fun x => overspeedAfter 5000 100 (some x) false) = [true, false, false, false]
      ∧ [4999, 5000, 5100, 5101].map (fun x => overspeedAfter 5000 100 (some x) true) = [true, true, true, false]
      ∧ overspeedAfter 0 100 (some 50) true = false)
    ∧ running.su.setup = some six ∧ running.trk.sync = .noSignal := by decide +kernel

/-- RUNNING, with the MAIN of an event pending. -/
def pendingMain (source : Source) : State :=
  { withEvent (eventOf source false [pulse 1 .main .pending none, pulse 2 .post .pending none]) running with
    arm := ⟨[armEntry], []⟩ }

/-- Where the start of a pulse `d` steps ahead of the edge at tick 1,000 lies, with a lead of 3,000. -/
def aheadBy (d tPred : Nat) : Time := 1000 + BitVec.ofNat 32 ((d * tPred + 96) / 192) - 3000

/-- W + D is 384: at it, and nearer: the start one tick ahead, at the edge, 2,000 ticks late, and 2,001 ticks late. -/
theorem witness_ArmingStep :
    ((pendingMain .held).su.setup = some six
        ∧ ((pendingMain .held).cyl .c3).event = some (eventOf .held false [pulse 1 .main .pending none, pulse 2 .post .pending none])
        ∧ (eventOf .held false [pulse 1 .main .pending none, pulse 2 .post .pending none]).others 1 ∧ (pendingMain .held).mem.calm)
      ∧ (pendingMain .held).noAbort (eventOf .held false [pulse 1 .main .pending none, pulse 2 .post .pending none])
      ∧ (24 ≤ six.n ∧ six.n ≤ 72 ∧ 11520 / six.n = 192 ∧ armEntry.window + 192 = 384
        ∧ (192 : Int) = (armEntry.target - 7).toInt * 23040 + armEntry.offset - 22752
        ∧ [3001, 3000, 1000, 999].map (fun t => (aheadBy 192 t - 1000).toInt) = [1, 0, -2000, -2001]
        ∧ armEntry.slipLimit = 2000 ∧ armEntry.lead = 3000)
      ∧ (words [(0x1100, 4)]).readByte (0x1000 + 128 * 2) = 4 :=
  ⟨⟨rfl, rfl, ⟨_, .tail _ (.head _), by decide +kernel⟩, rfl⟩, (by intro i h; cases h), by decide +kernel⟩

/-- Two late pulses whose starts lie on either side of the tick count's wrap and whose sequences do. -/
theorem witness_ArmingStep_late :
    let a : ArmedEntry := ⟨{ armEntry with seq := 0xFFFF }, 0xFFFFFFFF⟩
    let b : ArmedEntry := ⟨{ armEntry with seq := 0 }, 0⟩
    (∀ x ∈ [a, b], ((100 : Time) - x.start).toNat < 2 ^ 31 ∧ (x.entry.seq - 0xFFFF).toNat < 2 ^ 15)
      ∧ ArmedEntry.presentBefore a b = true ∧ six.profiles[0]? = some boosted := by decide +kernel

theorem starting (source : Source) (dry : Bool) (l : List (Nat × Nat)) (h : (words l).port = none) :
    Starting six (armedFor source dry (words l)) ⟨armEntry, 5000⟩ []
      (eventOf source dry [pulse 1 .main .armed none, pulse 2 .post .pending none]) (pulse 1 .main .armed none) .c :=
  ⟨rfl, rfl, rfl, rfl, rfl, rfl, rfl, h⟩

theorem witness_StartGrants (dry : Bool) :
    let s := armedFor .held dry (words [])
    Starting six s ⟨armEntry, 5000⟩ [] (eventOf .held dry [pulse 1 .main .armed none, pulse 2 .post .pending none])
        (pulse 1 .main .armed none) .c
      ∧ s.noAbort (eventOf .held dry [pulse 1 .main .armed none, pulse 2 .post .pending none])
      ∧ six.profiles[(pulse 1 .main .armed none).plan.profile]? = some boosted
      ∧ (s.bank .c).holder = none ∧ (s.bank .c).waiting = [] ∧ (s.bank .c).openAt true 400 1500 5000
      ∧ (215 : Byte).toNat < (six.banks.get .c).shortLevel :=
  ⟨starting _ _ _ rfl, (by intro i h; cases h), rfl, rfl, rfl, ⟨(by intro r h; cases h), (by intro _ r h; cases h)⟩,
    by decide +kernel⟩

/-- A bank released 400 ticks before the start is open at it, to the tick. -/
theorem witness_StartGrants_guard : ({ Bank.reset with releaseAt := some 4600 } : Bank).openAt false 400 1500 5000 :=
  ⟨by intro r h; cases h; decide +kernel, (by intro h; cases h)⟩

theorem witness_StartJoins :
    let s := withBankC (bankOf .freewheel (.event 5 0 .pilot false)) (armedFor .held false (words []))
    Starting six s ⟨armEntry, 5000⟩ [] (eventOf .held false [pulse 1 .main .armed none, pulse 2 .post .pending none])
        (pulse 1 .main .armed none) .c
      ∧ (s.bank .c).holder = some ⟨.event 5 0 .pilot false, .c3, 1000⟩ ∧ (s.bank .c).waiting.length < 4
      ∧ ¬ ∃ seq i dry, Job.event 5 0 .pilot false = .event seq i .post dry ∧ seq ≠ 5 :=
  ⟨⟨rfl, rfl, rfl, rfl, rfl, rfl, rfl, rfl⟩, rfl, by decide +kernel, (by rintro ⟨_, _, _, h, _⟩; cases h)⟩

/-- The MAIN's request at bank C. -/
def mainRequest : Request := { requestOf false with deadline := 7000, minDwell := 400, recharge := 1500 }

/-- A played and a dry POST of cylinder 6 to preempt, a list of four to crowd, and a bank 399 ticks after its release. -/
theorem witness_RequestContends :
    ((postHeld false).bank .c).holder = some ⟨.event 9 0 .post false, .c6, 1000⟩ ∧ ((postHeld false).bank .c).mode = .active
      ∧ (Playing (postHeld false) .c postPlayer ⟨8, true⟩ ∧ postPlayer.job = .event 9 0 .post false ∧ postPlayer.grantedAt = 1000)
      ∧ ((postHeld true).cyl .c6).event = some (postEvent true) ∧ (postEvent true).others 0
      ∧ ((2000 : Nat) + Time.since 5000 1000 < 20000 ∧ six.profiles[1]?.map Profile.boostMark = some false
        ∧ 50 ≤ running.su.trim.minDwell ∧ running.su.trim.minDwell ≤ 20000)
      ∧ ((crowded .post).bank .c).waiting.length = 4
      ∧ ((insertBy Request.before mainRequest ((crowded .post).bank .c).waiting).getLast?.map fun r => (r.cyl, r.seq, r.index))
        = some (.c6, 9, 3)
      ∧ ((insertBy Request.before mainRequest ((crowded .main).bank .c).waiting).getLast?.map fun r => (r.cyl, r.seq, r.index))
        = some (.c3, 5, 1)
      ∧ ({ Bank.reset with releaseAt := some 4601 } : Bank).instant { mainRequest with boost := false } = some 5001
      ∧ Time.later 5001 5000 = true := by
  refine ⟨rfl, rfl, ⟨⟨rfl, by decide +kernel, by decide +kernel⟩, rfl, rfl⟩, rfl, ⟨_, .tail _ (.head _), by decide +kernel⟩, ?_⟩
  decide +kernel

/-- A record in ABORT_REQ, one whose STATE word has bad parity, and the pulse that waits at bank C. -/
theorem witness_StartAbortsAndDeadlines :
    Starting six (armedFor .plan false (words [(0x1100, 4)])) ⟨armEntry, 5000⟩ []
        (eventOf .plan false [pulse 1 .main .armed none, pulse 2 .post .pending none]) (pulse 1 .main .armed none) .c
      ∧ (eventOf .plan false [pulse 1 .main .armed none, pulse 2 .post .pending none]).others 1
      ∧ (eventOf .held false [pulse 1 .main .waiting none, pulse 2 .post .pending none]).others 1
      ∧ ((eventOf .plan false []).record = some 2 ∧ (words [(0x1100, 4)]).readByte (0x1000 + 128 * 2) = 4
        ∧ ((words []).writeWord 0x1100 2 true).wordBad (0x1000 + 128 * 2) = true ∧ ready.arm.armedSet = [])
      ∧ (((waitingFor (some 5400) false).bank .c).waiting.find? fun q => q.seq == 5 && q.index == (1 : BitVec 3).toNat)
        = some (requestOf false)
      ∧ ((withBankC { bankOf .quench mainJob with waiting := [requestOf false] } running).bank .c).holder.isSome = true
      ∧ ∀ r ∈ (ready.bank .c).waiting, r.seq ≠ 5 ∨ r.index ≠ (1 : BitVec 3).toNat :=
  ⟨starting _ _ _ rfl, ⟨_, .tail _ (.head _), by decide +kernel⟩, ⟨_, .tail _ (.head _), by decide +kernel⟩, by decide +kernel, rfl,
    rfl, (by intro r h; cases h)⟩

/-- The two terms one tick apart either way; a request without a boost has one; and neither term. -/
theorem witness_HeadAndSettleTimers_instant :
    let x : Bank := { Bank.reset with releaseAt := some 5000, boostEnd := some 3901 }
    x.instant (requestOf false) = some 5401 ∧ ({ x with boostEnd := some 3899 } : Bank).instant (requestOf false) = some 5400
      ∧ x.instant { requestOf false with boost := false } = some 5400
      ∧ Bank.reset.instant (requestOf false) = none := by decide +kernel

/-- At the release the head's instant lies 400 ticks on, and at that instant the bank is open to it. -/
theorem witness_HeadAndSettleTimers (dry : Bool) :
    ((waitingFor (some 5000) dry).bank .c).headAt = some 5000 ∧ ((waitingFor (some 5000) dry).bank .c).waiting = requestOf dry :: []
      ∧ ((waitingFor (some 5000) dry).bank .c).instant (requestOf dry) = some 5400 ∧ Time.later 5400 5000 = true
      ∧ ((waitingFor (some 5400) dry).bank .c).openAt true 400 1500 5400
      ∧ Time.since 5400 (requestOf dry).start ≤ Time.since (requestOf dry).deadline (requestOf dry).start
      ∧ ((waitingFor (some 5400) dry).cyl .c3).event
        = some (eventOf .held dry [pulse 1 .main .waiting none, pulse 2 .post .pending none])
      ∧ ((0 : Nat) < (six.banks.get .c).shortLevel ∧ (ready.bank .c).headAt = none ∧ (ready.bank .c).mode ≠ .settling
        ∧ ((waitingFor none false).bank .c).mode = .settling ∧ ((waitingFor none false).bank .c).settleAt = some 5400) := by
  refine ⟨rfl, rfl, rfl, by decide +kernel, ⟨?_, ?_⟩, (by cases dry <;> decide +kernel), rfl, by decide +kernel⟩
  · intro r h
    cases h
    decide +kernel
  · intro _ b h
    cases h

/-! ### Banks and channels -/

theorem playing_playing (cond : ChannelCond) (h : cond ≠ .quench) (n : Byte) (hn : 8 ≤ n.toNat) :
    Playing (playing cond) .c (playerOf cond mainJob) ⟨n, true⟩ := ⟨rfl, h, hn⟩

theorem witness_CapExpiry :
    ((playing (.hold true)).bank .c).capAt = some 19000 ∧ ((playing (.hold true)).bank .c).mode = .active
      ∧ ((playing (.hold true)).bank .c).holder = some ⟨mainJob, .c3, 1000⟩
      ∧ ((playing (.hold true)).cyl .c3).event = some (eventOf .held false [pulse 1 .main .active none, pulse 2 .post .pending none])
      ∧ (playing (.hold true)).bankOf .c3 = .c ∧ Playing (playing (.hold true)) .c (playerOf (.hold true) mainJob) ⟨8, true⟩
      ∧ (dryHeld.bank .c).capAt = some 19000 ∧ dryHeld.bankOf .c3 = .c ∧ (ready.bank .c).capAt = none
      ∧ ((dryHeld.bank .c).holder = some ⟨.event 5 1 .main true, .c3, 1000⟩ ∧ (dryHeld.bank .c).mode = .active
        ∧ (dryHeld.cyl .c3).event = some (eventOf .held true [pulse 1 .main .active none, pulse 2 .post .pending none])) :=
  ⟨rfl, rfl, rfl, rfl, rfl, playing_playing _ (by decide) _ (by decide), rfl, rfl, rfl, rfl, rfl, rfl⟩

/-- The drive stays one tick below the cap with a DRIVE_MAX of 20,001. -/
theorem witness_DurationExpiry :
    let e := { eventOf .held false [pulse 1 .main .active none, pulse 2 .post .pending none] with
      snap := ⟨192, 1000, 2000, 4000, 20001⟩ }
    Playing (withEvent e (playing (.hold true))) .c (playerOf (.hold true) mainJob) ⟨8, true⟩
      ∧ ((withEvent e (playing (.hold true))).cyl .c3).event = some e
      ∧ e.drive + Time.since (playerOf (.hold true) mainJob).durationAt 1000 < e.snap.driveMax
      ∧ Playing (servicing (.hold true)) .c (playerOf (.hold true) (.service 0)) ⟨8, true⟩
      ∧ (ready.bank .c).channel = none ∧ (ready.bank .c).dryEndAt = none :=
  ⟨⟨rfl, by decide, by decide⟩, rfl, by decide +kernel, servicing_playing, rfl, rfl⟩

theorem witness_DurationExpiry_dry :
    (dryHeld.bank .c).dryEndAt = some 18999 ∧ (dryHeld.bank .c).channel = none ∧ (dryHeld.bank .c).mode = .active
      ∧ (dryHeld.cyl .c3).event = some (eventOf .held true [pulse 1 .main .active none, pulse 2 .post .pending none])
      ∧ (eventOf .held true [pulse 1 .main .active none, pulse 2 .post .pending none]).others 1
      ∧ 2000 + Time.since 18999 1000 < 20000 ∧ (dryHeld.bank .c).waiting = [] :=
  ⟨rfl, rfl, rfl, rfl, ⟨_, .tail _ (.head _), by decide +kernel⟩, by decide +kernel, rfl⟩

/-- The three causes: a rise limit, a short report at 216 codes, and one that stands where a FREEWHEEL ends before HOLD or before
another FREEWHEEL; with a fault limit of 3, the first fault, and the third. -/
theorem witness_FaultEnds :
    (Playing (playing (.boostRise false 160)) .c (playerOf (.boostRise false 160) mainJob) ⟨8, true⟩
        ∧ Playing (playing (.hold true)) .c (playerOf (.hold true) mainJob) ⟨216, true⟩
        ∧ Playing (playing .freewheel) .c (playerOf .freewheel mainJob) ⟨216, true⟩)
      ∧ (playerOf (.boostRise false 160) mainJob).phaseTimer = some 4000
      ∧ ({ playerOf .freewheel mainJob with phase := 1 } : Player).profile.ramps.drop 2 = []
      ∧ (playerOf .freewheel mainJob).profile.ramps.drop 1 = .freewheel 200 :: []
      ∧ (2000 + Time.since 4000 1000 < 20000 ∧ (playerOf (.hold true) mainJob).shortLevel ≤ (216 : Byte).toNat
        ∧ ((playing (.hold true)).cyl .c3).faults + 1 < (playing (.hold true)).faultLimit
        ∧ (playing (.hold true)).faultLimit ≤ 2 + 1) :=
  ⟨⟨playing_playing _ (by decide) _ (by decide), playing_playing _ (by decide) _ (by decide),
    playing_playing _ (by decide) _ (by decide)⟩, rfl, rfl, rfl, by decide +kernel⟩

/-- A phase that rests in FREEWHEEL, in HOLD, and in each rise one code below its level; and phases passed at their entry. -/
theorem witness_PhaseEnds :
    (Rests ⟨160, true⟩ 96 2850 (boosted.ramps.drop 1) .freewheel (some (Time.add 2850 200))
        ∧ Rests ⟨112, true⟩ 96 4000 (boosted.ramps.drop 2) (.hold false) none
        ∧ Rests ⟨10, false⟩ 96 4000 [.boostRise 11 3000] (.boostRise false 11) (some (Time.add 4000 3000)))
      ∧ (∀ r ∈ [Ramp.freewheel 0, .batteryRise 10 3000], r.passes ⟨10, true⟩)
      ∧ ((160 : Byte).toNat < (playerOf (.boostRise true 160) mainJob).shortLevel ∧ (160 : Nat) ≤ (160 : Byte).toNat
        ∧ (playerOf .freewheel mainJob).phaseTimer = some 4000)
      ∧ ∀ p, (ready.bank .c).channel = some p → p.cond ≠ .freewheel := by
  refine ⟨⟨.inr (.inl ⟨200, [], rfl, by decide, rfl, rfl⟩), .inl ⟨rfl, by decide⟩, .inr (.inr (.inr ⟨11, 3000, [], rfl, by decide⟩))⟩,
    fun r h => ?_, by decide +kernel, (by intro p h; cases h)⟩
  simp only [List.mem_cons, List.not_mem_nil, or_false] at h
  obtain rfl | rfl := h
  · exact .inl rfl
  · exact .inr ⟨10, 3000, .inr rfl, by decide⟩

theorem witness_InputsAndGates :
    ((playing (.hold true)).bank .c).channel = some (playerOf (.hold true) mainJob)
      ∧ (playerOf (.hold true) mainJob).profile.holdUpper ≤ (96 : Byte).toNat
      ∧ (79 : Byte).toNat < (playerOf (.hold false) mainJob).profile.holdLower ∧ (ready.bank .c).channel = none
      ∧ ((playing .quench).bank .c).channel = some (playerOf .quench mainJob)
      ∧ (playerOf .quench mainJob).cond = .quench ∧ (playerOf (.hold false) mainJob).cond = .hold false := by
  decide +kernel

/-- Also the quench after an overrun, with the place empty, and with the next event, of sequence 6, in it. -/
theorem witness_QuenchEnds :
    ((playing .quench).bank .c).channel = some (playerOf .quench mainJob) ∧ (playerOf .quench mainJob).quenchAt = some 20200
      ∧ (7 : Byte).toNat < (playerOf .quench mainJob).quenchLevel ∧ ((playing .quench).bank .c).waiting = []
      ∧ ((playing .quench).cyl .c3).event
        = some (eventOf .held false [pulse 1 .main .quench (some .fired), pulse 2 .post .pending none])
      ∧ (eventOf .held false [pulse 1 .main .quench (some .fired), pulse 2 .post .pending none]).others 1
      ∧ (({ withBankC (bankOf .quench mainJob) running with cyls := running.cyls }).cyl .c3).event = none
      ∧ (({ eventOf .held false [pulse 0 .main .pending none] with seq := 6 } : Event).seq ≠ 5
        ∧ (∃ q ∈ (eventOf .held false [pulse 0 .main .pending none]).pulses, q.cond ≠ .resolved)
        ∧ ((servicing .quench).bank .c).channel = some (playerOf .quench (.service 0))
        ∧ (playerOf .quench (.service 0)).result = some ⟨.fired, 18000, 1850, false⟩) :=
  ⟨rfl, rfl, by decide, rfl, rfl, ⟨_, .tail _ (.head _), by decide +kernel⟩, rfl, by decide +kernel⟩

theorem playing_spent (cond : ChannelCond) (h : cond ≠ .quench) :
    Spent (playing cond) .c (playerOf cond mainJob) ⟨7, true⟩ := ⟨rfl, h, (by decide : (7 : Byte).toNat < 8)⟩

/-- One code below QUENCH_LEVEL: a pulse at its duration expiry and at its rise limit, one that shares its event with no ACTIVE pulse,
a POST that a MAIN preempts, and the service pulse. -/
theorem witness_QuenchAtEntry :
    let e := eventOf .held false [pulse 1 .main .active none, pulse 2 .post .pending none]
    (Spent (playing (.boostRise false 160)) .c (playerOf (.boostRise false 160) mainJob) ⟨7, true⟩
        ∧ Spent (servicing (.hold true)) .c (playerOf (.hold true) (.service 0)) ((Four.fill ⟨7, true⟩).get .c)
        ∧ Spent (postHeld false) .c postPlayer ⟨7, true⟩)
      ∧ e.others 1 ∧ (∀ q ∈ e.pulses, q.cond = .active → q.plan.index = 1)
      ∧ (2000 + Time.since 4000 1000 < 20000 ∧ (playerOf (.boostRise false 160) mainJob).phaseTimer = some 4000
        ∧ ((playing (.boostRise false 160)).bank .c).waiting = [] ∧ ((playing (.boostRise false 160)).cyl .c3).event = some e
        ∧ ((playing (.boostRise false 160)).cyl .c3).faults + 1 < (playing (.boostRise false 160)).faultLimit
        ∧ ((playing (.boostRise false 160)).bank .c).capAt = some 19000 ∧ (playing (.boostRise false 160)).bankOf .c3 = .c)
      ∧ ((playing (.boostRise false 160)).ctl.run = .running ∧ (playing (.boostRise false 160)).held = false
        ∧ ∀ j h, ((playing (.boostRise false 160)).bank j).holder = some h → j = .c)
      ∧ ((postHeld false).bank .c).waiting = [] ∧ postPlayer.job = .event 9 0 .post false
      ∧ ((servicing (.hold true)).ctl.run = .ready ∧ (servicing (.hold true)).trk.sync = .noSignal
        ∧ ∀ j, j ≠ .c → ((servicing (.hold true)).bank j).heldByService = false) :=
  ⟨⟨playing_spent _ (by decide), ⟨rfl, by decide, by decide⟩, ⟨rfl, by decide, by decide⟩⟩, ⟨_, .tail _ (.head _), by decide +kernel⟩,
    by decide +kernel, by decide +kernel, ⟨rfl, rfl, fun j h hj => by cases j <;> first | rfl | cases hj⟩, rfl, rfl, rfl, rfl,
    fun j hj => by cases j <;> first | rfl | exact absurd rfl hj⟩

/-- A MAIN without a boost phase, armed, that preempts a played or a dry POST of another cylinder. -/
theorem witness_QuenchAtEntry_preempts (dry : Bool) :
    let u := { six with profiles := six.profiles.reverse }
    let s := withSetup u (postHeld dry)
    Starting u s ⟨armEntry, 5000⟩ [] (eventOf .held false [pulse 1 .main .armed none, pulse 2 .post .pending none])
        (pulse 1 .main .armed none) .c
      ∧ s.noAbort (eventOf .held false [pulse 1 .main .armed none, pulse 2 .post .pending none])
      ∧ (u.profiles[0]? = some ⟨[.batteryRise 100 3000], 96, 80⟩
        ∧ (⟨[.batteryRise 100 3000], 96, 80⟩ : Profile).boostMark = false)
      ∧ (50 ≤ s.su.trim.minDwell ∧ s.su.trim.minDwell ≤ 20000)
      ∧ (s.bank .c).holder = some ⟨.event 9 0 .post dry, .c6, 1000⟩ ∧ (s.cyl .c6).event = some (postEvent dry)
      ∧ (postEvent dry).others 0 ∧ (postEvent dry).drive + Time.since 5000 1000 < (postEvent dry).snap.driveMax :=
  ⟨⟨rfl, rfl, rfl, rfl, rfl, rfl, rfl, rfl⟩, (by intro i h; cases h), ⟨rfl, by decide⟩, by cases dry <;> decide +kernel, rfl, rfl,
    ⟨_, .tail _ (.head _), by cases dry <;> decide +kernel⟩, by cases dry <;> decide +kernel⟩

/-! ### Requests, port and resets -/

theorem witness_ServiceAccepted :
    ready.noService ∧ ready.mem.calm ∧ ready.su.setup = some six
      ∧ ready.held = false ∧ ready.ctl.run = .ready ∧ ready.trk.sync = .noSignal ∧ (0x16 : Byte).toNat = CylId.c6.number + 16 * 1
      ∧ CylId.c6.number ≤ six.cylCount ∧ six.profiles[1]? = some ⟨[.batteryRise 100 3000], 96, 80⟩
      ∧ (six.cyls.get .c6).bank = .c ∧ (ready.bank .c).mode = .idle
      ∧ (215 : Byte).toNat < (six.banks.get .c).shortLevel := ⟨ready_noService, rfl, by decide +kernel⟩

theorem witness_LoadAcceptedOrFailed :
    State.reset.held = false ∧ State.reset.ctl.run = .stopped ∧ ready.ctl.run = .ready ∧ (loading 22600).ctl.run = .loading
      ∧ loadError (stageAll (loading 22600).mem (loading 22600).su.staging) = some ⟨8, 0x58⟩ ∧ ready.ctl.run ≠ .loading := by
  decide +kernel

/-- Two bad bytes of one word; a profile read and one not named; the first check that fails of two. -/
theorem witness_LoadAcceptedOrFailed_checks :
    loadError (((staged 20160).set 4 ⟨40, true⟩).set 5 ⟨0, true⟩) = some ⟨1, 4⟩
      ∧ loadError (((staged 20160).set 1 ⟨3, false⟩).set 0x10 ⟨0, false⟩) = some ⟨2, 1⟩
      ∧ loadError ((staged 20160).set 256 ⟨5, false⟩) = some ⟨12, 0x300⟩
      ∧ (stageAll (words [(0x0E, 0x0006)]) []).length = 256 ∧ (stageAll (words [(0x0E, 0x0806)]) []).length = 512 := by decide +kernel

theorem witness_SetupAccepted : loadError (staged 20160) = none := by decide +kernel

/-- Also with a limp plan of a PILOT and a MAIN at one angle. -/
theorem witness_SetupAccepted_limp :
    let st := ((((((staged 20160).set 0x12 ⟨1, false⟩).set 0x14 ⟨1, false⟩).set 0x18 ⟨1, false⟩).set 0x1A ⟨2, false⟩).set 0x1E ⟨9, false⟩)
    loadError st = none ∧ (setupOf st).limp = some [⟨0, .pilot, 0, 0, 1⟩, ⟨1, .main, 0, 0, 9⟩] := by decide +kernel

/-- Also with the service pulse of cylinder 3 and profile 7 in bank C. -/
theorem witness_LoadCompletes :
    (loading 20160).ctl.run = .loading ∧ loadError (stageAll (loading 20160).mem (loading 20160).su.staging) = none
      ∧ (loading 20160).mem.calm ∧ (loading 20160).noService ∧ readTrim (loading 20160).mem = some (.slot1, trimRaw)
      ∧ readTrim badTrim = none
      ∧ ((withBankC (bankOf (.hold true) (.service 7)) (loading 20160)).bank .c).holder = some ⟨.service 7, .c3, 1000⟩
      ∧ ∀ j, j ≠ .c → ((withBankC (bankOf (.hold true) (.service 7)) (loading 20160)).bank j).heldByService = false :=
  ⟨rfl, by decide +kernel, rfl, ready_noService, readTrim_trimMem, by decide +kernel, rfl,
    fun j h => by cases j <;> first | rfl | exact absurd rfl h⟩

theorem witness_RunAccepted :
    ready.held = false ∧ ready.ctl.run = .ready ∧ ready.mem.calm ∧ readTrim trimMem = some (.slot1, trimRaw)
      ∧ readTrim badTrim = none ∧ ready.su.trim.holdLimit ≤ 15
      ∧ (8 ≤ six.ringLen ∧ trimMem.readWord 0x100 ≠ 0 ∧ (words [(0x100, 0)]).readWord 0x100 = 0
        ∧ ((readTrim (words ((0x100, 0) :: (List.range 16).map fun i => (0x110 + 2 * i, 5)))).map Prod.fst) = some .slot0) :=
  ⟨rfl, rfl, rfl, readTrim_trimMem, by decide +kernel⟩

theorem witness_StopModes :
    running.held = false ∧ (phased tooth0).trk.sync = .phased ∧ running.trk.sync = .noSignal
      ∧ (∀ k, (running.cyl k).event = none) ∧ ((playing (.hold true)).cyl .c3).event.isSome = true ∧ ready.noService
      ∧ ({ running.ctl with run := .stopping, stopMode := .cycle } : Control).stopMode = .cycle :=
  ⟨rfl, rfl, rfl, fun k => by cases k <;> rfl, rfl, ready_noService, rfl⟩

/-- A played holder, a dry one, and pulses that wait; and the service pulse in READY. -/
theorem witness_StopCut :
    (playing (.hold true)).held = false ∧ (playing (.hold true)).banksOk ∧ (playing (.hold true)).ctl.run = .running
      ∧ (∀ bk h, ((playing (.hold true)).bank bk).mode = .active → ((playing (.hold true)).bank bk).holder = some h →
        h.dry = false → ((playing (.hold true)).bank bk).channel ≠ none)
      ∧ Playing (playing (.hold true)) .c (playerOf (.hold true) mainJob) ((Four.fill ⟨8, true⟩).get .c)
      ∧ (∃ q ∈ (eventOf .held false [pulse 1 .main .active none, pulse 2 .post .pending none]).pulses, q.plan.index = 1)
      ∧ (dryHeld.bank .c).holder = some ⟨.event 5 1 .main true, .c3, 1000⟩ ∧ (dryHeld.bank .c).mode = .active
      ∧ (∀ j h, (dryHeld.bank j).holder = some h → h.cyl = .c3 → j = .c)
      ∧ (servicing (.hold true)).ctl.run = .ready ∧ ((servicing (.hold true)).bank .c).mode = .active
      ∧ Playing (servicing (.hold true)) .c (playerOf (.hold true) (.service 0)) ((Four.fill ⟨8, true⟩).get .c) := by
  refine ⟨rfl, withBankC_ok (bankOf_ok _) _ rfl, rfl, fun bk h m => ?_, playing_playing _ (by decide) _ (by decide),
    ⟨_, .head _, rfl⟩, rfl, rfl, fun j h hj _ => ?_, rfl, rfl, servicing_playing⟩
  · cases bk
    case c => exact fun _ _ => by decide +kernel
    all_goals cases m
  · cases j
    case c => rfl
    all_goals cases hj

/-- A value for each alternative under which a request is refused, at its boundary. -/
theorem witness_SwitchesAndRefusals :
    ¬ (servicing (.hold true)).noService
      ∧ (running.held = false ∧ running.ctl.run ≠ .loading ∧ running.ctl.run ≠ .stopped ∧ (1 : Byte).toNat ≤ 1
        ∧ (6 : Byte).toNat = CylId.c6.number ∧ CylId.c6.number ≤ six.cylCount)
      ∧ (ready.held = false ∧ running.ctl.run ≠ .ready ∧ 2 < (3 : Byte).toNat ∧ 1 < (2 : Byte).toNat ∧ 8 < (9 : Byte).toNat
        ∧ six.cylCount < (7 : Byte).toNat ∧ 128 ≤ (0x81 : Byte).toNat ∧ (0x10 : Byte).toNat % 16 = 0
        ∧ 8 < (0x09 : Byte).toNat % 16 ∧ six.profiles.length ≤ (0x21 : Byte).toNat / 16 % 8
        ∧ ((waitingFor none false).bank .c).mode ≠ .idle ∧ 9 ≤ (9 : BitVec 4).toNat) :=
  ⟨fun h => by simpa [servicing, withBankC, State.bank, Four.get, Four.set, bankOf, Bank.heldByService] using h .c, by decide +kernel⟩

/-- Held by RESET_N, and in a power-on reset. -/
theorem witness_HeldPart :
    (heldReset.held = true ∧ heldReset.heldOk) ∧ heldReset.pins.resetN = true
      ∧ (after .powerOnReset ready).held = true ∧ (after .powerOnReset ready).pins.resetN = false :=
  ⟨heldReset_ok, by decide +kernel⟩

theorem witness_StatusRegister : ready.held = false := rfl

theorem witness_Registers : ready.held = false ∧ ({ ready with ev := ⟨0x0900, 0x0100⟩ } : State).irq = true
    ∧ (BusAccess.registerWrite 2 0x0126).command ready 9 (.fill restSense) [] = some (.service 0x12 0 9 restSense [])
    ∧ (BusAccess.registerWrite 2 0xF019).command ready 9 (.fill restSense) [] = some (.undefinedRequest 9 1 0xF) := by
  decide +kernel

/-- The last word of the memory, and the first beyond it. -/
theorem witness_HostAccess :
    ready.held = false ∧ 2 * (0x17FF : BitVec 13).toNat < 0x3000 ∧ 0x3000 ≤ 2 * (0x1800 : BitVec 13).toNat
      ∧ trimMem.wordBad 0x100 = false ∧ badTrim.wordBad 0x100 = true := by decide +kernel

theorem witness_Resets : ready.held = false ∧ heldReset.held = true ∧ (after .powerOnReset ready).pins.powerOn = true
    ∧ ready.pins.powerOn = false := by decide +kernel

end Sys2Proof.Tests
end

/-! # The rules of run state, stop mode, tracker and setup copy

Every command keeps `State.runOk`, whatever arrives among its accesses: an operation that keeps the run controller (`Keeps`) can
only end a stop, and the commands that set a run state set what the rules ask of it. -/

namespace Sys2Proof.Machine

/-! ## What keeps the rules -/

/-- A step of the run controller starts and ends with the tracker running, or neither (R1, R135). -/
theorem RunStep.tracks {c d : Control} (h : RunStep c d) : d.run.tracks = c.run.tracks := by
  rcases h with ⟨hr, -⟩ | ⟨hs, hr, -⟩
  · rw [hr]
  · rw [hs, hr]
    rfl

/-- A step of the run controller keeps the stop mode NONE outside STOPPING, and no other in it (R127). -/
theorem RunStep.stopRule {c d : Control} (h : RunStep c d) (hc : c.run = .stopping ↔ c.stopMode ≠ .none) :
    d.run = .stopping ↔ d.stopMode ≠ .none := by
  rcases h with ⟨hr, hm | ⟨hs, hm⟩⟩ | ⟨-, hr, hm⟩
  · rw [hr, hm]
    exact hc
  · rw [hr, hs]
    simp [hm]
  · simp [hr, hm]

/-- An operation of the part itself keeps the rules where it leaves the sync state, goes to NO_SIGNAL, or is made while the
tracker runs. -/
theorem State.runOk.keeps {s t : State} (h : s.runOk) (hk : Keeps s t)
    (ht : t.trk.sync = s.trk.sync ∨ t.trk.sync = .noSignal ∨ s.ctl.run.tracks = true) : t.runOk := by
  obtain ⟨hstop, hsync, hsetup⟩ := h
  refine ⟨hk.ctl.stopRule hstop, fun hn => ?_, fun hy => ?_⟩
  · rw [hk.ctl.tracks] at hn
    rcases ht with ht | ht | ht
    · exact ht.trans (hsync hn)
    · exact ht
    · simp [hn] at ht
  · rw [hk.ctl.tracks] at hy
    rw [hk.setup]
    exact hsetup hy

theorem State.runOk.downstream {s t : State} (h : s.runOk) (hd : Downstream s t) : t.runOk :=
  h.keeps hd.toKeeps (.inl (by rw [hd.trk]))

/-- The rules speak of the run controller, the sync state and the setup copy alone. -/
theorem State.runOk.congr {s t : State} (h : s.runOk) (hr : t.ctl.run = s.ctl.run) (hm : t.ctl.stopMode = s.ctl.stopMode)
    (ht : t.trk = s.trk) (hs : t.su.setup = s.su.setup) : t.runOk := by
  unfold State.runOk at *
  rw [hr, hm, ht, hs]
  exact h

theorem State.resetBlocks_runOk (cause : ResetCause) (s : State) : (s.resetBlocks cause).runOk :=
  ⟨by simp [State.resetBlocks, Control.reset], fun _ => rfl, fun h => by cases h⟩

/-- Outside STOPPING the stop mode is NONE. -/
theorem State.runOk.noStop {s : State} (h : s.runOk) (hr : s.ctl.run ≠ .stopping) : s.ctl.stopMode = .none := by
  by_contra hm
  exact hr (h.1.2 hm)

/-- A stop mode other than NONE in STOPPING, with a setup copy, meets the rules. -/
theorem State.runOk_of_stopping {s : State} (hr : s.ctl.run = .stopping) (hm : s.ctl.stopMode ≠ .none)
    (hs : s.su.setup.isSome = true) : s.runOk :=
  ⟨by simp [hr, hm], fun h => by simp [hr, RunState.tracks] at h, fun _ => hs⟩

/-! ## Requests -/

/-- A request keeps the rules where its effect does: a refused one stores its word alone (R128). -/
theorem State.takeRequest_runOk {s : State} (h : s.runOk) (w : Word) (accepted : Bool) {effect : State → State}
    (he : accepted = true → ∀ u : State, u.runOk → u.ctl.run = s.ctl.run → (effect u).runOk) :
    (s.takeRequest w accepted effect).runOk := by
  unfold State.takeRequest
  split
  · exact h
  · split
    · rename_i ha
      exact he ha _ (h.congr rfl rfl rfl rfl) rfl
    · exact h.congr rfl rfl rfl rfl

/-- LOAD goes to LOADING with the tracker in NO_SIGNAL (R131). -/
theorem State.beginLoad_runOk {s : State} (h : s.runOk) (hr : s.ctl.run ≠ .stopping) : s.beginLoad.runOk := by
  have hm := h.noStop hr
  refine ⟨by simp [State.beginLoad, State.idleTracker, State.changeRun, hm], fun _ => ?_, fun hy => ?_⟩
  · simp [State.beginLoad, State.idleTracker, State.changeRun, Tracker.idle, Tracker.reset]
  · simp [State.beginLoad, State.changeRun, RunState.tracks] at hy

/-- RUN goes from READY to RUNNING (R132). -/
theorem State.beginRun_runOk {s : State} (h : s.runOk) (hr : s.ctl.run = .ready) : s.beginRun.runOk := by
  have hm := h.noStop (by simp [hr])
  have hk : Keeps s s.copyTrim := (Keeps.refl s).copyTrim
  have hm' : s.copyTrim.ctl.stopMode = .none := by
    rcases hk.ctl with ⟨-, g | ⟨g, -⟩⟩ | ⟨g, -⟩
    · exact g.trans hm
    · simp [hr] at g
    · simp [hr] at g
  refine ⟨by simp [State.beginRun, State.changeRun, hm'], fun hn => ?_, fun _ => ?_⟩
  · simp [State.beginRun, State.changeRun, RunState.tracks] at hn
  · simp only [State.beginRun, State.changeRun, State.raise_su, State.setCtl_su, State.modLatch_su, hk.setup]
    exact h.2.2 (by rw [hr]; rfl)

/-- STOP takes effect in one of three modes (R129). -/
theorem stopModeOf_ne_none {arg : Byte} {m : StopMode} (h : stopModeOf arg = some m) : m ≠ .none := by
  unfold stopModeOf at h
  split at h <;> simp_all <;> simp [← h]

/-- A stop mode taken in STOPPING meets the rules, also where the mode ends the stop at once (R134 to R136). -/
theorem State.enterStop_runOk {s : State} {m : StopMode} (hr : s.ctl.run = .stopping) (hs : s.su.setup.isSome = true)
    (hm : m ≠ .none) : (s.enterStop m).runOk := by
  have hset : ∀ m' : StopMode, m' ≠ .none → (s.setStopMode m').runOk := fun m' h' => State.runOk_of_stopping hr h' hs
  have hevent : s.stopEvent.runOk := (hset .event (by decide)).downstream (Downstream.refl _).checkStopped
  have hcut : s.stopCut.runOk := (hset .cut (by decide)).downstream
    (((Downstream.refl _).withdraw _ _).truncateHolders.settleAll.checkStopped)
  cases m with
  | none => exact absurd rfl hm
  | cycle =>
    simp only [State.enterStop]
    split
    · exact hset .cycle (by decide)
    · exact hevent
  | event => exact hevent
  | cut => exact hcut

theorem State.stopBy_runOk {s : State} (h : s.runOk) {m : StopMode} (hm : m ≠ .none) : (s.stopBy m).runOk := by
  unfold State.stopBy
  split
  · split
    · exact h.downstream s.truncateServices_down
    · exact h
  · rename_i hr
    exact State.enterStop_runOk rfl (h.2.2 (by rw [hr]; rfl)) hm
  · rename_i hr
    unfold State.strengthenStop
    split
    · exact h.downstream ((Downstream.refl s).stopEvent hr)
    · exact h.downstream ((Downstream.refl s).stopCut hr)
    · exact h.downstream ((Downstream.refl s).stopCut hr)
    · exact h
  · exact h
  · exact h

theorem State.takeStop_runOk {s : State} (h : s.runOk) (arg : Byte) (top : BitVec 4) : (s.takeStop arg top).runOk := by
  unfold State.takeStop
  split
  · rename_i m hm
    exact State.takeRequest_runOk h _ _ fun _ u hu _ => State.stopBy_runOk hu (stopModeOf_ne_none hm)
  · exact State.takeRequest_runOk h _ _ fun _ u hu _ => hu

theorem State.takeRelease_runOk {s : State} (h : s.runOk) (arg : Byte) (top : BitVec 4) : (s.takeRelease arg top).runOk := by
  unfold State.takeRelease
  split
  · exact State.takeRequest_runOk h _ _ fun _ u hu _ => hu.downstream
      (Downstream.statusAll ((cylStateWords_in _ _).append (faultWords_in _ _)) ((Downstream.refl u).setCyl _ _))
  · exact State.takeRequest_runOk h _ _ fun _ u hu _ => hu

/-- A service pulse that is accepted changes banks and status words (R123). -/
theorem State.beginService_runOk {s : State} (h : s.runOk) (k : CylId) (profile : Nat) (sense : BankSense) :
    (s.beginService k profile sense).runOk := by
  have hsee : (s.see (s.bankOf k) sense).runOk := h.congr rfl rfl rfl rfl
  exact hsee.downstream ((Downstream.statusAll (serviceStartWords_in _)
    ((((Downstream.refl _).setBank _ _).setMode _ _).setService _)).engage _ _ _ _ _)

theorem State.takeService_runOk {s : State} (h : s.runOk) (arg : Byte) (top : BitVec 4) (sense : BankSense) :
    (s.takeService arg top sense).runOk := by
  unfold State.takeService
  split
  · exact State.takeRequest_runOk h _ _ fun _ u hu _ => State.beginService_runOk hu _ _ _
  · exact State.takeRequest_runOk h _ _ fun _ u hu _ => hu

theorem State.takeSoftReset_runOk {s : State} (h : s.runOk) (arg : Byte) (top : BitVec 4) : (s.takeSoftReset arg top).runOk :=
  State.takeRequest_runOk h _ _ fun _ _ _ _ => State.resetBlocks_runOk _ _

/-! ## The ends of a LOAD -/

theorem Keeps.loadTrim {s u : State} (h : Keeps s u) : Keeps s u.loadTrim := by
  unfold State.loadTrim
  split
  · exact h.copyTrim
  · exact { h.copyTrim with }

/-- LOAD completion ends in READY with the copies in place (R153). -/
theorem State.completeLoad_runOk {s : State} (h : s.runOk) (hr : s.ctl.run = .loading) (st : List StagedByte) :
    (s.completeLoad st).runOk := by
  have hm := h.noStop (by simp [hr])
  have hk : Keeps (s.loadBlocks (setupOf st)) (s.loadBlocks (setupOf st)).loadTrim := (Keeps.refl _).loadTrim
  have hm' : (s.loadBlocks (setupOf st)).loadTrim.ctl.stopMode = .none := by
    rcases hk.ctl with ⟨-, g | ⟨g, -⟩⟩ | ⟨g, -⟩
    · exact g.trans hm
    · exact absurd (hr.symm.trans g) (by decide)
    · exact absurd (hr.symm.trans g) (by decide)
  have hs : (s.loadBlocks (setupOf st)).loadTrim.su.setup.isSome = true := by
    rw [hk.setup]
    rfl
  have hctl : (s.completeLoad st).ctl = { (s.loadBlocks (setupOf st)).loadTrim.ctl with run := .ready } := by
    simp [State.completeLoad, State.changeRun, State.loadStatus, State.showAll, State.openStatus, State.goLive]
  have hsu : (s.completeLoad st).su = (s.loadBlocks (setupOf st)).loadTrim.su := by
    simp [State.completeLoad, State.changeRun, State.loadStatus, State.showAll, State.openStatus, State.goLive]
  refine ⟨?_, fun hn => ?_, fun _ => ?_⟩
  · rw [hctl]
    simp [hm']
  · rw [hctl] at hn
    cases hn
  · rw [hsu]
    exact hs

theorem State.loadPasses_runOk {s : State} (h : s.runOk) : s.loadPasses.runOk := by
  unfold State.loadPasses
  split
  · split
    · exact State.completeLoad_runOk h ‹_› _
    · exact h
  · exact h

/-- A failed LOAD ends in STOPPED with the tracker in NO_SIGNAL and no copy (R151). -/
theorem State.loadFails_runOk {s : State} (h : s.runOk) : s.loadFails.runOk := by
  unfold State.loadFails
  split
  · rename_i hr
    have hm := h.noStop (by simp [hr])
    split
    · refine ⟨by simp [State.failLoad, State.changeRun, hm], fun _ => rfl, fun hy => ?_⟩
      simp [State.failLoad, State.changeRun, RunState.tracks] at hy
    · exact h
  · exact h

/-! ## Edges and the stall -/

/-- An edge is taken only while the tracker runs (R1). -/
theorem State.crankArrives_runOk {s : State} (h : s.runOk) (edge : Edge) : (s.crankArrives edge).runOk := by
  unfold State.crankArrives
  split
  · split
    · rename_i hc
      exact h.keeps ((Keeps.refl s).crankTaken _) (.inr (.inr (Bool.and_eq_true_iff.1 hc).1))
    · exact h
  · exact h

theorem State.markerArrives_runOk {s : State} (h : s.runOk) (edge : Edge) : (s.markerArrives edge).runOk := by
  unfold State.markerArrives
  split
  · split
    · rename_i hc
      exact h.keeps ((Keeps.refl s).markerTaken _) (.inr (.inr (Bool.and_eq_true_iff.1 hc).1))
    · exact h
  · exact h

/-- A stall leaves the tracker as R11 says: what follows its own change is behind the tracker. -/
theorem State.stallNow_trk (s : State) : s.stallNow.trk = s.trk.stalled := by
  have h : Downstream ((s.setTrk s.trk.stalled).statusAll (syncWords s.trk.stalled ++ tLastWords s.trk.stalled)) s.stallNow :=
    ((Downstream.refl _).raise _).recover.endCycleMode
  simpa using h.trk

theorem State.stallExpires_runOk {s : State} (h : s.runOk) : s.stallExpires.runOk := by
  unfold State.stallExpires
  split
  · exact h.keeps ((Keeps.refl s).setNow _).stallNow (.inr (.inl (by rw [State.stallNow_trk]; rfl)))
  · exact h

theorem State.expire_runOk {s : State} (h : s.runOk) (x : Time) (bk : BankId) (sense : BankSense) :
    (s.expire x bk sense).runOk := h.congr rfl rfl rfl rfl

/-- An expiry behind the tracker. -/
theorem State.onTimer_runOk {s : State} (h : s.runOk) (timer : Option Time) (bk : BankId) (sense : BankSense)
    {effect : State → State} (he : ∀ u, Downstream u (effect u)) : (s.onTimer timer bk sense effect).runOk := by
  unfold State.onTimer
  split
  · exact (State.expire_runOk h _ _ _).downstream (he _)
  · exact h

theorem State.startExpires_runOk {s : State} (h : s.runOk) (sense : BankSense) : (s.startExpires sense).runOk := by
  unfold State.startExpires
  split
  · rename_i a rest _
    have hset : (s.setArm { s.arm with armedSet := rest }).runOk := h.congr rfl rfl rfl rfl
    exact (State.expire_runOk hset a.start (s.bankOf a.entry.cyl) sense).downstream ((Downstream.refl _).startPulse a)
  · exact h

theorem State.deadlineExpires_runOk {s : State} (h : s.runOk) (bk : BankId) (seq : Word) (entry : Nat) (sense : BankSense) :
    (s.deadlineExpires bk seq entry sense).runOk := by
  unfold State.deadlineExpires
  split
  · exact (State.expire_runOk h _ _ _).downstream ((((Downstream.refl _).setBank _ _).slipDrop _ _ _ _).recheck _ _)
  · exact h

theorem State.settleExpires_runOk {s : State} (h : s.runOk) (bk : BankId) : (s.settleExpires bk).runOk := by
  unfold State.settleExpires
  split
  · rename_i x _
    have hat : (s.at x).runOk := h.congr rfl rfl rfl rfl
    exact hat.downstream (((Downstream.refl _).setBank _ _).setMode _ _)
  · exact h

theorem State.durationExpires_runOk {s : State} (h : s.runOk) (bk : BankId) (sense : BankSense) :
    (s.durationExpires bk sense).runOk := by
  unfold State.durationExpires
  split
  · exact (State.expire_runOk h _ _ _).downstream ((Downstream.refl _).endPlayed _ _)
  · exact State.onTimer_runOk h _ _ _ fun u => (Downstream.refl u).endHolder bk _

/-! ## What arrives during a command -/

theorem State.hostWrite_runOk {s : State} (h : s.runOk) (addr : BitVec 13) (data : Word) : (s.hostWrite addr data).runOk := by
  unfold State.hostWrite
  rw [State.readBeforeWrite_eq]
  split
  · exact h.congr rfl rfl rfl rfl
  · exact h.congr rfl rfl rfl rfl

theorem State.hostRead_runOk {s : State} (h : s.runOk) (addr : BitVec 13) : (s.hostRead addr).runOk := by
  unfold State.hostRead State.hostParityError
  split
  · exact h.congr (by simp) (by simp) (by simp) (by simp)
  · exact h.congr rfl rfl rfl rfl

theorem State.takeWrite_runOk {s : State} (h : s.runOk) {effect : State → State} (he : (effect s).runOk) :
    (s.takeWrite effect).runOk := by
  unfold State.takeWrite
  split
  · exact h
  · exact he

theorem State.takeRead_runOk {s : State} (h : s.runOk) {effect : State → State} (he : (effect s).runOk) :
    (s.takeRead effect).runOk := by
  unfold State.takeRead
  split
  · exact h.congr rfl rfl rfl rfl
  · split
    · exact h
    · exact he

theorem State.assertReset_runOk (s : State) : s.assertReset.runOk :=
  (State.resetBlocks_runOk s.pinCause s).congr rfl rfl rfl rfl

theorem State.afterwards_runOk {s : State} (h : s.runOk) (x : Arrival) : (s.afterwards x).runOk := by
  unfold State.afterwards
  split
  · exact State.takeWrite_runOk h (State.hostWrite_runOk h _ _)
  · exact State.takeRead_runOk h (State.hostRead_runOk h _)
  · exact State.takeSoftReset_runOk h _ _
  · exact s.assertReset_runOk

/-- What the port kept is put in place outside the run controller, the tracker and the setup copy. -/
theorem State.closed_runOk {s : State} (h : s.runOk) (p : Port) :
    (((s.setMem { s.mem with port := none }).keepReads p).keepLoad p).runOk := by
  have hr : ((s.setMem { s.mem with port := none }).keepReads p).runOk := by
    unfold State.keepReads
    cases p.data <;> cases p.parityError <;> cases p.parityAddr <;> exact h.congr rfl rfl rfl rfl
  rw [State.keepLoad_eq]
  split
  · split
    · exact hr.congr rfl rfl rfl rfl
    · exact hr
  · exact hr

/-- A command keeps the rules, whatever arrives among its accesses, where its effect keeps them with any memory. -/
theorem State.meanwhile_runOk {s : State} (during : List Arrival) {effect : State → State}
    (he : ∀ m, (effect (s.setMem m)).runOk) : (s.meanwhile during effect).runOk :=
  State.meanwhile_induct (he s.mem)
    (fun _ t ht => by
      have g : t.runOk := ht ▸ he _
      exact ⟨g, fun p _ => State.closed_runOk g p⟩)
    fun _ x g => State.afterwards_runOk g x

/-! ## Every command -/

/-- Every command keeps the rules. -/
theorem exec_runOk (c : Instr) {s t : State} (h : s.runOk) (hc : exec c s = .next t) : t.runOk := by
  have hm : ∀ m, (s.setMem m).runOk := fun m => h.congr rfl rfl rfl rfl
  have at_ : ∀ x m, ((s.at x).setMem m).runOk := fun x m => h.congr rfl rfl rfl rfl
  have seen : ∀ x y m, (((s.at x).seeAll y).setMem m).runOk := fun x y m => h.congr rfl rfl rfl rfl
  have expired : ∀ x bk y m, ((s.expire x bk y).setMem m).runOk := fun x bk y m => h.congr rfl rfl rfl rfl
  cases c with
  | crankEdge edge x sense during =>
    obtain rfl := Host.Outcome.next.inj hc
    exact State.meanwhile_runOk during fun m => State.crankArrives_runOk (seen _ _ m) _
  | markerEdge edge x during =>
    obtain rfl := Host.Outcome.next.inj hc
    exact State.meanwhile_runOk during fun m => State.markerArrives_runOk (at_ _ m) _
  | stall during =>
    obtain rfl := Host.Outcome.next.inj hc
    exact State.meanwhile_runOk during fun m => State.stallExpires_runOk (hm m)
  | startExpiry sense during =>
    obtain rfl := Host.Outcome.next.inj hc
    exact State.meanwhile_runOk during fun m => State.startExpires_runOk (hm m) _
  | slipDeadlineExpiry bk seq entry sense during =>
    obtain rfl := Host.Outcome.next.inj hc
    exact State.meanwhile_runOk during fun m => State.deadlineExpires_runOk (hm m) _ _ _ _
  | headTimerExpiry bk sense during =>
    obtain rfl := Host.Outcome.next.inj hc
    exact State.meanwhile_runOk during fun m => State.onTimer_runOk (hm m) _ _ _ fun u => (Downstream.refl u).grantCheck bk
  | settleExpiry bk during =>
    obtain rfl := Host.Outcome.next.inj hc
    exact State.meanwhile_runOk during fun m => State.settleExpires_runOk (hm m) _
  | capExpiry bk sense during =>
    obtain rfl := Host.Outcome.next.inj hc
    exact State.meanwhile_runOk during fun m => State.onTimer_runOk (hm m) _ _ _ fun u => (Downstream.refl u).endHolder bk _
  | durationExpiry bk sense during =>
    obtain rfl := Host.Outcome.next.inj hc
    exact State.meanwhile_runOk during fun m => State.durationExpires_runOk (hm m) _ _
  | riseLimitExpiry bk sense during =>
    obtain rfl := Host.Outcome.next.inj hc
    exact State.meanwhile_runOk during fun m => State.onTimer_runOk (hm m) _ _ _ fun u => (Downstream.refl u).endPlayed bk _
  | freewheelExpiry bk sense during =>
    obtain rfl := Host.Outcome.next.inj hc
    exact State.meanwhile_runOk during fun m => State.onTimer_runOk (hm m) _ _ _ fun u => (Downstream.refl u).nextPhase bk
  | upperInputChange bk x sense during =>
    obtain rfl := Host.Outcome.next.inj hc
    exact State.meanwhile_runOk during fun m => (expired _ _ _ m).downstream ((Downstream.refl _).upperChange bk)
  | lowerInputChange bk x sense during =>
    obtain rfl := Host.Outcome.next.inj hc
    exact State.meanwhile_runOk during fun m => (expired _ _ _ m).downstream ((Downstream.refl _).lowerChange bk)
  | shortInputChange bk x sense during =>
    obtain rfl := Host.Outcome.next.inj hc
    exact State.meanwhile_runOk during fun m => (expired _ _ _ m).downstream ((Downstream.refl _).shortChange bk)
  | quenchExpiry bk sense during =>
    obtain rfl := Host.Outcome.next.inj hc
    exact State.meanwhile_runOk during fun m => State.onTimer_runOk (hm m) _ _ _ fun u => (Downstream.refl u).quenchEnd bk
  | load arg top during =>
    obtain rfl := Host.Outcome.next.inj hc
    refine State.meanwhile_runOk during fun m => State.takeRequest_runOk (hm m) _ _ fun ha u hu hr => ?_
    refine State.beginLoad_runOk hu fun hs => ?_
    rw [show s.ctl.run = _ from hr.symm.trans hs] at ha
    cases ha
  | loadComplete during =>
    obtain rfl := Host.Outcome.next.inj hc
    exact State.meanwhile_runOk during fun m => State.loadPasses_runOk (hm m)
  | loadFail during =>
    obtain rfl := Host.Outcome.next.inj hc
    exact State.meanwhile_runOk during fun m => State.loadFails_runOk (hm m)
  | run arg top during =>
    obtain rfl := Host.Outcome.next.inj hc
    refine State.meanwhile_runOk during fun m => State.takeRequest_runOk (hm m) _ _ fun ha u hu hr => ?_
    exact State.beginRun_runOk hu (hr.trans (beq_iff_eq.1 ha))
  | stop arg top x sense during =>
    obtain rfl := Host.Outcome.next.inj hc
    exact State.meanwhile_runOk during fun m => State.takeStop_runOk (seen _ _ m) _ _
  | inhibit arg top =>
    obtain rfl := Host.Outcome.next.inj hc
    exact State.takeRequest_runOk h _ _ fun _ u hu _ => hu.congr rfl rfl rfl rfl
  | release arg top during =>
    obtain rfl := Host.Outcome.next.inj hc
    exact State.meanwhile_runOk during fun m => State.takeRelease_runOk (hm m) _ _
  | service arg top x sense during =>
    obtain rfl := Host.Outcome.next.inj hc
    exact State.meanwhile_runOk during fun m => State.takeService_runOk (at_ _ m) _ _ _
  | softReset arg top =>
    obtain rfl := Host.Outcome.next.inj hc
    exact State.takeSoftReset_runOk h _ _
  | paritySense arg top =>
    obtain rfl := Host.Outcome.next.inj hc
    exact State.takeRequest_runOk h _ _ fun _ u hu _ => hu.congr rfl rfl rfl rfl
  | undefinedRequest code arg top =>
    obtain rfl := Host.Outcome.next.inj hc
    exact State.takeRequest_runOk h _ _ fun ha => by cases ha
  | eventRead =>
    obtain rfl := Host.Outcome.next.inj hc
    exact State.takeRead_runOk h (h.congr rfl rfl rfl rfl)
  | eventMaskWrite mask =>
    obtain rfl := Host.Outcome.next.inj hc
    exact State.takeWrite_runOk h (h.congr rfl rfl rfl rfl)
  | registerWriteIgnored reg data =>
    obtain rfl := Host.Outcome.next.inj hc
    exact h
  | hostMemoryWrite addr data =>
    obtain rfl := Host.Outcome.next.inj hc
    exact State.takeWrite_runOk h (State.hostWrite_runOk h _ _)
  | hostMemoryRead addr =>
    obtain rfl := Host.Outcome.next.inj hc
    exact State.takeRead_runOk h (State.hostRead_runOk h _)
  | powerOnReset =>
    obtain rfl := Host.Outcome.next.inj hc
    exact (State.resetBlocks_runOk .power s).congr rfl rfl rfl rfl
  | powerOnResetEnd =>
    simp only [exec, execPowerOnResetEnd] at hc
    split at hc <;> obtain rfl := Host.Outcome.next.inj hc
    · exact h.congr rfl rfl rfl rfl
    · exact h
  | pinReset =>
    obtain rfl := Host.Outcome.next.inj hc
    exact s.assertReset_runOk
  | pinResetRelease =>
    obtain rfl := Host.Outcome.next.inj hc
    exact h.congr rfl rfl rfl rfl

/-- Settles O5: the front command keeps the rules (`exec_runOk`), and a tick of the time base touches none of their terms. -/
theorem stepKeepsRunRules : Obligations.StepKeepsRunRules := by
  intro s t h ht
  unfold step at ht
  split at ht
  · rename_i c rest _
    have hq : (s.setPending rest).runOk := h.congr rfl rfl rfl rfl
    exact exec_runOk c hq ht
  · obtain rfl := Host.Outcome.next.inj ht
    exact h.congr rfl rfl rfl rfl

/-- Settles O8: reset leaves an empty memory, free banks, STOPPED with NO_SIGNAL, hold counts of 0, and the part not held. -/
theorem resetMeetsInvariants : Obligations.ResetMeetsInvariants := by
  have hheld : State.reset.heldOk := fun h => by cases h
  have hholds : State.reset.holdsOk := fun k => by cases k <;> exact Nat.zero_le _
  have hbanks : State.reset.banksOk := fun bk => by cases bk <;> exact Bank.reset_ok
  exact ⟨rfl, hbanks, ⟨by decide, fun _ => rfl, fun h => by cases h⟩, hheld, hholds⟩

/-! ## Edges that are not taken -/

/-- A crank edge that meets no running tracker of its polarity changes nothing (R1). -/
theorem State.crankArrives_ignored {s : State} {edge : Edge} (h : s.ctl.run.tracks = false ∨ s.su.setup = none ∨
    ∃ u, s.su.setup = some u ∧ edge ≠ u.crankEdge) : s.crankArrives edge = s := by
  unfold State.crankArrives
  rcases h with h | h | ⟨u, h, hne⟩
  · split
    · simp [h]
    · rfl
  · simp [h]
  · simp [h, hne]

/-- A marker edge likewise, and in a sync state that takes none (R1, R14). -/
theorem State.markerArrives_ignored {s : State} {edge : Edge} (h : s.ctl.run.tracks = false ∨ s.su.setup = none ∨
    (∃ u, s.su.setup = some u ∧ edge ≠ u.markerEdge) ∨ s.trk.angleKnown = false) : s.markerArrives edge = s := by
  unfold State.markerArrives
  rcases h with h | h | ⟨u, h, hne⟩ | h
  · split
    · simp [h]
    · rfl
  · simp [h]
  · simp [h, hne]
  · have hsync : ∀ u, s.markerTaken u = s := fun u => by
      unfold State.markerTaken
      cases hs : s.trk.sync <;> simp_all [Tracker.angleKnown]
    split
    · split
      · exact hsync _
      · rfl
    · rfl

/-- Settles O14. -/
theorem edgesNotTaken : Obligations.EdgesNotTaken := by
  refine ⟨fun s edge t sense h => ?_, fun s edge t h => ?_⟩
  · have hi : ((s.at t).seeAll sense).crankArrives edge = (s.at t).seeAll sense := by
      refine State.crankArrives_ignored ?_
      rcases h with h | h | h | h
      · exact .inl (by simp [h, RunState.tracks])
      · exact .inl (by simp [h, RunState.tracks])
      · exact .inr (.inl h)
      · exact .inr (.inr h)
    exact congrArg Host.Outcome.next hi
  · have hi : (s.at t).markerArrives edge = s.at t := by
      refine State.markerArrives_ignored ?_
      rcases h with h | h | h | h | h | h | h
      · exact .inl (by simp [h, RunState.tracks])
      · exact .inl (by simp [h, RunState.tracks])
      · exact .inr (.inl h)
      · exact .inr (.inr (.inl h))
      all_goals exact .inr (.inr (.inr (by simp [Tracker.angleKnown, h])))
    exact congrArg Host.Outcome.next hi

end Sys2Proof.Machine

/-! # The tracker's arithmetic

The predicted period, the overspeed cut, the angle-to-time offset, the estimated angle, the marker windows and START_ANGLE at all
bounds (R12 to R22, R47, R68). -/

namespace Sys2Proof.Machine

/-- LINEAR with both periods: the line through them, clamped, then saturated (R19). -/
theorem predict_linear (x y : Nat) : ((predict true (some x) (some y) : Nat) : Int) =
    min 16777215 (max (3 * x / 4 : Nat) (min (5 * x / 4 : Nat) (2 * x - y))) := by
  simp only [predict, maxInterval, if_true]
  omega

/-- The saturation of a period that an interval can have stays inside the clamp (R19). -/
theorem predict_linear_bounds {x : Nat} (hx : x ≤ 16777215) (y : Nat) :
    3 * x / 4 ≤ predict true (some x) (some y) ∧ predict true (some x) (some y) ≤ 5 * x / 4 := by
  have h := predict_linear x y
  omega

/-- The cut by where T_last lies against the two thresholds (R22). -/
theorem overspeedAfter_some (period hyst x : Nat) (cut : Bool) : overspeedAfter period hyst (some x) cut =
    if period = 0 then false else if x < period then true else if period + hyst < x then false else cut := rfl

/-- The angle-to-time offset overflows nowhere in 48 bits, and fits in 29 (R68). -/
theorem angleToTime_toNat {d p tPred : Nat} (hd : d ≤ 2399) (ht : tPred ≤ 16777215) (hp : 160 ≤ p) (hp' : p ≤ 480) :
    (angleToTime d tPred p).toNat = (d * tPred + p / 2) / p ∧ (d * tPred + p / 2) / p < 2 ^ 29 := by
  have hprod : d * tPred ≤ 2399 * 16777215 := Nat.mul_le_mul hd ht
  have hd48 : d % 2 ^ 48 = d := Nat.mod_eq_of_lt (by omega)
  have ht48 : tPred % 2 ^ 48 = tPred := Nat.mod_eq_of_lt (by omega)
  have hprod48 : d * tPred % 2 ^ 48 = d * tPred := Nat.mod_eq_of_lt (by omega)
  have hp48 : p % 2 ^ 48 = p := Nat.mod_eq_of_lt (by omega)
  have hhalf : p / 2 % 2 ^ 48 = p / 2 := Nat.mod_eq_of_lt (by omega)
  have hsum : (d * tPred + p / 2) % 2 ^ 48 = d * tPred + p / 2 := Nat.mod_eq_of_lt (by omega)
  constructor
  · simp only [angleToTime, BitVec.ofInt_natCast, BitVec.toNat_udiv, BitVec.toNat_add, BitVec.toNat_mul, BitVec.toNat_ofNat, hd48,
      ht48, hprod48, hp48, hhalf, hsum]
  · exact (Nat.div_lt_iff_lt_mul (by omega)).2 (by omega)

/-- With an angle known, the distance to the next edge is P, and (M+1)·P after the last tooth (R12). -/
theorem Setup.distance_of_known (u : Setup) {sync : Sync} (h : sync = .crankSync ∨ sync = .phased) (tooth : Nat) :
    u.distance sync tooth = if tooth = u.n - u.m - 1 then (u.m + 1) * (11520 / u.n) else 11520 / u.n := by
  rcases h with rfl | rfl <;> rfl

theorem Tracker.angleKnown_iff (t : Tracker) : t.angleKnown = true ↔ t.sync = .crankSync ∨ t.sync = .phased := by
  simp [Tracker.angleKnown]

/-- The estimated angle after `n` ticks, with D the distance to the next edge (R20). -/
theorem Tracker.estimate_of_known (u : Setup) {x : Tracker} (h : x.sync = .crankSync ∨ x.sync = .phased) {l : Time}
    (hl : x.lastTime = some l) (t : Time) : x.estimate u t = (x.lastAngle + stepsTurned (11520 / u.n)
      (if x.tooth = u.n - u.m - 1 then (u.m + 1) * (11520 / u.n) else 11520 / u.n) x.tPred (t - l).toNat) % 23040 := by
  simp only [Tracker.estimate, hl, u.distance_of_known h]
  rfl

theorem inWindow_eq_true (lo hi a : Nat) :
    inWindow lo hi a = true ↔ (a + 23040 - lo) % 23040 ≤ (hi + 23040 - lo) % 23040 := decide_eq_true_iff

/-- An angle lies in a window where it lies from its lower to its upper end, through 0 where the upper is less (R14). -/
theorem inWindow_iff {lo hi a : Nat} (hlo : lo < 23040) (hhi : hi < 23040) (ha : a < 23040) :
    inWindow lo hi a = true ↔ if lo ≤ hi then lo ≤ a ∧ a ≤ hi else lo ≤ a ∨ a ≤ hi := by
  rw [inWindow_eq_true]
  split <;> omega

/-- A window of at most a quarter of the cycle and its twin have no angle in common (R14, R148). -/
theorem window_apart_twin {lo hi a : Nat} (hlo : lo < 23040) (hw : (hi + 23040 - lo) % 23040 < 5760)
    (ha : a < 23040) (h : inWindow lo hi a = true) : inWindow lo hi ((a + 11520) % 23040) = false := by
  rw [inWindow_eq_true] at h
  rw [Bool.eq_false_iff, Ne, inWindow_eq_true]
  omega

/-- The class of an angle, by the two windows (R14). -/
theorem Setup.classify_iff (u : Setup) (hlo : u.markerLo < 23040)
    (hw : (u.markerHi + 23040 - u.markerLo) % 23040 < 5760) {a : Nat} (ha : a < 23040) :
    (u.classify a = .window ↔ inWindow u.markerLo u.markerHi a = true)
      ∧ (u.classify a = .twin ↔ inWindow u.markerLo u.markerHi ((a + 11520) % 23040) = true)
      ∧ (u.classify a = .outside ↔
        ¬ inWindow u.markerLo u.markerHi a = true ∧ ¬ inWindow u.markerLo u.markerHi ((a + 11520) % 23040) = true) := by
  have hapart := window_apart_twin hlo hw ha
  simp only [Setup.classify, revSteps, cycleSteps]
  by_cases h1 : inWindow u.markerLo u.markerHi a = true
  · simp [h1, hapart h1]
  · by_cases h2 : inWindow u.markerLo u.markerHi ((a + 11520) % 23040) = true <;> simp [h1, h2]

/-- START_ANGLE is the estimate less TDC_ANGLE, normalised, while an angle is known, and 0 otherwise (R47, R90). -/
theorem State.startAngle_eq {u : Setup} {s : State} (hu : s.su.setup = some u) (k : CylId) : s.startAngle k =
    if s.trk.angleKnown then ((s.trk.estimate u s.now : Int) - ((u.cyls.get k).tdc : Int) + 11520) % 23040 - 11520 else 0 := by
  simp [State.startAngle, State.estimate, hu]

/-- Settles O34. -/
theorem predictionAndAngles : Obligations.PredictionAndAngles := by
  refine ⟨⟨fun _ _ => rfl, fun x hx => ⟨fun y => by cases y <;> rfl, rfl, fun y => ?_⟩⟩,
    fun period hyst cut => ⟨rfl, fun x => ?_⟩,
    fun d p tPred hd ht hp hp' => ?_, fun u x l t p d n hs hl hp hd hn => ?_, fun u within hlo hhi hw hin a ha => ?_,
    fun u s k hu => ⟨?_, fun hk => ?_, fun h1 h2 => ?_⟩⟩
  · exact ⟨predict_linear x y, predict_linear_bounds hx y⟩
  · rw [overspeedAfter_some]
    refine ⟨fun h => ?_, fun h => ?_, fun h => ?_, fun h h' h'' => ?_⟩
    · rw [if_pos h]
    · rw [if_neg (by omega), if_pos h]
    · rw [if_neg (by omega : ¬ x < period), if_pos h, ite_self]
    · rw [if_neg h, if_neg (by omega), if_neg (by omega)]
  · obtain ⟨heq, hlt⟩ := angleToTime_toNat hd ht hp hp'
    exact ⟨heq, heq ▸ hlt⟩
  · subst hp hd hn
    rw [Tracker.estimate_of_known u hs hl t]
    exact ⟨fun h => by rw [stepsTurned, if_neg h], fun h => by rw [stepsTurned, if_pos h]⟩
  · have hwithin : ∀ b, b < 23040 → (within b ↔ inWindow u.markerLo u.markerHi b = true) := fun b hb =>
      (hin b).trans (inWindow_iff hlo hhi hb).symm
    rw [hwithin a ha, hwithin _ (Nat.mod_lt _ (by decide))]
    exact u.classify_iff hlo hw ha
  · simp [State.estimate, hu]
  · rw [State.startAngle_eq hu, if_pos ((Tracker.angleKnown_iff _).2 hk)]
    omega
  · rw [State.startAngle_eq hu, if_neg]
    rw [Tracker.angleKnown_iff]
    rintro (h | h)
    · exact h1 h
    · exact h2 h

end Sys2Proof.Machine

/-! # What lies behind the tracker: the event table, the stop, the low status words

`Plays s t` says what the operations of the event table, the channels, the arbiters and the arming unit keep of the latch, of the
run controller and of the memory below the service entry. The recovery drops are such operations; what they leave of the events
is given cylinder by cylinder. -/

namespace Sys2Proof.Machine

/-! ## The memory below the service entry -/

/-- For a memory as it stands between commands, the bytes below 0x1B0 are kept with their parity: the host's regions, and of the
status block the words of the latch, the tracker and the setup unit. -/
def Memory.LowKept (m m' : Memory) : Prop :=
  m.calm → m'.calm ∧ ∀ a, a < 0x1B0 → m'.readByte a = m.readByte a ∧ m'.byteBad a = m.byteBad a

theorem Memory.LowKept.refl (m : Memory) : m.LowKept m := fun h => ⟨h, fun _ _ => ⟨rfl, rfl⟩⟩

theorem Memory.LowKept.trans {m m' m'' : Memory} (h : m.LowKept m') (g : m'.LowKept m'') : m.LowKept m'' := fun hm => by
  obtain ⟨hc, hb⟩ := h hm
  obtain ⟨gc, gb⟩ := g hc
  exact ⟨gc, fun a ha => ⟨(gb a ha).1.trans (hb a ha).1, (gb a ha).2.trans (hb a ha).2⟩⟩

theorem Memory.LowKept.turn (m : Memory) : m.LowKept m.turn := fun h => by
  rw [Memory.turn_calm h]
  exact Memory.LowKept.refl m h

theorem Memory.SameOutside.lowKept {l : List Nat} {m m' : Memory} (h : m.SameOutside l m') (hl : ∀ off ∈ l, 0x1B0 ≤ off) :
    m.LowKept m' := fun hm => ⟨(h hm).1, fun a ha => (h hm).2 a fun off ho => by have := hl off ho; omega⟩

theorem Memory.LowKept.putOne (m : Memory) {off : Nat} (w : Word) (h : 0x1B0 ≤ off) : m.LowKept (m.turn.putPart off w) :=
  (m.putAll_sameOutside [(off, w)]).lowKept (by simpa using h)

/-- The words of a list lie in the service entry or beyond it. -/
def HighWords (l : List (Nat × Word)) : Prop := ∀ p ∈ l, 0x1B0 ≤ p.1

theorem Memory.LowKept.mirror (live : Bool) {l : List (Nat × Word)} (h : HighWords l) (m : Memory) :
    m.LowKept (m.mirror live l) := by
  unfold Memory.mirror
  split
  · exact (m.putAll_sameOutside l).lowKept fun off ho => by
      obtain ⟨p, hp, rfl⟩ := List.mem_map.1 ho
      exact h p hp
  · exact .refl m

/-- A low word reads as before, with the parity it had. -/
theorem Memory.LowKept.word {m m' : Memory} (h : m.LowKept m') (hm : m.calm) {off : Nat} (ho : off + 2 ≤ 0x1B0) :
    m'.readWord off = m.readWord off ∧ m'.wordBad off = m.wordBad off := by
  have h0 := (h hm).2 off (by omega)
  have h1 := (h hm).2 (off + 1) (by omega)
  unfold Memory.readWord Memory.wordBad
  rw [h0.1, h1.1, h0.2, h1.2]
  exact ⟨rfl, rfl⟩

theorem Memory.LowKept.shows {m m' : Memory} (h : m.LowKept m') (hm : m.calm) {off : Nat} {w : Word} (ho : off + 2 ≤ 0x1B0)
    (hw : m.Shows off w) : m'.Shows off w := by
  obtain ⟨h1, h2⟩ := h.word hm ho
  exact ⟨h1.trans hw.1, h2.trans hw.2⟩

theorem cylLastWords_high (k : CylId) (c : Cylinder) : HighWords (cylLastWords k c) := by
  have := offCyl_range k
  simp only [HighWords, cylLastWords, List.mem_cons, List.not_mem_nil, or_false, forall_eq_or_imp, forall_eq]
  omega
theorem cylStateWords_high (k : CylId) (c : Cylinder) : HighWords (cylStateWords k c) := by
  have := offCyl_range k
  simp only [HighWords, cylStateWords, List.mem_cons, List.not_mem_nil, or_false, forall_eq]
  omega
theorem faultWords_high (k : CylId) (c : Cylinder) : HighWords (faultWords k c) := by
  have := offCyl_range k
  simp only [HighWords, faultWords, List.mem_cons, List.not_mem_nil, or_false, forall_eq]
  omega
theorem faultTotalWords_high (k : CylId) (c : Cylinder) : HighWords (faultTotalWords k c) := by
  have := offCyl_range k
  simp only [HighWords, faultTotalWords, List.mem_cons, List.not_mem_nil, or_false, forall_eq]
  omega
theorem bankModeWords_high (bk : BankId) (x : Bank) : HighWords (bankModeWords bk x) := by
  have := offBank_range bk
  simp only [HighWords, bankModeWords, List.mem_cons, List.not_mem_nil, or_false, forall_eq]
  omega
theorem conflictWords_high (bk : BankId) (x : Bank) : HighWords (conflictWords bk x) := by
  have := offBank_range bk
  simp only [HighWords, conflictWords, List.mem_cons, List.not_mem_nil, or_false, forall_eq]
  omega
theorem boostLowWords_high (bk : BankId) (x : Bank) : HighWords (boostLowWords bk x) := by
  have := offBank_range bk
  simp only [HighWords, boostLowWords, List.mem_cons, List.not_mem_nil, or_false, forall_eq]
  omega
theorem serviceEndWords_high (e : ServiceEntry) : HighWords (serviceEndWords e) := by
  simp [HighWords, serviceEndWords, offService]
theorem HighWords.append {l l' : List (Nat × Word)} (h : HighWords l) (g : HighWords l') : HighWords (l ++ l') := fun p hp =>
  (List.mem_append.1 hp).elim (h p) (g p)

/-! ## The end of a stop -/

/-- The stop stands judged: STOPPING under EVENT while an event is left, and READY with RUN_STATE, bit 11, when none is (R134,
R135, R139). It is what `State.cycleEnds` asks of the state a stop in mode CYCLE has come to. -/
def State.stopJudged (s : State) : Prop :=
  ((∃ k, (s.cyl k).event ≠ none) → s.ctl.run = .stopping ∧ s.ctl.stopMode = .event)
    ∧ ((∀ k, (s.cyl k).event = none) → s.ctl.run = .ready ∧ s.ctl.stopMode = .none ∧ s.ev.sticky.getLsbD 11 = true)

theorem State.tableEmpty_iff (s : State) : s.tableEmpty = true ↔ ∀ k, (s.cyl k).event = none := by
  simp only [State.tableEmpty, List.all_eq_true, Option.isNone_iff_eq_none]
  exact ⟨fun h k => h k (by cases k <;> decide), fun h k _ => h k⟩

/-- The test of the event table judges a stop in mode EVENT (R135). -/
theorem State.checkStopped_judged {s : State} (hr : s.ctl.run = .stopping) (hm : s.ctl.stopMode = .event) :
    s.checkStopped.stopJudged := by
  unfold State.checkStopped
  by_cases he : s.tableEmpty = true
  · rw [if_pos ⟨hr, by rw [hm]; rfl, he⟩]
    have hnone := s.tableEmpty_iff.1 he
    refine ⟨fun ⟨k, hk⟩ => absurd (hnone k) hk, fun _ => ⟨rfl, rfl, ?_⟩⟩
    simp [State.changeRun, Flag.word, Flag.bit]
  · rw [if_neg fun h => he h.2.2]
    exact ⟨fun _ => ⟨hr, hm⟩, fun h => absurd (s.tableEmpty_iff.2 h) he⟩

/-- A judged stop stays judged where the same cylinders have an event, the run controller is kept and RUN_STATE stays raised. -/
theorem State.stopJudged.congr {s t : State} (h : s.stopJudged) (hc : t.ctl = s.ctl)
    (he : ∀ k, (t.cyl k).event.isSome = (s.cyl k).event.isSome)
    (hf : s.ev.sticky.getLsbD 11 = true → t.ev.sticky.getLsbD 11 = true) : t.stopJudged := by
  have hnone : ∀ k, (t.cyl k).event = none ↔ (s.cyl k).event = none := fun k => by
    rw [← Option.not_isSome_iff_eq_none, he k, Option.not_isSome_iff_eq_none]
  unfold State.stopJudged at *
  simp only [Ne, hnone, hc]
  exact ⟨h.1, fun hn => ⟨(h.2 hn).1, (h.2 hn).2.1, hf (h.2 hn).2.2⟩⟩

/-! ## What the operations behind the latch keep -/

/-- What the operations of the event table, the channels, the arbiters and the arming unit keep: the latch's items and the
next-event entries, the run controller but for the end of a stop whose table has emptied, a judged stop, and the low words. -/
structure Plays (s t : State) : Prop where
  latch : t.latch = s.latch
  nextEvent : ∀ k, (t.cyl k).nextEvent = (s.cyl k).nextEvent
  ctl : t.ctl = s.ctl ∨ (s.ctl.stopMode.drains = true ∧ t.ctl = { s.ctl with run := .ready, stopMode := .none })
  judged : s.stopJudged → t.stopJudged
  low : s.mem.LowKept t.mem

variable {s u : State}

theorem Plays.refl (s : State) : Plays s s := ⟨rfl, fun _ => rfl, .inl rfl, id, .refl _⟩

theorem Plays.trans {t : State} (h : Plays s t) (g : Plays t u) : Plays s u where
  latch := g.latch.trans h.latch
  nextEvent k := (g.nextEvent k).trans (h.nextEvent k)
  ctl := by
    rcases h.ctl with h1 | ⟨h1, h2⟩
    · rcases g.ctl with g1 | ⟨g1, g2⟩
      · exact .inl (g1.trans h1)
      · exact .inr ⟨h1 ▸ g1, h1 ▸ g2⟩
    · rcases g.ctl with g1 | ⟨g1, -⟩
      · exact .inr ⟨h1, g1.trans h2⟩
      · simp [h2, StopMode.drains] at g1
  judged hs := g.judged (h.judged hs)
  low := h.low.trans g.low

/-- In mode CYCLE these operations keep the run controller. -/
theorem Plays.ctl_of_cycle (h : Plays s u) (hm : s.ctl.stopMode = .cycle) : u.ctl = s.ctl := by
  rcases h.ctl with h | ⟨h, -⟩
  · exact h
  · simp [hm, StopMode.drains] at h

/-- They bring no mode CYCLE. -/
theorem Plays.notCycle (h : Plays s u) (hm : s.ctl.stopMode ≠ .cycle) : u.ctl.stopMode ≠ .cycle := by
  rcases h.ctl with h | ⟨-, h⟩
  · rwa [h]
  · simp [h]

/-- A step that keeps the run controller and every flag, and leaves the cylinders' events in the table and their entries. -/
theorem Plays.step {t : State} (h : Plays s u) (hl : t.latch = u.latch) (hc : t.ctl = u.ctl)
    (hk : ∀ k, (t.cyl k).nextEvent = (u.cyl k).nextEvent ∧ (t.cyl k).event.isSome = (u.cyl k).event.isSome)
    (hf : u.ev.sticky.getLsbD 11 = true → t.ev.sticky.getLsbD 11 = true) (hm : u.mem.LowKept t.mem) : Plays s t :=
  h.trans ⟨hl, fun k => (hk k).1, .inl hc, fun hj => hj.congr hc (fun k => (hk k).2) hf, hm⟩

/-! ### Setters -/

theorem Plays.setArm (h : Plays s u) (x : Arming) : Plays s (u.setArm x) :=
  h.step rfl rfl (fun _ => ⟨rfl, rfl⟩) id (.refl _)
theorem Plays.setBanks (h : Plays s u) (x : Four Bank) : Plays s (u.setBanks x) :=
  h.step rfl rfl (fun _ => ⟨rfl, rfl⟩) id (.refl _)
theorem Plays.setBank (h : Plays s u) (bk : BankId) (x : Bank) : Plays s (u.setBank bk x) := h.setBanks _
theorem Plays.setFreeCount (h : Plays s u) (n : Nat) : Plays s (u.setFreeCount n) :=
  h.step rfl rfl (fun _ => ⟨rfl, rfl⟩) id (.refl _)
theorem Plays.setSb (h : Plays s u) (x : StatusOwner) : Plays s (u.setSb x) :=
  h.step rfl rfl (fun _ => ⟨rfl, rfl⟩) id (.refl _)
theorem Plays.raise (h : Plays s u) (f : Flag) : Plays s (u.raise f) :=
  h.step rfl rfl (fun _ => ⟨rfl, rfl⟩) (fun hf => by simp [hf]) (.refl _)
theorem Plays.turn (h : Plays s u) : Plays s u.turn := h.step rfl rfl (fun _ => ⟨rfl, rfl⟩) id (.turn _)
theorem Plays.writeWord (h : Plays s u) {off : Nat} (w : Word) (ho : 0x1B0 ≤ off) : Plays s (u.writeWord off w) :=
  h.step rfl rfl (fun _ => ⟨rfl, rfl⟩) id (.putOne _ w ho)
theorem Plays.statusAll (h : Plays s u) {l : List (Nat × Word)} (hl : HighWords l) : Plays s (u.statusAll l) := by
  rw [State.statusAll_eq]
  exact h.step rfl rfl (fun _ => ⟨rfl, rfl⟩) id (.mirror _ hl _)

/-- A cylinder changed in its other items. -/
theorem Plays.setCyl (h : Plays s u) (k : CylId) {x : Cylinder} (hn : x.nextEvent = (u.cyl k).nextEvent)
    (he : x.event.isSome = (u.cyl k).event.isSome) : Plays s (u.setCyl k x) := by
  refine h.step rfl rfl (fun j => ?_) id (.refl _)
  by_cases hj : j = k
  · subst hj
    simpa using ⟨hn, he⟩
  · rw [State.cyl_setCyl_ne _ _ hj]
    exact ⟨rfl, rfl⟩

/-! ### Events -/

theorem Plays.foldl {α : Type} {f : State → α → State} (hf : ∀ u a, Plays s u → Plays s (f u a)) (l : List α) :
    ∀ {u : State}, Plays s u → Plays s (l.foldl f u) := by
  induction l with
  | nil => exact fun h => h
  | cons a rest ih => exact fun h => ih (hf _ a h)

theorem Plays.modEvent (h : Plays s u) (k : CylId) (seq : Word) (f : Event → Event) : Plays s (u.modEvent k seq f) := by
  unfold State.modEvent
  split
  · rename_i e he
    split
    · exact h.setCyl k rfl (by rw [he]; rfl)
    · exact h
  · exact h

theorem Plays.modPulse (h : Plays s u) (k : CylId) (seq : Word) (index : Nat) (f : Pulse → Pulse) :
    Plays s (u.modPulse k seq index f) := h.modEvent _ _ _

theorem Plays.withdraw (h : Plays s u) (reach : CylId → Bool) (o : PulseOutcome) : Plays s (u.withdraw reach o) := by
  have hc : Plays s (u.setCyls (u.cyls.map fun k c => if reach k then c.dropPulses u.now o else c)) := by
    refine h.step rfl rfl (fun k => ?_) id (.refl _)
    simp only [State.cyl, State.setCyls_cyls, Eight.get_map]
    split
    · exact ⟨rfl, by simp [Cylinder.dropPulses]⟩
    · exact ⟨rfl, rfl⟩
  exact (hc.setArm _).setBanks _

theorem Plays.conflict (h : Plays s u) (bk : BankId) : Plays s (u.conflict bk) :=
  ((h.setBank _ _).statusAll (conflictWords_high _ _)).raise _

theorem Plays.conflicts (bk : BankId) (n : Nat) : ∀ {u : State}, Plays s u → Plays s (u.conflicts bk n) := by
  induction n with
  | zero => exact fun h => h
  | succ n ih => exact fun h => ih (h.conflict bk)

/-! ### Reporting an event -/

/-- Words written one after another change the memory alone. -/
theorem State.writeWords_eq (l : List Word) :
    ∀ (off : Nat) (s : State), s.writeWords off l = s.setMem (s.writeWords off l).mem := by
  induction l with
  | nil => exact fun _ _ => rfl
  | cons w rest ih =>
    intro off s
    rw [State.writeWords, ih]
    rfl

theorem Plays.writeWords (l : List Word) :
    ∀ {u : State} {off : Nat}, Plays s u → 0x1B0 ≤ off → Plays s (u.writeWords off l) := by
  induction l with
  | nil => exact fun h _ => h
  | cons w rest ih => exact fun h ho => ih (h.writeWord w ho) (by omega)

theorem State.writeBack_eq (k : CylId) (e : Event) (i : Nat) (s : State) :
    s.writeBack k e i = s.setMem (s.writeBack k e i).mem := by
  simp only [State.writeBack, State.writeResults]
  rw [State.writeWords_eq]
  rfl

theorem Plays.writeBack (h : Plays s u) (k : CylId) (e : Event) (i : Nat) : Plays s (u.writeBack k e i) := by
  have := recordOffset_ge i
  exact (((Plays.writeWords _ h (by omega)).writeWord _ (by omega)).writeWord _ (by omega)).writeWord _ (by omega)

/-- The cylinder whose event has been reported (R46 step 2). -/
def Cylinder.reported (c : Cylinder) (e : Event) : Cylinder :=
  { c with lastSource := e.source, lastOutcome := some (eventOutcome e.pulses), lastSeq := e.seq }

/-- Reporting an event changes its cylinder's status entry, the memory and the flags (R46). -/
theorem State.report_eq (s : State) (k : CylId) (e : Event) : s.report k e =
    { s with ev := (s.report k e).ev, cyls := s.cyls.set k ((s.cyl k).reported e), mem := (s.report k e).mem } := by
  have hclose : ∀ (t : State) (n : Bool), (t.closeEntry k e.source (eventOutcome e.pulses) e.seq).notifyDone n =
      { t with
        ev := ((t.closeEntry k e.source (eventOutcome e.pulses) e.seq).notifyDone n).ev
        cyls := t.cyls.set k ((t.cyl k).reported e)
        mem := ((t.closeEntry k e.source (eventOutcome e.pulses) e.seq).notifyDone n).mem } := by
    intro t n
    unfold State.closeEntry State.notifyDone
    rw [State.statusAll_eq]
    cases n <;> rfl
  unfold State.report
  cases e.record with
  | none => exact hclose s _
  | some i =>
    dsimp only
    rw [State.writeBack_eq]
    exact hclose _ _

theorem Plays.notifyDone (h : Plays s u) (n : Bool) : Plays s (u.notifyDone n) := by
  unfold State.notifyDone
  split
  · exact h.raise _
  · exact h

theorem Plays.closeEntry (h : Plays s u) (k : CylId) (src : Source) (o : EventOutcome) (seq : Word) :
    Plays s (u.closeEntry k src o seq) :=
  (h.setCyl k (x := { u.cyl k with lastSource := src, lastOutcome := some o, lastSeq := seq }) rfl rfl).statusAll
    (cylLastWords_high _ _)

theorem Plays.report (h : Plays s u) (k : CylId) (e : Event) : Plays s (u.report k e) := by
  unfold State.report
  split
  · exact ((h.writeBack k e _).closeEntry _ _ _ _).notifyDone _
  · exact (h.closeEntry _ _ _ _).notifyDone _

/-! ### Judging an event -/

/-- A cylinder whose event has been judged: out of the table, with its report, where every pulse is RESOLVED (R45, R46). -/
def Cylinder.settled (c : Cylinder) : Cylinder :=
  match c.event with
  | some e => if e.done then { c.reported e with event := none } else c
  | none => c

/-- The event leaves the table before the table is tested for a stop (R135). -/
theorem State.finish_eq (s : State) (k : CylId) (e : Event) : s.finish k e = State.checkStopped
    { s with
      ev := (s.report k e).ev
      cyls := s.cyls.set k { (s.cyl k).reported e with event := none }
      mem := (s.report k e).mem } := by
  unfold State.finish
  dsimp only
  rw [State.report_eq]
  simp [State.setCyl, State.setCyls, State.cyl]

theorem State.settle_cyls (s : State) (k : CylId) : (s.settle k).cyls = s.cyls.set k (s.cyl k).settled := by
  have hself : s.cyls.set k (s.cyl k) = s.cyls := Eight.set_get _ _
  unfold State.settle Cylinder.settled
  cases (s.cyl k).event with
  | none => exact hself.symm
  | some e =>
    dsimp only
    split
    · rw [State.finish_eq, State.checkStopped_cyls]
    · exact hself.symm

theorem Plays.finish (h : Plays s u) {k : CylId} {e : Event} (he : (u.cyl k).event = some e) : Plays s (u.finish k e) := by
  have hr : Plays u (u.report k e) := (Plays.refl u).report k e
  rw [State.finish_eq]
  have hcase := State.checkStopped_judged
    (s := { u with
      ev := (u.report k e).ev
      cyls := u.cyls.set k { (u.cyl k).reported e with event := none }
      mem := (u.report k e).mem })
  unfold State.checkStopped at hcase ⊢
  refine h.trans ⟨?_, fun j => ?_, ?_, fun hj => ?_, ?_⟩
  · split <;> rfl
  · have hn : (Eight.get (u.cyls.set k { (u.cyl k).reported e with event := none }) j).nextEvent = (u.cyl j).nextEvent := by
      by_cases hj : j = k
      · subst hj
        rw [Eight.get_set_same]
        rfl
      · rw [Eight.get_set_ne _ _ hj]
        rfl
    split <;> exact hn
  · split
    · rename_i hc
      exact .inr ⟨hc.2.1, rfl⟩
    · exact .inl rfl
  · obtain ⟨h1, h2⟩ := hj.1 ⟨k, by simp [he]⟩
    exact hcase h1 h2
  · split <;> exact hr.low

theorem Plays.settle (h : Plays s u) (k : CylId) : Plays s (u.settle k) := by
  unfold State.settle
  split
  · split
    · exact h.finish ‹_›
    · exact h
  · exact h

theorem Plays.settleAll (h : Plays s u) : Plays s u.settleAll := Plays.foldl (fun _ k g => g.settle k) _ h

theorem Plays.recover (h : Plays s u) : Plays s u.recover := (h.withdraw _ _).settleAll

theorem State.settleAll_cyls (s : State) : s.settleAll.cyls = s.cyls.map fun _ c => c.settled := by
  refine Eight.ext_get fun k => ?_
  rw [Eight.get_map]
  simp only [State.settleAll, CylId.all, List.foldl, State.settle_cyls, State.cyl]
  cases k <;> rfl

/-! ## The recovery drops -/

theorem Pulse.drop_eq_dropped (t : Time) (o : PulseOutcome) (p : Pulse) : p.drop t o = p.dropped t o := by
  cases hc : p.cond <;> cases hp : p.start <;> simp [Pulse.drop, Pulse.dropped, Pulse.dropSlip, hc, hp, PulseCond.droppable]

theorem Event.done_iff (e : Event) : e.done = true ↔ ∀ p ∈ e.pulses, p.cond = .resolved := by
  simp [Event.done]

/-- What the drops make of each cylinder (R23, R45, R77). -/
theorem State.recover_cyls (s : State) :
    s.recover.cyls = s.cyls.map fun _ c => (c.dropPulses s.now .syncDrop).settled := by
  rw [State.recover, State.settleAll_cyls]
  exact Eight.ext_get fun k => by simp [State.withdraw]

/-- A judged cylinder has the event in the table, or its report. -/
theorem State.judged_of_settled {y : State} {k : CylId} {c : Cylinder} {e : Event} (hy : y.cyl k = c.settled)
    (hc : c.event = some e) : y.judged k e := by
  unfold State.judged
  rw [hy, Cylinder.settled, hc]
  dsimp only
  by_cases hd : e.done = true
  · rw [if_pos hd]
    refine ⟨fun ⟨p, hp, hn⟩ => absurd (e.done_iff.1 hd p hp) hn, fun _ => ⟨rfl, rfl, rfl, rfl⟩⟩
  · rw [if_neg hd]
    exact ⟨fun _ => hc, fun hall => absurd (e.done_iff.2 hall) hd⟩

/-- Every pending, armed and waiting pulse is resolved SYNC_DROP, and the events are judged (R23). -/
theorem State.recover_allDropped (s : State) : s.allDropped s.recover .syncDrop s.now := by
  obtain ⟨h1, h2, h3, -⟩ := s.recover_nothingWaits
  have hk : ∀ k, s.recover.cyl k = ((s.cyl k).dropPulses s.now .syncDrop).settled := fun k => by
    simp [State.cyl, s.recover_cyls]
  refine ⟨h1, h2, h3, fun k => ⟨fun he => ?_, fun e he => State.judged_of_settled (hk k) ?_⟩⟩
  · rw [hk, Cylinder.settled, Cylinder.dropPulses, he]
    rfl
  · simp [Cylinder.dropPulses, he, Event.dropped, funext (Pulse.drop_eq_dropped s.now .syncDrop)]

/-- The drops stand where the lists and what the event table says of them are kept. -/
theorem State.allDropped.congr {s y z : State} {o : PulseOutcome} {t : Time} (h : s.allDropped y o t) (ha : z.arm = y.arm)
    (hw : ∀ bk, (z.bank bk).waiting = (y.bank bk).waiting)
    (hc : ∀ k, (z.cyl k).event = (y.cyl k).event ∧ (z.cyl k).lastSource = (y.cyl k).lastSource
      ∧ (z.cyl k).lastOutcome = (y.cyl k).lastOutcome ∧ (z.cyl k).lastSeq = (y.cyl k).lastSeq) : s.allDropped z o t := by
  unfold State.allDropped State.judged at *
  simp only [ha, hw, hc]
  exact h

theorem State.endCycleMode_latch (s : State) : s.endCycleMode.latch = s.latch := by
  unfold State.endCycleMode State.stopEvent State.checkStopped State.setStopMode
  split
  · split <;> rfl
  · rfl

theorem State.endCycleMode_mem (s : State) : s.endCycleMode.mem = s.mem := by
  unfold State.endCycleMode State.stopEvent State.checkStopped State.setStopMode
  split
  · split <;> rfl
  · rfl

/-- A stop in mode CYCLE is judged as mode EVENT (R134, R135). -/
theorem State.endCycleMode_judged {s : State} (hr : s.ctl.run = .stopping) (hm : s.ctl.stopMode = .cycle) :
    s.endCycleMode.stopJudged := by
  unfold State.endCycleMode
  rw [if_pos ⟨hr, hm⟩]
  exact State.checkStopped_judged hr rfl

/-- No stop is left in mode CYCLE. -/
theorem State.endCycleMode_notCycle {s : State} (hr : s.ctl.run = .stopping) : s.endCycleMode.ctl.stopMode ≠ .cycle := by
  unfold State.endCycleMode State.stopEvent State.checkStopped State.setStopMode
  split
  · split <;> simp [State.changeRun]
  · rename_i h
    exact fun hm => h ⟨hr, hm⟩

theorem State.endCycleMode_of_not {s : State} (h : ¬ (s.ctl.run = .stopping ∧ s.ctl.stopMode = .cycle)) :
    s.endCycleMode = s := if_neg h

/-- Nor is one where the operations behind the latch, made in STOPPING, come before. -/
theorem Plays.endCycleMode_notCycle (h : Plays s u) (hr : s.ctl.run = .stopping) : u.endCycleMode.ctl.stopMode ≠ .cycle := by
  rcases h.ctl with hc | ⟨-, hc⟩
  · exact State.endCycleMode_notCycle (by rw [hc, hr])
  · rw [State.endCycleMode_of_not (by simp [hc]), hc]
    simp

/-- What the recovery drops, and the end of mode CYCLE after them, leave of a state (R23, R134). -/
structure Recovered (s y : State) : Prop where
  down : Downstream s y
  latch : y.latch = s.latch
  cyls : y.cyls = s.cyls.map fun _ c => (c.dropPulses s.now .syncDrop).settled
  dropped : s.allDropped y .syncDrop s.now
  holders : s.holdersKept y
  low : s.mem.LowKept y.mem

theorem State.recover_recovered (s : State) : Recovered s s.recover :=
  ⟨(Downstream.refl s).recover, (Plays.refl s).recover.latch, s.recover_cyls, s.recover_allDropped, s.recover_holdersKept,
    (Plays.refl s).recover.low⟩

theorem Recovered.endCycleMode (h : Recovered s u) : Recovered s u.endCycleMode where
  down := h.down.endCycleMode
  latch := u.endCycleMode_latch.trans h.latch
  cyls := u.endCycleMode_cyls.trans h.cyls
  dropped := h.dropped.congr u.endCycleMode_arm (fun bk => by simp only [State.bank, State.endCycleMode_banks])
    fun k => by simp only [State.cyl, State.endCycleMode_cyls, and_self]
  holders := h.holders.trans (State.holdersKept_of_banks u.endCycleMode_banks)
  low := by
    rw [State.endCycleMode_mem]
    exact h.low

/-- The drops keep a stop in mode CYCLE, which then ends (R134). -/
theorem State.recover_endCycleMode_judged (hr : s.ctl.run = .stopping) (hm : s.ctl.stopMode = .cycle) :
    s.recover.endCycleMode.stopJudged := by
  have hc := (Plays.refl s).recover.ctl_of_cycle hm
  exact State.endCycleMode_judged (by rw [hc, hr]) (by rw [hc, hm])

/-- Each cylinder keeps its entry and its hold count through the drops. -/
theorem Recovered.cyl (h : Recovered s u) (k : CylId) :
    (u.cyl k).nextEvent = (s.cyl k).nextEvent ∧ (u.cyl k).holdCount = (s.cyl k).holdCount := by
  have hk : u.cyl k = ((s.cyl k).dropPulses s.now .syncDrop).settled := by simp [State.cyl, h.cyls]
  rw [hk]
  unfold Cylinder.settled
  split
  · split <;> exact ⟨rfl, rfl⟩
  · exact ⟨rfl, rfl⟩

end Sys2Proof.Machine

/-! # Marker edges and the stall -/

namespace Sys2Proof.Machine

/-! ## Words of the status block -/

/-- A list whose offsets are numerals lies apart and inside the memory: what showing it does. -/
theorem Memory.shown_of (live : Bool) {l : List (Nat × Word)} (m : Memory)
    (ha : (l.map Prod.fst).Pairwise (fun a b => a + 2 ≤ b ∨ b + 2 ≤ a)) (hr : ∀ a ∈ l.map Prod.fst, a + 1 < memBytes) :
    Memory.Shown live l m (m.mirror live l) :=
  m.mirror_shown live (List.pairwise_map.1 ha) fun p hp => hr p.1 (List.mem_map_of_mem hp)

/-- A live block shows the words of a list. -/
theorem Memory.Shown.shows {live : Bool} {l : List (Nat × Word)} {m m' : Memory} (h : Memory.Shown live l m m') (hm : m.calm)
    (hl : live = true) : m'.calm ∧ ∀ p ∈ l, m'.Shows p.1 p.2 := by
  subst hl
  exact ⟨(h.1 hm).1, h.2 hm⟩

/-- A showing keeps a word that lies apart from the list. -/
theorem Memory.Shown.word {live : Bool} {l : List (Nat × Word)} {m m' : Memory} (h : Memory.Shown live l m m') (hm : m.calm)
    {c : Nat} (hc : ∀ off ∈ l.map Prod.fst, c + 2 ≤ off ∨ off + 2 ≤ c) :
    m'.readWord c = m.readWord c ∧ m'.wordBad c = m.wordBad c := by
  unfold Memory.Shown at h
  split at h
  · exact h.1.word hm hc
  · subst h
    exact ⟨rfl, rfl⟩

theorem Memory.Shown.calm {live : Bool} {l : List (Nat × Word)} {m m' : Memory} (h : Memory.Shown live l m m') (hm : m.calm) :
    m'.calm := by
  unfold Memory.Shown at h
  split at h
  · exact (h.1 hm).1
  · exact h ▸ hm

/-- A raised flag's bit. -/
theorem Flag.word_bit (f : Flag) : f.word.getLsbD f.bit = true := by cases f <;> rfl

theorem State.raise_bit (s : State) (f : Flag) : (s.raise f).ev.sticky.getLsbD f.bit = true := by
  simp [f.word_bit]

/-- A flag raised before an operation of the part stays raised (R176). -/
theorem Keeps.bit {s t : State} (h : Keeps s t) {i : Nat} (hs : s.ev.sticky.getLsbD i = true) : t.ev.sticky.getLsbD i = true :=
  sticky_kept h.sticky hs

/-! ## A marker edge that is taken -/

/-- A marker edge that is taken is judged by the class of its angle (R1, R14). -/
theorem MarkerTaken.exec_eq {u : Setup} {s : State} {t : Time} {c : MarkerClass} (h : MarkerTaken u s u.markerEdge t c) :
    exec (.markerEdge u.markerEdge t []) s = .next (match s.trk.sync with
      | .crankSync => if s.trk.phaseAssumed then (s.at t).markerAssumed c else (s.at t).markerUnphased c
      | .phased => (s.at t).markerPhased u c
      | .noSignal => s.at t
      | .gapSearch => s.at t
      | .gapCheck => s.at t) := by
  have hu : (s.at t).su.setup = some u := h.setup
  have hr : ((s.at t).ctl.run.tracks && u.markerEdge == u.markerEdge) = true := by
    rw [Bool.and_eq_true]
    exact ⟨h.runs, beq_self_eq_true _⟩
  have hc : u.classify (s.at t).estimate = c := by
    unfold State.estimate
    rw [hu]
    exact h.angle
  refine congrArg Host.Outcome.next ?_
  show (s.at t).markerArrives u.markerEdge = _
  simp only [State.markerArrives, hu, hr, if_true, State.markerTaken, hc]
  rfl

/-- MARKER_ERRORS counts one, its word is shown, and nothing else changes (R15, R16). -/
theorem State.countMarkerError_eq (s : State) : s.countMarkerError =
    { s with
      trk := { s.trk with markerErrors := satCount s.trk.markerErrors }
      mem := s.mem.mirror s.sb.live [(0x1A2, satCount s.trk.markerErrors)] } := by
  unfold State.countMarkerError
  rw [State.status_eq]
  rfl

/-- A marker error that does not make the third in a row counts alone (R16). -/
theorem State.markerError_eq (u : Setup) {s : State} (h : s.trk.errorRun < 2) : s.markerError u =
    { s with
      trk := { s.trk with errorRun := s.trk.errorRun + 1, markerErrors := satCount s.trk.markerErrors }
      mem := s.mem.mirror s.sb.live [(0x1A2, satCount s.trk.markerErrors)] } := by
  unfold State.markerError State.checkRun
  rw [if_neg, State.countMarkerError_eq]
  · rfl
  · rw [State.countMarkerError_eq]
    show ¬ 3 ≤ s.trk.errorRun + 1
    omega

/-- Settles O21. -/
theorem markerPhases : Obligations.MarkerPhases := by
  intro u s t c h
  refine ⟨fun hs hc => ?_, fun hs ha hc => ?_, fun hs hc => ?_, fun hs hc => ?_, fun hs hc hn => ?_⟩
  · refine ⟨_, ?_, s.mem.shown_of s.sb.live (l := [(0x186, 4)]) (by simp) (by simp [memBytes])⟩
    rw [h.exec_eq, hs, hc]
    cases ha : s.trk.phaseAssumed
    · simp only [State.markerUnphased, State.statusAll_eq]
      rfl
    · simp only [State.markerAssumed, State.statusAll_eq]
      rfl
  · refine ⟨_, ?_, s.mem.shown_of s.sb.live
      (l := [(0x18C, BitVec.ofNat 16 ((s.trk.lastAngle + 11520) % 23040)), (0x186, 4)]) (by simp) (by simp [memBytes])⟩
    rw [h.exec_eq, hs, hc, ha]
    simp only [State.markerUnphased, State.statusAll_eq, Tracker.shift, Tracker.phasedBy, ha]
    rfl
  · refine ⟨_, ?_, s.mem.shown_of s.sb.live (l := [(0x1A2, satCount s.trk.markerErrors)]) (by simp) (by simp [memBytes])⟩
    rw [h.exec_eq, hs, hc]
    cases ha : s.trk.phaseAssumed
    · exact congrArg Host.Outcome.next (s.at t).countMarkerError_eq
    · exact congrArg Host.Outcome.next (s.at t).countMarkerError_eq
  · rw [h.exec_eq, hs, hc]
    rfl
  · refine ⟨_, ?_, s.mem.shown_of s.sb.live (l := [(0x1A2, satCount s.trk.markerErrors)]) (by simp) (by simp [memBytes])⟩
    rw [h.exec_eq, hs, hc]
    exact congrArg Host.Outcome.next (State.markerError_eq u (s := (s.at t).modTrk fun x => { x with markerSeen := true }) hn)

/-! ## A slip, and a loss of phase -/

/-- A slip: the tracker phased and shifted, its words, PHASE_SLIP, and the recovery drops (R16, R18, R23). -/
theorem State.phaseSlip_recovered (s : State) :
    Recovered ((((s.setTrk { s.trk.phasedBy.shift with reacquire := true }).setMem (s.mem.mirror s.sb.live
      (edgeAngleWords s.trk.phasedBy.shift ++ syncWords s.trk.phasedBy.shift)))).raise .phaseSlip) s.phaseSlip := by
  unfold State.phaseSlip
  dsimp only
  rw [State.statusAll_eq]
  exact State.recover_recovered _

/-- The tracker that has lost phase, before the assumption of R17 (R16). -/
def Tracker.phaseLost (u : Setup) (t : Tracker) : Tracker :=
  { t with
    sync := .crankSync, errorRun := 0, syncLosses := satCount t.syncLosses, reacquire := t.reacquire || u.phaseAssume }

/-- A loss of phase up to its drops: the tracker, SYNC_LOSSES before SYNC_STATE, and SYNC_LOST (R16). -/
def State.phaseDropped (u : Setup) (s : State) : State :=
  ((s.setTrk (s.trk.phaseLost u)).setMem (s.mem.mirror s.sb.live
    [(0x1A4, satCount s.trk.syncLosses), (0x186, 3)])).raise .syncLost

theorem State.losePhase_eq (u : Setup) (s : State) :
    s.losePhase u = ((s.phaseDropped u).recover.endCycleMode).assumePhase u := by
  unfold State.losePhase
  dsimp only
  rw [State.statusAll_eq]
  rfl

/-- The assumption changes the tracker's mark of it, and raises SYNC_GAINED (R17). -/
theorem State.assumePhase_eq (u : Setup) (s : State) : s.assumePhase u =
    { s with
      trk := { s.trk with phaseAssumed := u.phaseAssume || s.trk.phaseAssumed }
      ev := { s.ev with sticky := if u.phaseAssume then s.ev.sticky ||| 0x0010 else s.ev.sticky } } := by
  unfold State.assumePhase
  cases u.phaseAssume <;> rfl

/-- What a loss of phase leaves (R16, R17, R23, R134). -/
structure PhaseLost (u : Setup) (s y : State) : Prop where
  now : y.now = s.now
  pins : y.pins = s.pins
  su : y.su = s.su
  latch : y.latch = s.latch
  trk : y.trk = { s.trk.phaseLost u with phaseAssumed := u.phaseAssume || s.trk.phaseAssumed }
  lost : y.ev.sticky.getLsbD 5 = true
  gained : u.phaseAssume = true → y.ev.sticky.getLsbD 4 = true
  dropped : s.allDropped y .syncDrop s.now
  holders : s.holdersKept y
  cycle : s.cycleEnds y
  notCycle : s.ctl.run = .stopping → y.ctl.stopMode ≠ .cycle
  holds : ∀ k, (y.cyl k).holdCount = (s.cyl k).holdCount
  low : (s.phaseDropped u).mem.LowKept y.mem

theorem State.losePhase_lost (u : Setup) (s : State) : PhaseLost u s (s.losePhase u) := by
  have hr : Recovered (s.phaseDropped u) (s.phaseDropped u).recover.endCycleMode := (State.recover_recovered _).endCycleMode
  have heq := (s.losePhase_eq u).trans (State.assumePhase_eq u _)
  have hbit : (s.phaseDropped u).recover.endCycleMode.ev.sticky.getLsbD 5 = true :=
    hr.down.toKeeps.bit (State.raise_bit _ .syncLost)
  have hjudged : s.ctl.run = .stopping → s.ctl.stopMode = .cycle → (s.phaseDropped u).recover.endCycleMode.stopJudged :=
    fun h1 h2 => State.recover_endCycleMode_judged (s := s.phaseDropped u) h1 h2
  refine ⟨?_, ?_, ?_, ?_, ?_, ?_, fun ha => ?_, ?_, ?_, fun h1 h2 => ?_, fun h1 => ?_, fun k => ?_, ?_⟩
  · rw [heq]; exact hr.down.now
  · rw [heq]; exact hr.down.pins
  · rw [heq]; exact hr.down.su
  · rw [heq]; exact hr.latch
  · rw [heq]
    simp only [hr.down.trk]
    rfl
  · rw [heq]
    dsimp only
    split
    · simp [hbit]
    · exact hbit
  · rw [heq]
    simp [ha]
  · rw [heq]; exact hr.dropped
  · rw [heq]; exact hr.holders
  · rw [heq]
    refine (hjudged h1 h2).congr rfl (fun _ => rfl) fun hf => ?_
    dsimp only
    split
    · simp [hf]
    · exact hf
  · rw [heq]
    exact (Plays.refl (s.phaseDropped u)).recover.endCycleMode_notCycle h1
  · rw [heq]; exact (hr.cyl k).2
  · rw [heq]; exact hr.low

/-- The third marker error in a row: the count, the run and its word, then the loss of phase (R16). -/
theorem State.markerError_third (u : Setup) {s : State} (h : 2 ≤ s.trk.errorRun) : s.markerError u =
    State.losePhase u { s with
      trk := { s.trk with errorRun := s.trk.errorRun + 1, markerErrors := satCount s.trk.markerErrors }
      mem := s.mem.mirror s.sb.live [(0x1A2, satCount s.trk.markerErrors)] } := by
  unfold State.markerError State.checkRun
  rw [if_pos, State.countMarkerError_eq]
  · rfl
  · rw [State.countMarkerError_eq]
    show 3 ≤ s.trk.errorRun + 1
    omega

/-- A slip leaves the tracker phased and shifted, its drops made, and the run controller under mode CYCLE as it was (R16, R18). -/
theorem State.phaseSlip_after (s : State) :
    s.phaseSlip.trk = { s.trk.phasedBy.shift with reacquire := true } ∧ s.phaseSlip.now = s.now
      ∧ s.phaseSlip.ev.sticky.getLsbD 6 = true ∧ s.allDropped s.phaseSlip .syncDrop s.now ∧ s.holdersKept s.phaseSlip
      ∧ (s.ctl.stopMode = .cycle → s.phaseSlip.ctl = s.ctl) := by
  have h := s.phaseSlip_recovered
  refine ⟨h.down.trk, h.down.now, h.down.toKeeps.bit (State.raise_bit _ .phaseSlip), h.dropped, h.holders, fun hm => ?_⟩
  have hrecover : ∀ v : State, v.ctl = s.ctl → v.recover.ctl = s.ctl := fun v hv =>
    ((Plays.refl v).recover.ctl_of_cycle (hv ▸ hm)).trans hv
  unfold State.phaseSlip
  dsimp only
  rw [State.statusAll_eq]
  exact hrecover _ rfl

/-- Settles O22: its two parts are a slip (`State.phaseSlip_after`) and a loss of phase (`State.losePhase_lost`). -/
theorem markerSlipOrLoss : Obligations.MarkerSlipOrLoss := by
  refine ⟨fun u s t h hs => ⟨(s.at t).phaseSlip, ?_, ?_⟩, fun u s t h hs ha hn => ?_⟩
  · rcases hs with hs | ⟨hs, ha⟩
    · rw [h.exec_eq, hs]
      rfl
    · rw [h.exec_eq, hs, ha]
      rfl
  · obtain ⟨htrk, hnow, hbit, hdrop, hheld, hctl⟩ := (s.at t).phaseSlip_after
    exact ⟨hnow, htrk, hbit, hdrop, hheld, hctl⟩
  · have hmark : Memory.Shown s.sb.live _ s.mem _ :=
      s.mem.shown_of s.sb.live (l := [(0x1A2, satCount s.trk.markerErrors)]) (by simp) (by simp [memBytes])
    have hlost : ∀ m : Memory, Memory.Shown s.sb.live _ m _ := fun m =>
      m.shown_of s.sb.live (l := [(0x1A4, satCount s.trk.syncLosses), (0x186, 3)]) (by simp) (by simp [memBytes])
    have hy := State.losePhase_lost u
      { (s.at t).modTrk (fun x => { x with markerSeen := true }) with
        trk := { s.trk with markerSeen := true, errorRun := s.trk.errorRun + 1, markerErrors := satCount s.trk.markerErrors }
        mem := s.mem.mirror s.sb.live [(0x1A2, satCount s.trk.markerErrors)] }
    refine ⟨_, ?_, hy.now, ?_, hy.lost, hy.gained, hy.dropped, hy.holders, hy.cycle, fun hm hl => ?_⟩
    · rw [h.exec_eq, hs]
      exact congrArg Host.Outcome.next (State.markerError_third u
        (s := (s.at t).modTrk fun x => { x with markerSeen := true }) (Nat.le_of_eq hn.symm))
    · rw [hy.trk]
      simp [Tracker.phaseLost, ha]
    · have hm1 := hmark.calm hm
      have hm2 := (hlost _).calm hm1
      have hmark2 := (hmark.shows hm hl).2
      have hlost2 := ((hlost (s.mem.mirror s.sb.live [(0x1A2, satCount s.trk.markerErrors)])).shows hm1 hl).2
      have herr := (hlost (s.mem.mirror s.sb.live [(0x1A2, satCount s.trk.markerErrors)])).word hm1 (c := 0x1A2) (by simp)
      have hnoise := (hlost (s.mem.mirror s.sb.live [(0x1A2, satCount s.trk.markerErrors)])).word hm1 (c := 0x1A0) (by simp)
      refine ⟨hy.low.shows hm2 (by decide) (hlost2 (0x1A4, satCount s.trk.syncLosses) (by simp)),
        hy.low.shows hm2 (by decide) ⟨?_, ?_⟩, ?_⟩
      · exact herr.1.trans (hmark2 (0x1A2, satCount s.trk.markerErrors) (by simp)).1
      · exact herr.2.trans (hmark2 (0x1A2, satCount s.trk.markerErrors) (by simp)).2
      · exact (hy.low.word hm2 (by decide)).1.trans (hnoise.1.trans (hmark.word hm (by simp)).1)

/-! ## The stall -/

/-- Settles O23: what the expiry changes itself, then the drops and the end of mode CYCLE. -/
theorem stallExpiry : Obligations.StallExpiry := by
  refine ⟨fun s t h => ⟨(s.at t).stallNow, ?_, ?_⟩, fun s h => ?_⟩
  · refine congrArg Host.Outcome.next ?_
    show s.stallExpires = _
    unfold State.stallExpires
    rw [h]
  · have hr := (State.recover_recovered (((((s.at t).setTrk s.trk.stalled).setMem (s.mem.mirror s.sb.live
      (syncWords s.trk.stalled ++ tLastWords s.trk.stalled)))).raise .stall)).endCycleMode
    have heq : (s.at t).stallNow = (((((s.at t).setTrk s.trk.stalled).setMem (s.mem.mirror s.sb.live
        (syncWords s.trk.stalled ++ tLastWords s.trk.stalled)))).raise .stall).recover.endCycleMode := by
      unfold State.stallNow
      dsimp only
      rw [State.statusAll_eq]
      rfl
    rw [heq]
    exact ⟨hr.down.now, hr.down.trk, hr.down.toKeeps.bit (State.raise_bit _ .stall), hr.dropped, hr.holders,
      fun h1 h2 => State.recover_endCycleMode_judged h1 h2⟩
  · refine congrArg Host.Outcome.next ?_
    show s.stallExpires = _
    unfold State.stallExpires
    rw [h]

end Sys2Proof.Machine

/-! # The channels, the arbiters and the arming unit leave the latch and the low words alone

`Plays` for each operation, in the order of Machine/Channels.lean, Machine/Arbiter.lean and Machine/Arming.lean. -/

namespace Sys2Proof.Machine

variable {s u : State}

theorem Plays.setMode (h : Plays s u) (bk : BankId) (m : BankMode) : Plays s (u.setMode bk m) :=
  (h.setBank _ _).statusAll (bankModeWords_high _ _)

theorem Plays.headCheck (h : Plays s u) (bk : BankId) : Plays s (u.headCheck bk) := by
  unfold State.headCheck
  dsimp only
  split
  · exact h.setBank _ _
  · exact h

theorem Plays.release (h : Plays s u) (bk : BankId) : Plays s (u.release bk) := (h.setBank _ _).setMode _ _

theorem Plays.clearFaults (h : Plays s u) (k : CylId) : Plays s (u.clearFaults k) :=
  (h.setCyl k (x := { u.cyl k with faults := 0 }) rfl rfl).statusAll (faultWords_high _ _)

theorem Plays.quarantine (h : Plays s u) (k : CylId) : Plays s (u.quarantine k) :=
  (((h.setCyl k (x := { u.cyl k with quarantined := true }) rfl rfl).statusAll (cylStateWords_high _ _)).raise _).withdraw _ _

theorem Plays.quarantineTest (h : Plays s u) (k : CylId) : Plays s (u.quarantineTest k) := by
  unfold State.quarantineTest
  split
  · exact h.quarantine k
  · exact h

theorem Plays.countFault (h : Plays s u) (k : CylId) : Plays s (u.countFault k) :=
  (((h.setCyl k
    (x := { u.cyl k with faults := (u.cyl k).faults + 1, faultTotal := satCount (u.cyl k).faultTotal }) rfl rfl).statusAll
      ((faultWords_high _ _).append (faultTotalWords_high _ _))).raise _).quarantineTest _

theorem Plays.countEnd (h : Plays s u) (k : CylId) (o : PulseOutcome) : Plays s (u.countEnd k o) := by
  unfold State.countEnd
  split
  · exact h.countFault k
  · exact h.clearFaults k

theorem Plays.dropCapped (h : Plays s u) (k : CylId) (e : Event) : Plays s (u.dropCapped k e) :=
  (h.withdraw _ _).conflicts _ _

theorem Plays.capCheck (h : Plays s u) (k : CylId) (seq : Word) (o : PulseOutcome) :
    Plays s (u.capCheck k seq o) := by
  unfold State.capCheck
  split
  · split
    · exact h.dropCapped _ _
    · exact h
  · exact h

theorem Plays.endInEvent (h : Plays s u) (k : CylId) (seq : Word) (index : Nat) (c : PulseCond) (r : PulseResult) :
    Plays s (u.endInEvent k seq index c r) := (h.modPulse _ _ _ _).modEvent _ _ _

theorem Plays.serviceDone (h : Plays s u) (r : PulseResult) : Plays s (u.serviceDone r) :=
  ((h.setSb _).statusAll (serviceEndWords_high _)).raise _

theorem Plays.serviceResult (h : Plays s u) (p : Player) : Plays s (u.serviceResult p) := by
  unfold State.serviceResult
  split
  · exact h.serviceDone _
  · exact h

theorem Plays.freeBank (h : Plays s u) (bk : BankId) : Plays s (u.freeBank bk) := (h.setBank _ _).release _

theorem Plays.quenchOver (h : Plays s u) (bk : BankId) : Plays s (u.quenchOver bk) := by
  unfold State.quenchOver
  split
  · exact h
  · split
    · exact ((h.serviceResult _).freeBank _).headCheck _
    · exact ((h.freeBank _).modPulse _ _ _ _).headCheck _

theorem Plays.judge (h : Plays s u) (p : Player) : Plays s (u.judge p) := by
  unfold State.judge
  split
  · exact h.settle _
  · exact h

theorem Plays.quenchStanding (h : Plays s u) (bk : BankId) (level : Nat) :
    Plays s (u.quenchStanding bk level) := by
  unfold State.quenchStanding
  split
  · exact h.quenchOver _
  · exact h

theorem Plays.startQuench (h : Plays s u) (bk : BankId) : Plays s (u.startQuench bk) := by
  unfold State.startQuench
  split
  · exact h
  · exact (h.setBank _ _).quenchStanding _ _

theorem Plays.reportEnd (h : Plays s u) (p : Player) (r : PulseResult) : Plays s (u.reportEnd p r) := by
  unfold State.reportEnd
  split
  · exact h.endInEvent _ _ _ _ _
  · exact h

theorem Plays.fixEnd (h : Plays s u) (bk : BankId) (p : Player) (o : PulseOutcome) :
    Plays s (u.fixEnd bk p o) := ((h.setBank _ _).setMode _ _).reportEnd _ _

theorem Plays.capPlayed (h : Plays s u) (p : Player) (o : PulseOutcome) : Plays s (u.capPlayed p o) := by
  unfold State.capPlayed
  split
  · exact h.capCheck _ _ _
  · exact h

theorem Plays.stopPlayed (h : Plays s u) (bk : BankId) (o : PulseOutcome) :
    Plays s (u.stopPlayed bk o) := by
  unfold State.stopPlayed
  split
  · exact h
  · split
    · exact h
    · exact (((h.fixEnd _ _ _).countEnd _ _).capPlayed _ _).startQuench _

theorem Plays.endPlayed (h : Plays s u) (bk : BankId) (o : PulseOutcome) : Plays s (u.endPlayed bk o) := by
  unfold State.endPlayed
  split
  · exact h
  · dsimp only
    split
    · exact (h.stopPlayed _ _).judge _
    · exact h.stopPlayed _ _

theorem Plays.stopDry (h : Plays s u) (bk : BankId) (x : Holder) (o : PulseOutcome) :
    Plays s (u.stopDry bk x o) := by
  unfold State.stopDry
  split
  · exact h
  · exact ((((h.setBank _ _).endInEvent _ _ _ _ _).capCheck _ _ _).release _).headCheck _

theorem Plays.endDry (h : Plays s u) (bk : BankId) (x : Holder) (o : PulseOutcome) :
    Plays s (u.endDry bk x o) := by
  unfold State.endDry
  split
  · exact h
  · exact (h.stopDry _ _ _).settle _

theorem Plays.endHolder (h : Plays s u) (bk : BankId) (o : PulseOutcome) : Plays s (u.endHolder bk o) := by
  unfold State.endHolder
  split
  · exact h
  · split
    · split
      · exact h.endDry _ _ _
      · exact h.endPlayed _ _
    · exact h

theorem Plays.countLow (h : Plays s u) (bk : BankId) : Plays s (u.countLow bk) :=
  (h.setBank _ _).statusAll (boostLowWords_high _ _)

theorem Plays.countBoostLow (bk : BankId) (n : Nat) : ∀ {u : State}, Plays s u →
    Plays s (u.countBoostLow bk n) := by
  induction n with
  | zero => exact fun h => h
  | succ n ih => exact fun h => ih (h.countLow bk)

theorem Plays.comeToRest (h : Plays s u) (bk : BankId) (p : Player) (stop : PlayStop) :
    Plays s (u.comeToRest bk p stop) := by
  unfold State.comeToRest
  split
  · exact (h.setBank _ _).endPlayed _ _
  · exact h.setBank _ _

theorem Plays.enterPhase (h : Plays s u) (bk : BankId) (k : Nat) : Plays s (u.enterPhase bk k) := by
  unfold State.enterPhase
  split
  · exact h
  · exact ((h.setFreeCount _).countBoostLow _ _).comeToRest _ _ _

theorem Plays.engage (h : Plays s u) (bk : BankId) (job : Job) (k : CylId) (profile duration : Nat) :
    Plays s (u.engage bk job k profile duration) := by
  unfold State.engage
  split
  · exact h
  · exact (h.setBank _ _).enterPhase _ _

theorem Plays.makeHolder (h : Plays s u) (bk : BankId) (r : Request) : Plays s (u.makeHolder bk r) :=
  ((h.setBank _ _).setMode _ _).modPulse _ _ _ _

theorem Plays.drivePulse (h : Plays s u) (bk : BankId) (r : Request) : Plays s (u.drivePulse bk r) := by
  unfold State.drivePulse
  split
  · exact h
  · exact h.engage _ _ _ _ _

theorem Plays.grant (h : Plays s u) (bk : BankId) (r : Request) : Plays s (u.grant bk r) :=
  (h.makeHolder _ _).drivePulse _ _

theorem Plays.grantCheck (h : Plays s u) (bk : BankId) : Plays s (u.grantCheck bk) := by
  unfold State.grantCheck
  dsimp only
  split
  · exact h
  · split
    · exact h.setBank _ _
    · split
      · exact (h.setBank _ _).grant _ _
      · exact h.setBank _ _

theorem Plays.slipDrop (h : Plays s u) (bk : BankId) (r : Request) (crowded : Bool) (t : Time) :
    Plays s (u.slipDrop bk r crowded t) := ((h.modPulse _ _ _ _).conflict _).settle _

theorem Plays.enterList (h : Plays s u) (bk : BankId) (r : Request) : Plays s (u.enterList bk r) :=
  (h.setBank _ _).modPulse _ _ _ _

theorem Plays.crowd (h : Plays s u) (bk : BankId) : Plays s (u.crowd bk) := by
  unfold State.crowd
  split
  · exact (h.setBank _ _).slipDrop _ _ _ _
  · exact h

theorem Plays.join (h : Plays s u) (bk : BankId) (r : Request) : Plays s (u.join bk r) :=
  ((h.enterList _ _).crowd _).grantCheck _

theorem Plays.request (h : Plays s u) (bk : BankId) (r : Request) : Plays s (u.request bk r) := by
  unfold State.request
  split
  · exact ((h.endHolder _ _).conflict _).join _ _
  · split
    · exact h.grant _ _
    · exact h.join _ _

theorem Plays.resolveHeld (h : Plays s u) (k : CylId) (seq : Word) (index : Nat) (o : PulseOutcome) :
    Plays s (u.resolveHeld k seq index o) := h.modPulse _ _ _ _

theorem Plays.present (h : Plays s u) (a : ArmedEntry) : Plays s (u.present a) := by
  unfold State.present
  split
  · split
    · split
      · exact h.request _ _
      · exact h
    · exact h
  · exact h

theorem Plays.markLate (h : Plays s u) (a : ArmedEntry) : Plays s (u.markLate a) := h.modPulse _ _ _ _

theorem Plays.unlist (h : Plays s u) (e : ArmEntry) : Plays s (u.unlist e) := h.setArm _

theorem Plays.armPulse (h : Plays s u) (e : ArmEntry) (start : Time) : Plays s (u.armPulse e start) :=
  (h.setArm _).modPulse _ _ _ _

theorem Plays.lateAt {acc : State × List ArmedEntry} (h : Plays s acc.1) (v : EdgeView) (a : ArmedEntry) :
    Plays s (State.lateAt v a acc).1 := by
  unfold State.lateAt
  split
  · exact h.markLate _
  · exact (((h.markLate _).resolveHeld _ _ _ _).conflict _).settle _

theorem Plays.reread (h : Plays s u) (k : CylId) (seq : Word) : Plays s (u.reread k seq) := by
  unfold State.reread
  split
  · split
    · exact h.turn
    · exact h
  · exact h

theorem Plays.armRead {acc : State × List ArmedEntry} (h : Plays s acc.1) (x : Setup) (v : EdgeView) (e : ArmEntry) :
    Plays s (State.armRead x v e acc).1 := by
  unfold State.armRead
  split
  · exact (h.resolveHeld _ _ _ _).settle _
  · split
    · exact h.armPulse _ _
    · exact h.lateAt _ _

theorem Plays.armNow {acc : State × List ArmedEntry} (h : Plays s acc.1) (x : Setup) (v : EdgeView) (e : ArmEntry) :
    Plays s (State.armNow x v e acc).1 := Plays.armRead (acc := (_, _)) (h.reread _ _) _ _ _

theorem Plays.armStep {acc : State × List ArmedEntry} (h : Plays s acc.1) (x : Setup) (v : EdgeView) (e : ArmEntry) :
    Plays s (State.armStep x v acc e).1 := by
  unfold State.armStep
  split
  · exact Plays.armNow (acc := (_, _)) (h.unlist _) _ _ _
  · exact h

theorem Plays.armFold (x : Setup) (v : EdgeView) (l : List ArmEntry) : ∀ {acc : State × List ArmedEntry},
    Plays s acc.1 → Plays s (l.foldl (State.armStep x v) acc).1 := by
  induction l with
  | nil => exact fun h => h
  | cons e rest ih => exact fun h => ih (h.armStep x v e)

theorem Plays.presentLate {acc : State × List ArmedEntry} (h : Plays s acc.1) :
    Plays s (State.presentLate acc) := Plays.foldl (fun _ a g => g.present a) _ h

theorem Plays.armAll (h : Plays s u) (x : Setup) (v : EdgeView) : Plays s (u.armAll x v) :=
  (Plays.armFold x v _ (acc := (u, [])) h).presentLate

theorem Plays.truncateService (h : Plays s u) (bk : BankId) : Plays s (u.truncateService bk) := by
  unfold State.truncateService
  split
  · exact h.endHolder _ _
  · exact h

theorem Plays.truncateServices (h : Plays s u) : Plays s u.truncateServices :=
  Plays.foldl (fun _ bk g => g.truncateService bk) _ h

end Sys2Proof.Machine

/-! # Crank edges: noise, and what an accepted edge comes to -/

namespace Sys2Proof.Machine

/-! ## Words of an edge -/

theorem lowWord_ofNat (n : Nat) : lowWord (BitVec.ofNat 32 n) = BitVec.ofNat 16 n := by
  refine BitVec.eq_of_toNat_eq ?_
  simp only [lowWord, BitVec.extractLsb'_toNat, BitVec.toNat_ofNat, Nat.shiftRight_zero]
  omega

theorem highWord_ofNat (n : Nat) : highWord (BitVec.ofNat 32 n) = BitVec.ofNat 16 (n / 65536) := by
  refine BitVec.eq_of_toNat_eq ?_
  simp only [highWord, BitVec.extractLsb'_toNat, BitVec.toNat_ofNat, Nat.shiftRight_eq_div_pow]
  omega

/-- The words of an edge with an angle, in their order (R21). -/
theorem edgeWords_known {x : Tracker} {t : Time} (h : x.sync = .crankSync ∨ x.sync = .phased) (ht : x.lastTime = some t) :
    edgeWords x = [(0x190, t.extractLsb' 0 16), (0x192, t.extractLsb' 16 16), (0x18C, BitVec.ofNat 16 x.lastAngle),
      (0x188, BitVec.ofNat 16 (x.tLast.getD 0)), (0x18A, BitVec.ofNat 16 (x.tLast.getD 0 / 65536)),
      (0x186, if x.sync = .phased then 4 else 3), (0x184, x.cycle)] := by
  have hsync : lowByte x.sync.code = if x.sync = .phased then 4 else 3 := by
    rcases h with h | h <;> rw [h] <;> rfl
  unfold edgeWords
  rw [if_pos (x.angleKnown_iff.2 h)]
  simp only [edgeTimeWords, edgeAngleWords, tLastWords, syncWords, cycleWords, tLastTicks, lowWord_ofNat, highWord_ofNat, ht,
    hsync]
  rfl

/-- The words of an edge without an angle. -/
theorem edgeWords_unknown {x : Tracker} (h : ¬ (x.sync = .crankSync ∨ x.sync = .phased)) :
    edgeWords x = [(0x186, lowByte x.sync.code), (0x188, BitVec.ofNat 16 (x.tLast.getD 0)),
      (0x18A, BitVec.ofNat 16 (x.tLast.getD 0 / 65536))] := by
  unfold edgeWords
  rw [if_neg fun hk => h (x.angleKnown_iff.1 hk)]
  simp only [tLastWords, syncWords, tLastTicks, lowWord_ofNat, highWord_ofNat]
  rfl

/-! ## The edge event -/

/-- The state an edge event leaves before any pulse is touched: the edge's words shown, and an edge at which firing is not
possible makes the next one re-acquiring (R21, R24). -/
def State.edgeShown (w : State) : State :=
  { w with
    trk := { w.trk with reacquire := w.trk.reacquire || !w.trk.canFire }
    mem := w.mem.mirror w.sb.live (edgeWords w.trk) }

/-- Only a bank that the service pulse holds and drives is truncated (R124). -/
theorem State.truncateServices_of_notActive {s : State}
    (h : ∀ bk, (s.bank bk).heldByService = true → (s.bank bk).mode ≠ .active) : s.truncateServices = s := by
  have hb : ∀ bk, s.truncateService bk = s := fun bk => by
    unfold State.truncateService State.endHolder
    split
    · rename_i hh
      split
      · rfl
      · exact if_neg (h bk hh)
    · rfl
  simp only [State.truncateServices, BankId.all, List.foldl, hb]

/-- The view of the latch and of the arming unit is the one the edge leaves, where angles are known (R12, R21). -/
theorem State.edgeView_of_down {u : Setup} {r : Bool} {z y : State} (h : Downstream z y)
    (hs : z.trk.sync = .crankSync ∨ z.trk.sync = .phased) : y.edgeView u r = z.viewAt u r := by
  unfold State.edgeView State.viewAt
  rw [h.now, h.trk, u.distance_of_known hs]

/-- What the edge event does (R21, R24, R124). -/
theorem State.edgeEvent_served (u : Setup) (r : Bool) (w : State) :
    State.edgeServed u w.trk.canFire r w.edgeShown (w.edgeEvent u r) := by
  have hdown := State.truncateServices_down (w.statusAll (edgeWords w.trk))
  have htrk : (w.statusAll (edgeWords w.trk)).truncateServices.trk = w.trk := by
    rw [hdown.trk, State.statusAll_eq]
    rfl
  have hshown : w.trk.canFire = true → w.edgeShown = w.statusAll (edgeWords w.trk) := fun hf => by
    rw [State.statusAll_eq, State.edgeShown, hf, Bool.not_true, Bool.or_false]
    rfl
  refine ⟨fun hf => ?_, fun hb => ⟨State.truncateServices_of_notActive hb, fun hf => ?_⟩⟩
  · have hs : w.edgeShown.trk.sync = .crankSync ∨ w.edgeShown.trk.sync = .phased := by
      have hf' := hf
      unfold Tracker.canFire at hf'
      rw [Bool.or_eq_true, Bool.and_eq_true, beq_iff_eq, beq_iff_eq] at hf'
      exact hf'.elim .inr fun h => .inl h.1
    have hdown' := hdown
    rw [← hshown hf] at hdown' htrk
    unfold State.edgeEvent State.fireEdge
    rw [← hshown hf, htrk, if_pos hf, State.edgeView_of_down hdown' hs]
  · have hid : (w.statusAll (edgeWords w.trk)).truncateServices = w.statusAll (edgeWords w.trk) :=
      State.truncateServices_of_notActive fun bk => by
        rw [State.statusAll_eq]
        exact hb bk
    unfold State.edgeEvent State.fireEdge
    rw [hid, State.statusAll_eq]
    show (if w.trk.canFire = true then _ else _) = _
    rw [hf, if_neg (by simp), State.edgeShown, hf, Bool.not_false, Bool.or_true]
    rfl

/-- The edge event where firing is not possible (R21, R24). -/
theorem State.edgeEvent_of_quiet (u : Setup) (r : Bool) {w : State} (hf : w.trk.canFire = false) : w.edgeEvent u r =
    { (w.setMem (w.mem.mirror w.sb.live (edgeWords w.trk))).truncateServices with
      trk := { w.trk with reacquire := true } } := by
  have htrk := (State.truncateServices_down (w.setMem (w.mem.mirror w.sb.live (edgeWords w.trk)))).trk
  unfold State.edgeEvent State.fireEdge
  rw [State.statusAll_eq, htrk]
  refine (if_neg (by simp [hf])).trans ?_
  rw [State.modTrk, htrk]
  rfl

/-- The edge event leaves the tracker so, and keeps the setup unit, the tick count and every raised flag. -/
theorem State.edgeEvent_trk (u : Setup) (r : Bool) (w : State) :
    (w.edgeEvent u r).trk = w.edgeShown.trk ∧ (w.edgeEvent u r).su = w.su ∧ (w.edgeEvent u r).now = w.now
      ∧ w.ev.sticky &&& (w.edgeEvent u r).ev.sticky = w.ev.sticky := by
  unfold State.edgeShown
  cases hf : w.trk.canFire
  · rw [Bool.not_false, Bool.or_true]
    exact w.edgeEvent_quiet u r hf
  · rw [Bool.not_true, Bool.or_false]
    exact w.edgeEvent_fires u r hf

/-- In READY, with nothing pending and no service pulse, the edge event only shows the edge (R24, R66). -/
theorem State.edgeEvent_ready (u : Setup) (r : Bool) {w : State} (hr : w.ctl.run = .ready) (hp : w.arm.pendingList = [])
    (hn : w.noService) : w.edgeEvent u r = w.edgeShown := by
  obtain ⟨hfire, hquiet⟩ := w.edgeEvent_served u r
  have hnone : w.edgeShown.noService := hn
  obtain ⟨hid, hsame⟩ := hquiet fun bk hb => absurd hb (by simp [hnone bk])
  cases hf : w.trk.canFire
  · exact hsame hf
  · rw [hfire hf, hid]
    have hlatch : w.edgeShown.ctl.latches = false := by
      show w.ctl.latches = false
      simp [Control.latches, hr]
    have hpend : w.edgeShown.arm.pendingList = [] := hp
    unfold State.latchAll
    rw [hlatch, if_neg (by simp)]
    unfold State.armAll
    rw [hpend]
    rfl

/-! ## Judgement -/

theorem Tracker.gapLike_iff {u : Setup} {x : Tracker} {i : Nat} :
    x.gapLike u i = true ↔ ∃ y, x.tLast = some y ∧ u.gapRatio * y ≤ 16 * i := by
  unfold Tracker.gapLike
  cases x.tLast <;> simp [Nat.mul_comm]

/-- The judgement of an edge in CRANK_SYNC or PHASED (R9, R10). -/
theorem Tracker.judge_known {u : Setup} {x : Tracker} (h : x.sync = .crankSync ∨ x.sync = .phased) (gap : Bool) :
    x.judge u gap = if gap = decide (x.tooth = u.lastTooth) then
      .pass (if gap then 0 else x.tooth + 1) gap else .lost gap := by
  have hj : x.judge u gap = if x.tooth = u.lastTooth then (if gap then .pass 0 true else .lost false)
      else (if gap then .lost true else .pass (x.tooth + 1) false) := by
    rcases h with h | h <;> simp [Tracker.judge, h]
  rw [hj]
  by_cases hl : x.tooth = u.lastTooth
  · cases gap <;> simp [hl]
  · cases gap <;> simp [hl]

/-! ## Noise -/

/-- What R4 and R188 call noise: a tracker with an expected interval, and an interval that is too short for it, or 0. -/
theorem Tracker.isNoise_iff {u : Setup} {x : Tracker} {i : Nat} :
    x.isNoise u i = true ↔ ∃ y, (4 * i < y ∨ i = 0) ∧ ((x.sync = .gapSearch ∧ x.lastInterval = some y)
      ∨ ((x.sync = .gapCheck ∨ x.sync = .crankSync ∨ x.sync = .phased)
        ∧ y = x.tPred * (if x.tooth = u.n - u.m - 1 then u.m + 1 else 1))) := by
  unfold Tracker.isNoise Tracker.expected
  have hl : u.lastTooth = u.n - u.m - 1 := rfl
  cases hs : x.sync
  case noSignal => simp
  case gapSearch => cases x.lastInterval <;> simp
  all_goals simp [hl]

theorem Tracker.isNoise_noSignal {u : Setup} {x : Tracker} {i : Nat} (h : x.sync = .noSignal) : x.isNoise u i = false := by
  simp [Tracker.isNoise, Tracker.expected, h]

/-- The first crank edge taken, in NO_SIGNAL or without an edge before it (R3, R6). -/
theorem State.crankArrives_first {u : Setup} {s : State} (hu : s.su.setup = some u) (hr : s.ctl.run.tracks = true)
    (h : s.trk.sync = .noSignal ∨ s.trk.interval s.now = none) : s.crankArrives u.crankEdge = s.startTracking u := by
  simp only [State.crankArrives, hu, hr, Bool.true_and, beq_self_eq_true, if_true, State.crankTaken]
  split
  · rfl
  · rename_i hs
    rw [h.resolve_left hs]

/-- A crank edge with an interval: rejected as noise, or accepted (R3, R4). -/
theorem State.crankArrives_interval {u : Setup} {s : State} {i : Nat} (hu : s.su.setup = some u)
    (hr : s.ctl.run.tracks = true) (hs : s.trk.sync ≠ .noSignal) (hi : s.trk.interval s.now = some i) :
    s.crankArrives u.crankEdge = if s.trk.isNoise u i then s.rejectEdge else s.acceptEdge u i := by
  simp only [State.crankArrives, hu, hr, Bool.true_and, beq_self_eq_true, if_true, State.crankTaken, if_neg hs, hi]

/-- A rejected edge counts one and shows it (R4). -/
theorem State.rejectEdge_eq (s : State) : s.rejectEdge =
    { s with
      trk := { s.trk with noiseEdges := satCount s.trk.noiseEdges }
      mem := s.mem.mirror s.sb.live [(0x1A0, satCount s.trk.noiseEdges)] } := by
  unfold State.rejectEdge
  rw [State.status_eq]
  rfl

/-! ### The transitions keep the time of the edge -/

theorem State.copyTrim_trk (s : State) : s.copyTrim.trk = s.trk := by
  have hf : s.fetchTrim.2.trk = s.trk := ((Downstream.refl s).fetchTrim).trk
  unfold State.copyTrim State.useTrim
  split
  · rw [((Downstream.refl _).limitHolds).trk, State.putTrim, State.statusAll_eq]
    exact hf
  · rw [((Downstream.refl _).limitHolds).trk]
    exact hf

theorem State.checkMissing_lastTime (u : Setup) (s : State) : (s.checkMissing u).trk.lastTime = s.trk.lastTime := by
  unfold State.checkMissing
  split
  · by_cases h : s.trk.errorRun < 2
    · rw [State.markerError_eq u h]
    · rw [State.markerError_third u (Nat.le_of_not_lt h), (State.losePhase_lost u _).trk]
      rfl
  · rfl

theorem State.syncedEdge_lastTime (u : Setup) (tooth : Nat) (zero : Bool) (s : State) :
    (s.syncedEdge u tooth zero).trk.lastTime = s.trk.lastTime := by
  unfold State.syncedEdge
  split
  · unfold State.cycleBoundary
    rw [((Downstream.refl _).endCycleMode).trk, State.copyTrim_trk]
    exact (State.checkMissing_lastTime u _).trans rfl
  · rfl

/-- The tracker that has lost crank sync (R10). -/
def Tracker.syncLost (gap : Bool) (x : Tracker) : Tracker :=
  { x with
    sync := if gap then .gapCheck else .gapSearch
    tooth := if gap then 0 else x.tooth
    phaseAssumed := false, errorRun := 0, markerSeen := false
    syncLosses := satCount x.syncLosses }

/-- A loss of crank sync up to its drops: the tracker, SYNC_LOSSES before SYNC_STATE, and SYNC_LOST (R10). -/
def State.syncDropped (gap : Bool) (s : State) : State :=
  ((s.setTrk (s.trk.syncLost gap)).setMem (s.mem.mirror s.sb.live
    [(0x1A4, satCount s.trk.syncLosses), (0x186, if gap then 2 else 1)])).raise .syncLost

theorem State.loseSync_eq (gap : Bool) (s : State) : s.loseSync gap = (s.syncDropped gap).recover.endCycleMode := by
  unfold State.loseSync
  dsimp only
  rw [State.statusAll_eq]
  cases gap <;> rfl

/-- The drops of a loss of crank sync, and the end of mode CYCLE (R10, R23, R134). -/
theorem State.loseSync_recovered (gap : Bool) (s : State) : Recovered (s.syncDropped gap) (s.loseSync gap) := by
  rw [State.loseSync_eq]
  exact (State.recover_recovered _).endCycleMode

theorem State.assumeAtEntry_lastTime (u : Setup) (s : State) : (s.assumeAtEntry u).trk.lastTime = s.trk.lastTime := by
  unfold State.assumeAtEntry
  rw [State.assumePhase_eq]
  split
  · rw [State.statusAll_eq]
    rfl
  · rfl

theorem State.trackEdge_lastTime (u : Setup) (j : Judgement) (s : State) : (s.trackEdge u j).trk.lastTime = s.trk.lastTime := by
  cases j with
  | search => rfl
  | candidate => rfl
  | confirmed => exact (State.assumeAtEntry_lastTime u _).trans rfl
  | pass tooth zero =>
    unfold State.trackEdge
    dsimp only
    split
    · exact State.syncedEdge_lastTime u tooth zero s
    · rfl
  | lost gap =>
    show (s.loseSync gap).trk.lastTime = _
    rw [(State.loseSync_recovered gap s).down.trk]
    rfl

theorem State.acceptEdge_lastTime (u : Setup) (i : Nat) (s : State) : (s.acceptEdge u i).trk.lastTime = some s.now := by
  have h := (State.edgeEvent_trk u s.trk.reacquire ((((s.setTrk
    { s.trk.measure u (s.trk.judge u (s.trk.gapLike u i)) i s.now with reacquire := false }).trackEdge u
      (s.trk.judge u (s.trk.gapLike u i))).decideEdge))).1
  unfold State.acceptEdge State.judgedEdge
  rw [h]
  exact (State.trackEdge_lastTime u _ _).trans rfl

theorem State.startTracking_lastTime (u : Setup) (s : State) : (s.startTracking u).trk.lastTime = some s.now := by
  unfold State.startTracking
  rw [(State.edgeEvent_trk u false _).1]
  rfl

/-- Settles O16. -/
theorem noiseEdge : Obligations.NoiseEdge := by
  intro u s t sense noise hu hr hnoise
  have hexec : exec (.crankEdge u.crankEdge t sense []) s = .next (((s.at t).seeAll sense).crankArrives u.crankEdge) := rfl
  rw [hexec]
  have hiff : noise ↔ ∃ i, s.trk.interval t = some i ∧ s.trk.isNoise u i = true := by
    simp only [hnoise, Tracker.isNoise_iff, Tracker.interval, Option.map_eq_some_iff]
    constructor
    · rintro ⟨l, x, i, hl, hi, hx⟩
      exact ⟨i, ⟨l, hl, hi.symm⟩, x, hx⟩
    · rintro ⟨i, ⟨l, hl, hi⟩, x, hx⟩
      exact ⟨l, x, i, hl, hi.symm, hx⟩
  refine ⟨fun hn => ?_, fun hn => ⟨_, rfl, ?_⟩⟩
  · obtain ⟨i, hi, hni⟩ := hiff.1 hn
    have hs : s.trk.sync ≠ .noSignal := fun h => by simp [Tracker.isNoise_noSignal h] at hni
    refine ⟨_, ?_, s.mem.shown_of s.sb.live (l := [(0x1A0, satCount s.trk.noiseEdges)]) (by simp) (by simp [memBytes])⟩
    rw [State.crankArrives_interval (s := (s.at t).seeAll sense) hu hr hs hi, State.rejectEdge_eq]
    exact congrArg Host.Outcome.next (if_pos hni)
  · by_cases hfirst : s.trk.sync = .noSignal ∨ s.trk.interval t = none
    · rw [State.crankArrives_first (s := (s.at t).seeAll sense) hu hr hfirst]
      exact State.startTracking_lastTime u _
    · obtain ⟨hs, hi⟩ := not_or.1 hfirst
      obtain ⟨i, hi⟩ := Option.ne_none_iff_exists'.1 hi
      have hni : ¬ ((s.at t).seeAll sense).trk.isNoise u i = true := fun hni => hn (hiff.2 ⟨i, hi, hni⟩)
      rw [State.crankArrives_interval (s := (s.at t).seeAll sense) hu hr hs hi, if_neg hni]
      exact State.acceptEdge_lastTime u i _

end Sys2Proof.Machine

/-! # Accepted edges: the expected gap passed, the gap found -/

namespace Sys2Proof.Machine

/-- The state an edge is judged in: the operands taken, and the interval measured (R3). -/
def State.edgeMeasured (u : Setup) (j : Judgement) (i : Nat) (t : Time) (sense : Four BankSense) (s : State) : State :=
  ((s.at t).seeAll sense).setTrk { s.trk.measure u j i t with reacquire := false }

/-- The tracker's transitions and the decisions of an edge, up to its edge event. -/
def State.edgeJudged (u : Setup) (j : Judgement) (i : Nat) (t : Time) (sense : Four BankSense) (s : State) : State :=
  ((s.edgeMeasured u j i t sense).trackEdge u j).decideEdge

/-- An accepted edge is its judged state and then the edge event (R21). -/
theorem EdgeTaken.exec_eq {u : Setup} {s : State} {t : Time} {i : Nat} (h : EdgeTaken u s u.crankEdge t i)
    (sense : Four BankSense) {j : Judgement} (hj : s.trk.judge u (s.trk.gapLike u i) = j) :
    exec (.crankEdge u.crankEdge t sense []) s = .next ((s.edgeJudged u j i t sense).edgeEvent u s.trk.reacquire) := by
  subst hj
  exact congrArg Host.Outcome.next (State.crankArrives_taken sense h)

/-- The interval of an edge in CRANK_SYNC or PHASED is gap-like as stated. -/
theorem Tracker.gapLike_of_tLast {u : Setup} {x : Tracker} {i y : Nat} (h : x.tLast = some y) :
    x.gapLike u i = decide (u.gapRatio * y ≤ 16 * i) := by
  unfold Tracker.gapLike
  rw [h, Nat.mul_comm 16 i]

/-- The judgement of an edge with the expected gap (R9). -/
theorem Tracker.judge_pass {u : Setup} {x : Tracker} {i y : Nat} (h : x.sync = .crankSync ∨ x.sync = .phased)
    (hy : x.tLast = some y) (hgap : u.gapRatio * y ≤ 16 * i ↔ x.tooth = u.n - u.m - 1) {zero : Bool} {k : Nat}
    (hz : zero = decide (x.tooth = u.n - u.m - 1)) (hk : k = if zero then 0 else x.tooth + 1) :
    x.judge u (x.gapLike u i) = .pass k zero := by
  have hg : x.gapLike u i = zero := by
    rw [Tracker.gapLike_of_tLast hy, hz, decide_eq_decide]
    exact hgap
  rw [Tracker.judge_known h, hg, hk]
  exact if_pos hz

/-! ## An edge that is no cycle boundary -/

/-- An edge with the expected gap that is no cycle boundary moves the tooth index, the revolution bit and the angle alone. -/
theorem State.trackEdge_within {u : Setup} {s : State} {k : Nat} {zero : Bool}
    (hs : s.trk.sync = .crankSync ∨ s.trk.sync = .phased)
    (hb : s.trk.lastAngle ≤ (s.trk.advance u k zero).lastAngle ∨ (s.trk.sync = .crankSync ∧ s.trk.phaseAssumed = false)) :
    s.trackEdge u (.pass k zero) = s.modTrk (Tracker.advance u k zero) := by
  have hbound : s.trk.atBoundary u k zero = false := by
    unfold Tracker.atBoundary Tracker.canFire
    rcases hb with hb | ⟨hb1, hb2⟩
    · simp [hb]
    · simp [hb1, hb2]
  unfold State.trackEdge State.syncedEdge
  dsimp only
  rw [if_pos (s.trk.angleKnown_iff.2 hs), hbound]
  rfl

/-- Firing is possible in PHASED, and in CRANK_SYNC under the assumption (R21). -/
theorem Tracker.canFire_known {x : Tracker} (h : x.sync = .crankSync ∨ x.sync = .phased) :
    x.canFire = (x.sync == .phased || x.phaseAssumed) := by
  unfold Tracker.canFire
  rcases h with h | h <;> simp [h]

/-- The state an edge judges that passes its check and is no cycle boundary (R3, R9, R12, R19, R22). -/
theorem State.edgeJudged_within {u : Setup} {s : State} {k : Nat} {zero r : Bool} (i : Nat) (t : Time) (sense : Four BankSense)
    (hs : s.trk.sync = .crankSync ∨ s.trk.sync = .phased) (hr : r = if zero then !s.trk.rev else s.trk.rev)
    (hb : s.trk.lastAngle ≤ u.angle r k ∨ (s.trk.sync = .crankSync ∧ s.trk.phaseAssumed = false)) :
    s.edgeJudged u (.pass k zero) i t sense =
      { s with
        now := t
        pins := { s.pins with sense := sense }
        trk := { (s.trk.measured u s.su.trim (if zero then u.m + 1 else 1) false i t) with
          tooth := k, rev := r, lastAngle := u.angle r k, reacquire := false } } := by
  subst hr
  unfold State.edgeJudged
  rw [State.trackEdge_within (s := s.edgeMeasured u (.pass k zero) i t sense) hs hb]
  rfl

/-- The angle of an edge (R12). -/
theorem Setup.angle_eq (u : Setup) (r : Bool) (k : Nat) :
    u.angle r k = (u.wheelOffset + (if r then 11520 else 0) + k * (11520 / u.n)) % 23040 := by cases r <;> rfl

/-- Settles O17. -/
theorem passedEdge : Obligations.PassedEdge := by
  intro u s t sense i x h hs hx hgap zero k r a hz hk hr ha hb
  rw [← u.angle_eq] at ha
  subst ha
  have hw := s.edgeJudged_within i t sense hs hr hb
  obtain ⟨htrk, hsu, hnow, -⟩ := State.edgeEvent_trk u s.trk.reacquire (s.edgeJudged u (.pass k zero) i t sense)
  have hserved := State.edgeEvent_served u s.trk.reacquire (s.edgeJudged u (.pass k zero) i t sense)
  have hready := State.edgeEvent_ready u s.trk.reacquire (w := s.edgeJudged u (.pass k zero) i t sense)
  have hfire : (s.edgeJudged u (.pass k zero) i t sense).trk.canFire = (s.trk.sync == .phased || s.trk.phaseAssumed) := by
    rw [hw]
    exact Tracker.canFire_known hs
  refine ⟨_, (s.edgeJudged u (.pass k zero) i t sense).edgeShown, h.exec_eq sense (Tracker.judge_pass hs hx hgap hz hk), ?_, ?_,
    ?_, hfire ▸ hserved, htrk, ?_, ?_, fun hrun hpend hn => ?_⟩
  · rw [hw]
    rfl
  · rw [State.edgeShown, hfire, hw]
    rfl
  · have hwords : edgeWords (s.edgeJudged u (.pass k zero) i t sense).trk = _ :=
      edgeWords_known (t := t) (by rw [hw]; exact hs) (by rw [hw]; rfl)
    rw [State.edgeShown, hwords, hw]
    exact s.mem.shown_of s.sb.live (by simp) (by simp [memBytes])
  · rw [hnow, hw]
  · rw [hsu, hw]
  · rw [hw] at hready ⊢
    exact hready hrun hpend hn

/-! ## The search for the gap -/

/-- Words shown beforehand at offsets of the list do not tell. -/
theorem Memory.mirror_shown_after (live : Bool) {pre l : List (Nat × Word)} (m : Memory)
    (hpre : ∀ a ∈ pre.map Prod.fst, a ∈ l.map Prod.fst)
    (ha : (l.map Prod.fst).Pairwise (fun a b => a + 2 ≤ b ∨ b + 2 ≤ a)) (hr : ∀ a ∈ l.map Prod.fst, a + 1 < memBytes) :
    Memory.Shown live l m (m.mirror live (pre ++ l)) := by
  rw [← Memory.mirror_mirror]
  have hl := (m.mirror live pre).shown_of live ha hr
  unfold Memory.Shown at *
  cases live
  · exact hl
  · have hp := Memory.putAll_sameOutside pre m
    refine ⟨fun hm => ⟨(hl.1 (hp hm).1).1, fun a hout => ?_⟩, fun hm => hl.2 (hp hm).1⟩
    obtain ⟨hb, hbad⟩ := (hl.1 (hp hm).1).2 a hout
    obtain ⟨gb, gbad⟩ := (hp hm).2 a fun off ho => hout off (hpre off ho)
    exact ⟨hb.trans gb, hbad.trans gbad⟩

/-- What an edge makes of the sync state and the tooth index while the gap is searched for: a gap begins a candidate, a tooth of
GAP_CHECK before the last is counted, and any other edge goes back to GAP_SEARCH (R7, R8). -/
def Tracker.searched (gap last : Bool) (x : Tracker) : Tracker :=
  { x with
    sync := if gap then .gapCheck else if x.sync = .gapCheck ∧ last = false then .gapCheck else .gapSearch
    tooth := if gap then 0 else if x.sync = .gapCheck ∧ last = false then x.tooth + 1 else x.tooth }

/-- An edge whose transitions move the tracker alone. -/
theorem State.edgeJudged_moved {u : Setup} {s : State} {j : Judgement} {i : Nat} {t : Time} {sense : Four BankSense}
    (f : Tracker → Tracker) (h : (s.edgeMeasured u j i t sense).trackEdge u j = (s.edgeMeasured u j i t sense).modTrk f) :
    s.edgeJudged u j i t sense =
      { s with
        now := t
        pins := { s.pins with sense := sense }
        trk := (f { s.trk.measure u j i t with reacquire := false }).decideAtEdge s.su.trim } := by
  unfold State.edgeJudged
  rw [h]
  rfl

theorem State.trackEdge_search (u : Setup) (s : State) :
    s.trackEdge u .search = s.modTrk fun x => { x with sync := .gapSearch } := rfl
theorem State.trackEdge_candidate (u : Setup) (s : State) :
    s.trackEdge u .candidate = s.modTrk fun x => { x with sync := .gapCheck, tooth := 0 } := rfl
theorem State.trackEdge_counted (u : Setup) {s : State} (h : s.trk.angleKnown = false) (k : Nat) (zero : Bool) :
    s.trackEdge u (.pass k zero) = s.modTrk fun x => { x with tooth := k } := if_neg (by simp [h])

/-- The state such an edge is judged to. -/
theorem State.edgeJudged_searching (u : Setup) {s : State} {gap last : Bool} (i : Nat) (t : Time) (sense : Four BankSense)
    (hl : last = decide (s.trk.tooth = u.n - u.m - 1))
    (hs : s.trk.sync = .gapSearch ∨ (s.trk.sync = .gapCheck ∧ ¬ (gap = true ∧ last = true))) :
    s.edgeJudged u (s.trk.judge u gap) i t sense =
      { s with
        now := t
        pins := { s.pins with sense := sense }
        trk := { (s.trk.measured u s.su.trim (if gap then u.m + 1 else 1) gap i t).searched gap last with
          reacquire := false } } := by
  have hb : (s.trk.tooth == u.lastTooth) = last := hl.symm
  have hjudge : s.trk.judge u gap =
      if gap then .candidate else if s.trk.sync = .gapCheck ∧ last = false then .pass (s.trk.tooth + 1) false else .search := by
    rcases hs with hs | ⟨hs, hn⟩
    · simp [Tracker.judge, hs]
    · cases gap <;> cases last <;> simp [Tracker.judge, hs, hb] at hn ⊢
  rw [hjudge, Tracker.searched]
  cases gap
  · by_cases hc : s.trk.sync = .gapCheck ∧ last = false
    · have hunknown : ∀ j, (s.edgeMeasured u j i t sense).trk.angleKnown = false := fun _ => by
        show (s.trk.sync == .crankSync || s.trk.sync == .phased) = false
        rw [hc.1]
        rfl
      simp only [Bool.false_eq_true, if_false, if_pos hc, Tracker.measured]
      rw [State.edgeJudged_moved _ (State.trackEdge_counted u (hunknown _) _ _)]
      simp only [Tracker.measure, hc.1]
      rfl
    · simp only [Bool.false_eq_true, if_false, Tracker.measured, if_neg hc]
      rw [State.edgeJudged_moved _ (State.trackEdge_search u _)]
      rfl
  · simp only [if_true]
    rw [State.edgeJudged_moved _ (State.trackEdge_candidate u _)]
    rfl

/-- The gap confirmed: tooth 0 of revolution 0 in CRANK_SYNC, with the assumption where PHASE_ASSUME is set, and SYNC_STATE shown
before SYNC_GAINED (R8, R17). -/
theorem State.edgeJudged_confirmed (u : Setup) {s : State} (i : Nat) (t : Time) (sense : Four BankSense) :
    s.edgeJudged u .confirmed i t sense =
      { s with
        now := t
        pins := { s.pins with sense := sense }
        trk := { (s.trk.measured u s.su.trim (u.m + 1) false i t) with
          sync := .crankSync, tooth := 0, rev := false, lastAngle := u.wheelOffset % 23040
          phaseAssumed := u.phaseAssume || s.trk.phaseAssumed, reacquire := false }
        ev := { s.ev with sticky := if u.phaseAssume then s.ev.sticky ||| 0x0010 else s.ev.sticky }
        mem := s.mem.mirror s.sb.live (if u.phaseAssume then [(0x186, 3)] else []) } := by
  have hangle : u.angle false 0 = u.wheelOffset % 23040 := by simp [Setup.angle, cycleSteps]
  unfold State.edgeJudged State.trackEdge
  dsimp only
  unfold State.assumeAtEntry
  rw [State.assumePhase_eq, hangle]
  cases u.phaseAssume
  · simp only [Bool.false_eq_true, if_false, Memory.mirror_nil]
    rfl
  · simp only [if_true, State.statusAll_eq]
    rfl

/-- The edge event of an edge without an angle shows the edge alone, where no service pulse is in play (R21, R124). -/
theorem State.edgeEvent_unknown (u : Setup) (r : Bool) {w : State} (h : ¬ (w.trk.sync = .crankSync ∨ w.trk.sync = .phased))
    (hn : w.noService) : w.edgeEvent u r = { w with
      trk := { w.trk with reacquire := true }
      mem := w.mem.mirror w.sb.live [(0x186, lowByte w.trk.sync.code), (0x188, BitVec.ofNat 16 (w.trk.tLast.getD 0)),
        (0x18A, BitVec.ofNat 16 (w.trk.tLast.getD 0 / 65536))] } := by
  have hf : w.trk.canFire = false := by
    obtain ⟨h1, h2⟩ := not_or.1 h
    simp [Tracker.canFire, h1, h2]
  have hnone : w.edgeShown.noService := hn
  obtain ⟨-, hsame⟩ := (w.edgeEvent_served u r).2 fun bk hb => absurd hb (by simp [hnone bk])
  rw [hsame hf, State.edgeShown, hf, Bool.not_false, Bool.or_true, edgeWords_unknown h]

/-- Settles O18. -/
theorem gapFound : Obligations.GapFound := by
  intro u s t sense i gap last h hgap hl ha
  have hg : s.trk.gapLike u i = gap := by
    rw [Bool.eq_iff_iff, Tracker.gapLike_iff, hgap]
  refine ⟨fun hs hn => ?_, fun hs h1 h2 => ?_⟩
  · have hw := s.edgeJudged_searching u (gap := gap) i t sense hl hs
    have hquiet := State.edgeEvent_unknown u s.trk.reacquire (w := s.edgeJudged u (s.trk.judge u gap) i t sense)
      (by rw [hw, Tracker.searched]; dsimp only; split_ifs <;> simp) (by rw [hw]; exact hn)
    refine ⟨_, ?_, s.mem.shown_of s.sb.live (by simp) (by simp [memBytes])⟩
    rw [h.exec_eq sense (by rw [hg]), hquiet, hw, Tracker.searched]
    have hcode : lowByte (Sync.code (if gap then .gapCheck
        else if s.trk.sync = .gapCheck ∧ last = false then .gapCheck else .gapSearch)) =
        if gap then 2 else if s.trk.sync = .gapCheck ∧ last = false then 2 else 1 := by
      split_ifs <;> rfl
    rw [← hcode]
    rfl
  · subst h1 h2
    have hj : s.trk.judge u (s.trk.gapLike u i) = .confirmed := by
      have hb : (s.trk.tooth == u.lastTooth) = true := hl.symm
      rw [hg]
      simp [Tracker.judge, hs, hb]
    have hw := s.edgeJudged_confirmed u i t sense
    rw [ha, Bool.or_false] at hw
    obtain ⟨htrk, hsu, -, hsticky⟩ := State.edgeEvent_trk u s.trk.reacquire (s.edgeJudged u .confirmed i t sense)
    have hserved := State.edgeEvent_served u s.trk.reacquire (s.edgeJudged u .confirmed i t sense)
    have hfire : (s.edgeJudged u .confirmed i t sense).trk.canFire = u.phaseAssume := by
      rw [hw]
      exact Tracker.canFire_known (.inl rfl)
    refine ⟨_, (s.edgeJudged u .confirmed i t sense).edgeShown, h.exec_eq sense hj, ?_, ?_, hfire ▸ hserved, htrk,
      fun hp => sticky_kept hsticky ?_, ?_⟩
    · rw [State.edgeShown, hfire, hw]
      rfl
    · have hwords : edgeWords (s.edgeJudged u .confirmed i t sense).trk = _ :=
        edgeWords_known (t := t) (by rw [hw]; exact .inl rfl) (by rw [hw]; rfl)
      rw [State.edgeShown, hwords, hw]
      dsimp only
      rw [Memory.mirror_mirror]
      exact s.mem.mirror_shown_after s.sb.live (by cases u.phaseAssume <;> simp) (by simp) (by simp [memBytes])
    · rw [hw]
      simp [hp]
    · rw [hsu, hw]

end Sys2Proof.Machine

/-! # The service pulse truncated at an edge

An edge ends every service pulse in play (R124): what that leaves of another bank (`Spares`), and of the bank that plays the
pulse. -/

namespace Sys2Proof.Machine

variable {s u : State}

/-! ## Another bank -/

/-- What the end of one bank's holder keeps of another bank `j`, and the cylinders without consecutive faults. -/
structure Spares (j : BankId) (s t : State) : Prop where
  mode : (t.bank j).mode = (s.bank j).mode
  holder : (t.bank j).holder = (s.bank j).holder
  channel : (t.bank j).channel = (s.bank j).channel
  faults : ∀ k, (s.cyl k).faults = 0 → (t.cyl k).faults = 0

theorem Spares.refl (j : BankId) (s : State) : Spares j s s := ⟨rfl, rfl, rfl, fun _ h => h⟩

theorem Spares.trans {j : BankId} {t : State} (h : Spares j s t) (g : Spares j t u) : Spares j s u :=
  ⟨g.mode.trans h.mode, g.holder.trans h.holder, g.channel.trans h.channel, fun k hk => g.faults k (h.faults k hk)⟩

section
variable {j bk : BankId}

/-- An operation that leaves the banks alone and counts no fault. -/
theorem Spares.of_banks {t : State} (h : Spares j s u) (hb : t.banks = u.banks)
    (hc : ∀ k, (u.cyl k).faults = 0 → (t.cyl k).faults = 0) : Spares j s t :=
  h.trans ⟨by simp only [State.bank, hb], by simp only [State.bank, hb], by simp only [State.bank, hb], hc⟩

theorem Spares.statusAll (h : Spares j s u) (l : List (Nat × Word)) : Spares j s (u.statusAll l) := by
  rw [State.statusAll_eq]
  exact h.of_banks rfl fun _ hk => hk

theorem Spares.raise (h : Spares j s u) (f : Flag) : Spares j s (u.raise f) := h.of_banks rfl fun _ hk => hk

theorem Spares.setBank (h : Spares j s u) (hj : j ≠ bk) (x : Bank) : Spares j s (u.setBank bk x) :=
  h.trans (by
    have hb := State.bank_setBank_ne (s := u) x hj
    exact ⟨by rw [hb], by rw [hb], by rw [hb], fun _ hk => hk⟩)

theorem Spares.setMode (h : Spares j s u) (hj : j ≠ bk) (m : BankMode) : Spares j s (u.setMode bk m) :=
  (h.setBank hj _).statusAll _

/-- A bank changed in its other items. -/
theorem Spares.setOther (h : Spares j s u) (bk : BankId) {x : Bank} (hm : x.mode = (u.bank bk).mode)
    (hh : x.holder = (u.bank bk).holder) (hc : x.channel = (u.bank bk).channel) : Spares j s (u.setBank bk x) := by
  by_cases hj : j = bk
  · subst hj
    have hb := State.bank_setBank u j x
    exact h.trans ⟨by rw [hb, hm], by rw [hb, hh], by rw [hb, hc], fun _ hk => hk⟩
  · exact h.setBank hj x

theorem Spares.headCheck (h : Spares j s u) (bk : BankId) : Spares j s (u.headCheck bk) := by
  unfold State.headCheck
  dsimp only
  split
  · exact h.setOther bk rfl rfl rfl
  · exact h

theorem Spares.conflict (h : Spares j s u) (bk : BankId) : Spares j s (u.conflict bk) :=
  ((h.setOther bk (x := { u.bank bk with conflicts := satCount (u.bank bk).conflicts }) rfl rfl rfl).statusAll _).raise _

theorem Spares.conflicts (bk : BankId) (n : Nat) : ∀ {u : State}, Spares j s u → Spares j s (u.conflicts bk n) := by
  induction n with
  | zero => exact fun h => h
  | succ n ih => exact fun h => ih (h.conflict bk)

theorem Spares.release (h : Spares j s u) (hj : j ≠ bk) : Spares j s (u.release bk) := (h.setBank hj _).setMode hj _

theorem Spares.freeBank (h : Spares j s u) (hj : j ≠ bk) : Spares j s (u.freeBank bk) := (h.setBank hj _).release hj

/-- A cylinder that comes to no fault. -/
theorem Spares.setCyl (h : Spares j s u) (k : CylId) {x : Cylinder} (hx : (u.cyl k).faults = 0 → x.faults = 0) :
    Spares j s (u.setCyl k x) :=
  h.of_banks rfl fun i hi => by
    by_cases hik : i = k
    · subst hik
      rw [State.cyl_setCyl]
      exact hx hi
    · rwa [State.cyl_setCyl_ne _ _ hik]

theorem Spares.modEvent (h : Spares j s u) (k : CylId) (seq : Word) (f : Event → Event) : Spares j s (u.modEvent k seq f) := by
  unfold State.modEvent
  split
  · split
    · exact h.setCyl k fun hk => hk
    · exact h
  · exact h

theorem Spares.modPulse (h : Spares j s u) (k : CylId) (seq : Word) (i : Nat) (f : Pulse → Pulse) :
    Spares j s (u.modPulse k seq i f) := h.modEvent _ _ _

theorem Spares.withdraw (h : Spares j s u) (reach : CylId → Bool) (o : PulseOutcome) : Spares j s (u.withdraw reach o) := by
  obtain ⟨hm, hh, hc⟩ := u.withdraw_holdersKept reach o j
  refine h.trans ⟨hm, hh, hc, fun k hk => ?_⟩
  simp only [State.withdraw, State.setBanks_cyls, State.setArm_cyls, State.setCyls_cyls, State.cyl, Eight.get_map]
  split
  · exact hk
  · exact hk

theorem Spares.clearFaults (h : Spares j s u) (k : CylId) : Spares j s (u.clearFaults k) :=
  (h.setCyl k (x := { u.cyl k with faults := 0 }) fun _ => rfl).statusAll _

theorem Cylinder.settled_faults (c : Cylinder) : c.settled.faults = c.faults := by
  unfold Cylinder.settled
  split
  · split <;> rfl
  · rfl

theorem Spares.settle (h : Spares j s u) (k : CylId) : Spares j s (u.settle k) :=
  h.of_banks (State.settle_banks k u) fun i hi => by
    rw [State.cyl, State.settle_cyls]
    by_cases hik : i = k
    · subst hik
      rwa [Eight.get_set_same, Cylinder.settled_faults]
    · rwa [Eight.get_set_ne _ _ hik]

theorem Spares.capCheck (h : Spares j s u) (k : CylId) (seq : Word) (o : PulseOutcome) : Spares j s (u.capCheck k seq o) := by
  unfold State.capCheck
  split
  · split
    · exact Spares.conflicts _ _ (h.withdraw _ _)
    · exact h
  · exact h

theorem Spares.endInEvent (h : Spares j s u) (k : CylId) (seq : Word) (i : Nat) (c : PulseCond) (r : PulseResult) :
    Spares j s (u.endInEvent k seq i c r) := (h.modPulse _ _ _ _).modEvent _ _ _

theorem Spares.serviceDone (h : Spares j s u) (r : PulseResult) : Spares j s (u.serviceDone r) :=
  ((h.of_banks (t := u.setSb { u.sb with service := u.sb.service.ended r }) rfl fun _ hk => hk).statusAll _).raise _

theorem Spares.serviceResult (h : Spares j s u) (p : Player) : Spares j s (u.serviceResult p) := by
  unfold State.serviceResult
  split
  · exact h.serviceDone _
  · exact h

theorem Spares.quenchOver (h : Spares j s u) (hj : j ≠ bk) : Spares j s (u.quenchOver bk) := by
  unfold State.quenchOver
  split
  · exact h
  · split
    · exact ((h.serviceResult _).freeBank hj).headCheck _
    · exact ((h.freeBank hj).modPulse _ _ _ _).headCheck _

theorem Spares.judge (h : Spares j s u) (p : Player) : Spares j s (u.judge p) := by
  unfold State.judge
  split
  · exact h.settle _
  · exact h

theorem Spares.startQuench (h : Spares j s u) (hj : j ≠ bk) : Spares j s (u.startQuench bk) := by
  unfold State.startQuench State.quenchStanding
  split
  · exact h
  · split
    · exact (h.setBank hj _).quenchOver hj
    · exact h.setBank hj _

theorem Spares.reportEnd (h : Spares j s u) (p : Player) (r : PulseResult) : Spares j s (u.reportEnd p r) := by
  unfold State.reportEnd
  split
  · exact h.endInEvent _ _ _ _ _
  · exact h

theorem Spares.capPlayed (h : Spares j s u) (p : Player) (o : PulseOutcome) : Spares j s (u.capPlayed p o) := by
  unfold State.capPlayed
  split
  · exact h.capCheck _ _ _
  · exact h

theorem Spares.stopPlayed (h : Spares j s u) (hj : j ≠ bk) : Spares j s (u.stopPlayed bk .truncated) := by
  unfold State.stopPlayed
  split
  · exact h
  · split
    · exact h
    · exact (((((h.setBank hj _).setMode hj _).reportEnd _ _).clearFaults _).capPlayed _ _).startQuench hj

theorem Spares.endPlayed (h : Spares j s u) (hj : j ≠ bk) : Spares j s (u.endPlayed bk .truncated) := by
  unfold State.endPlayed
  split
  · exact h
  · dsimp only
    split
    · exact (h.stopPlayed hj).judge _
    · exact h.stopPlayed hj

theorem Spares.endDry (h : Spares j s u) (hj : j ≠ bk) (x : Holder) (o : PulseOutcome) : Spares j s (u.endDry bk x o) := by
  unfold State.endDry State.stopDry
  split
  · exact h
  · exact (((((h.setBank hj _).endInEvent _ _ _ _ _).capCheck _ _ _).release hj).headCheck _).settle _

theorem Spares.truncateService (h : Spares j s u) (hj : j ≠ bk) : Spares j s (u.truncateService bk) := by
  unfold State.truncateService State.endHolder
  split
  · split
    · exact h
    · split
      · split
        · exact h.endDry hj _ _
        · exact h.endPlayed hj
      · exact h
  · exact h

/-- Truncating the service pulses of other banks. -/
theorem Spares.truncateOthers {l : List BankId} (hl : j ∉ l) : ∀ {u : State}, Spares j s u →
    Spares j s (l.foldl State.truncateService u) := by
  induction l with
  | nil => exact fun h => h
  | cons bk rest ih =>
    intro u h
    obtain ⟨h1, h2⟩ := not_or.1 (mt List.mem_cons.2 hl)
    exact ih h2 (h.truncateService h1)

end

/-! ## The bank itself -/

/-- The bank of a service pulse at its end, before the quench begins (R113). -/
theorem State.fixEnd_service {bk : BankId} {p : Player} {f : Nat} (hpj : p.job = .service f) :
    (s.fixEnd bk p .truncated).bank bk =
      { s.bank bk with
        mode := .quench
        channel := some { p with cond := .quench, phaseTimer := none, result := some (p.resultAt .truncated s.now) }
        boostEnd := if p.cond.boostGate then some s.now else (s.bank bk).boostEnd
        capAt := none } := by
  simp only [State.fixEnd, State.reportEnd, hpj, State.setMode, State.statusAll_eq, State.bank_setBank]
  exact State.bank_setBank (s := s.setBank bk _) bk _

theorem State.clearFaults_faults (s : State) (k : CylId) : ((s.clearFaults k).cyl k).faults = 0 := by
  unfold State.clearFaults
  dsimp only
  rw [State.statusAll_eq]
  exact congrArg Cylinder.faults (State.cyl_setCyl s k _)

/-- A service pulse in play with its current not below QUENCH_LEVEL goes to QUENCH with the same holder, and clears the consecutive
faults of its cylinder (R113, R115, R119, R124). -/
theorem State.endPlayed_service {bk : BankId} {p : Player} {f : Nat} (h : Playing s bk p (s.pins.sense.get bk))
    (hpj : p.job = .service f) :
    (s.endPlayed bk .truncated).bank bk = (s.bank bk).ended p .truncated s.now
      ∧ ((s.endPlayed bk .truncated).cyl p.cyl).faults = 0 := by
  let v : State := (s.fixEnd bk p .truncated).clearFaults p.cyl
  have hv : v.bank bk = (s.fixEnd bk p .truncated).bank bk := by
    simp only [State.bank, State.clearFaults_banks, v]
  have hvt : v.now = s.now ∧ v.pins = s.pins := by
    have hd : Downstream s v := ((Downstream.refl s).fixEnd bk p .truncated).clearFaults p.cyl
    exact ⟨hd.now, hd.pins⟩
  have hquench : v.startQuench bk = v.setBank bk ((s.bank bk).ended p .truncated s.now) := by
    have hlevel : senseUnder (s.pins.sense.get bk) p.quenchLevel = false := decide_eq_false (Nat.not_lt.2 h.current)
    unfold State.startQuench State.quenchStanding State.senseOf
    simp only [hv, State.fixEnd_service hpj, State.setBank_pins, hvt.1, hvt.2, hlevel]
    rfl
  have hstop : s.stopPlayed bk .truncated = v.setBank bk ((s.bank bk).ended p .truncated s.now) := by
    unfold State.stopPlayed
    rw [h.channel]
    dsimp only
    rw [if_neg h.phase, ← hquench]
    simp only [State.capPlayed, hpj]
    rfl
  have hend : s.endPlayed bk .truncated = v.setBank bk ((s.bank bk).ended p .truncated s.now) := by
    unfold State.endPlayed
    rw [h.channel]
    dsimp only
    rw [hstop, if_neg (by simp [Bank.ended])]
  rw [hend]
  exact ⟨State.bank_setBank _ _ _, State.clearFaults_faults _ _⟩

/-- Truncating the service pulses leaves a bank that plays one so (R124). -/
theorem State.truncateServices_playing {bk : BankId} {p : Player} {g : Holder} {f : Nat}
    (h : Playing s bk p (s.pins.sense.get bk)) (hg : (s.bank bk).holder = some g) (hm : (s.bank bk).mode = .active)
    (hgj : g.job = .service f) (hpj : p.job = .service f) :
    (s.truncateServices.bank bk).mode = .quench ∧ (s.truncateServices.bank bk).holder = some g
      ∧ (s.truncateServices.bank bk).channel = some (p.ended .truncated s.now) ∧ (s.truncateServices.cyl p.cyl).faults = 0 := by
  obtain ⟨pre, post, hall, hpre, hpost⟩ : ∃ pre post, BankId.all = pre ++ bk :: post ∧ bk ∉ pre ∧ bk ∉ post := by
    cases bk
    · exact ⟨[], [.b, .c, .d], by decide⟩
    · exact ⟨[.a], [.c, .d], by decide⟩
    · exact ⟨[.a, .b], [.d], by decide⟩
    · exact ⟨[.a, .b, .c], [], by decide⟩
  let v : State := pre.foldl State.truncateService s
  have hbefore : Spares bk s v := Spares.truncateOthers hpre (.refl bk s)
  have hdown : Downstream s v := Downstream.foldl (fun _ j g => g.truncateService j) _ (.refl s)
  have hplay : Playing v bk p (v.pins.sense.get bk) := by
    rw [hdown.pins]
    exact ⟨hbefore.channel.trans h.channel, h.phase, h.current⟩
  have hown : v.truncateService bk = v.endPlayed bk .truncated := by
    have hserv : (v.bank bk).heldByService = true := by simp [Bank.heldByService, hbefore.holder, hg, hgj]
    have hdry : g.dry = false := by simp [Holder.dry, hgj]
    simp [State.truncateService, hserv, State.endHolder, hbefore.holder, hg, hbefore.mode, hm, hdry]
  obtain ⟨hbank, hfaults⟩ := State.endPlayed_service hplay hpj
  have hafter : Spares bk (v.endPlayed bk .truncated) s.truncateServices := by
    unfold State.truncateServices
    rw [hall, List.foldl_append, List.foldl_cons, hown]
    exact Spares.truncateOthers hpost (.refl _ _)
  rw [hdown.now] at hbank
  refine ⟨?_, ?_, ?_, hafter.faults _ hfaults⟩
  · rw [hafter.mode, hbank]
    rfl
  · rw [hafter.holder, hbank]
    exact hbefore.holder.trans hg
  · rw [hafter.channel, hbank]
    rfl

/-- Settles O15. -/
theorem firstEdge : Obligations.FirstEdge := by
  intro u s t sense hu hr hs
  let w : State := ((s.at t).seeAll sense).setTrk (s.trk.firstEdge u t)
  have hexec : exec (.crankEdge u.crankEdge t sense []) s = .next (w.edgeEvent u false) :=
    congrArg Host.Outcome.next (State.crankArrives_first (s := (s.at t).seeAll sense) hu hr (.inl hs))
  refine ⟨w.edgeEvent u false, hexec, ?_, fun hn => ?_, fun bk p g f h hg hm hgj hpj => ?_⟩
  · rw [(State.edgeEvent_trk u false w).1]
    rfl
  · rw [State.edgeEvent_unknown u false (w := w) (by simp [w, Tracker.firstEdge]) hn]
    refine ⟨rfl, ?_⟩
    have hcode : lowByte w.trk.sync.code = 1 := rfl
    have hlast : w.trk.tLast = none := rfl
    rw [hcode, hlast]
    exact s.mem.shown_of s.sb.live (by simp) (by simp [memBytes])
  · have htrunc := State.truncateServices_playing (s := w.setMem (w.mem.mirror w.sb.live (edgeWords w.trk))) (bk := bk) (p := p)
      (g := g) (f := f) ⟨h.channel, h.phase, h.current⟩ hg hm hgj hpj
    rw [State.edgeEvent_of_quiet u false (w := w) rfl]
    exact htrunc

end Sys2Proof.Machine

/-! # Crank sync lost -/

namespace Sys2Proof.Machine

variable {s u : State}

/-! ## What waits, and the events, while service pulses end -/

/-- The lists that pulses wait in, and what the event table and the status entries say of the events, are kept. -/
structure WaitsKept (s t : State) : Prop where
  arm : t.arm = s.arm
  waiting : ∀ bk, (t.bank bk).waiting = (s.bank bk).waiting
  events : ∀ k, (t.cyl k).event = (s.cyl k).event ∧ (t.cyl k).lastSource = (s.cyl k).lastSource
    ∧ (t.cyl k).lastOutcome = (s.cyl k).lastOutcome ∧ (t.cyl k).lastSeq = (s.cyl k).lastSeq

theorem WaitsKept.refl (s : State) : WaitsKept s s := ⟨rfl, fun _ => rfl, fun _ => ⟨rfl, rfl, rfl, rfl⟩⟩

theorem WaitsKept.trans {t : State} (h : WaitsKept s t) (g : WaitsKept t u) : WaitsKept s u :=
  ⟨g.arm.trans h.arm, fun bk => (g.waiting bk).trans (h.waiting bk), fun k => by
    obtain ⟨h1, h2, h3, h4⟩ := h.events k
    obtain ⟨g1, g2, g3, g4⟩ := g.events k
    exact ⟨g1.trans h1, g2.trans h2, g3.trans h3, g4.trans h4⟩⟩

theorem WaitsKept.of_same {t : State} (h : WaitsKept s u) (ha : t.arm = u.arm) (hb : t.banks = u.banks) (hc : t.cyls = u.cyls) :
    WaitsKept s t :=
  h.trans ⟨ha, fun bk => by simp only [State.bank, hb], fun k => by simp only [State.cyl, hc, and_self]⟩

theorem WaitsKept.statusAll (h : WaitsKept s u) (l : List (Nat × Word)) : WaitsKept s (u.statusAll l) := by
  rw [State.statusAll_eq]
  exact h.of_same rfl rfl rfl

theorem WaitsKept.setBank (h : WaitsKept s u) (bk : BankId) {x : Bank} (hx : x.waiting = (u.bank bk).waiting) :
    WaitsKept s (u.setBank bk x) :=
  h.trans ⟨rfl, fun j => by
    by_cases hj : j = bk
    · subst hj
      rw [State.bank_setBank, hx]
    · rw [State.bank_setBank_ne _ _ hj], fun _ => ⟨rfl, rfl, rfl, rfl⟩⟩

theorem WaitsKept.setMode (h : WaitsKept s u) (bk : BankId) (m : BankMode) : WaitsKept s (u.setMode bk m) :=
  (h.setBank bk (x := { u.bank bk with mode := m }) rfl).statusAll _

theorem WaitsKept.headCheck (h : WaitsKept s u) (bk : BankId) : WaitsKept s (u.headCheck bk) := by
  unfold State.headCheck
  dsimp only
  split
  · exact h.setBank bk rfl
  · exact h

theorem WaitsKept.freeBank (h : WaitsKept s u) (bk : BankId) : WaitsKept s (u.freeBank bk) := by
  have hfree : WaitsKept s (u.setBank bk { u.bank bk with channel := none }) := h.setBank bk rfl
  refine WaitsKept.setMode (hfree.setBank bk ?_) bk _
  rfl

theorem WaitsKept.clearFaults (h : WaitsKept s u) (k : CylId) : WaitsKept s (u.clearFaults k) := by
  have hc : WaitsKept u (u.setCyl k { u.cyl k with faults := 0 }) := ⟨rfl, fun _ => rfl, fun i => by
    by_cases hi : i = k
    · subst hi
      rw [State.cyl_setCyl]
      exact ⟨rfl, rfl, rfl, rfl⟩
    · rw [State.cyl_setCyl_ne _ _ hi]
      exact ⟨rfl, rfl, rfl, rfl⟩⟩
  exact (h.trans hc).statusAll _

theorem WaitsKept.serviceDone (h : WaitsKept s u) (r : PulseResult) : WaitsKept s (u.serviceDone r) :=
  ((h.of_same (t := u.setSb { u.sb with service := u.sb.service.ended r }) rfl rfl rfl).statusAll _).of_same rfl rfl rfl

theorem WaitsKept.serviceResult (h : WaitsKept s u) (p : Player) : WaitsKept s (u.serviceResult p) := by
  unfold State.serviceResult
  split
  · exact h.serviceDone _
  · exact h

/-- A bank whose channel, if it plays, plays the service pulse. -/
def Bank.playsService (x : Bank) : Prop := ∀ p, x.channel = some p → ∃ f, p.job = .service f

theorem WaitsKept.quenchOver (h : WaitsKept s u) {bk : BankId} (hb : (u.bank bk).playsService) :
    WaitsKept s (u.quenchOver bk) := by
  unfold State.quenchOver
  split
  · exact h
  · rename_i p hp
    obtain ⟨f, hf⟩ := hb p hp
    rw [hf]
    exact ((h.serviceResult _).freeBank _).headCheck _

theorem WaitsKept.startQuench (h : WaitsKept s u) {bk : BankId} (hb : (u.bank bk).playsService) :
    WaitsKept s (u.startQuench bk) := by
  unfold State.startQuench State.quenchStanding
  split
  · exact h
  · rename_i p hp
    split
    · refine WaitsKept.quenchOver (h.setBank bk ?_) ?_
      · rfl
      rw [State.bank_setBank]
      intro q hq
      obtain rfl := Option.some.inj hq
      exact hb p hp
    · exact h.setBank bk rfl

theorem WaitsKept.stopPlayed (h : WaitsKept s u) {bk : BankId} (hb : (u.bank bk).playsService) :
    WaitsKept s (u.stopPlayed bk .truncated) := by
  unfold State.stopPlayed
  split
  · exact h
  · rename_i p hp
    split
    · exact h
    · obtain ⟨f, hf⟩ := hb p hp
      have hfix : WaitsKept s (u.fixEnd bk p .truncated) := by
        simp only [State.fixEnd, State.reportEnd, hf]
        refine WaitsKept.setMode (h.setBank bk ?_) bk _
        rfl
      simp only [State.capPlayed, hf]
      refine WaitsKept.startQuench (hfix.clearFaults p.cyl) ?_
      intro q hq
      simp only [State.bank, State.clearFaults_banks] at hq
      rw [show (u.fixEnd bk p .truncated).banks.get bk = _ from State.fixEnd_service hf] at hq
      obtain rfl := Option.some.inj hq
      exact ⟨f, hf⟩

theorem WaitsKept.endPlayed (h : WaitsKept s u) {bk : BankId} (hb : (u.bank bk).playsService) :
    WaitsKept s (u.endPlayed bk .truncated) := by
  unfold State.endPlayed
  split
  · exact h
  · rename_i p hp
    obtain ⟨f, hf⟩ := hb p hp
    simp only [State.judge, hf]
    split
    · exact h.stopPlayed hb
    · exact h.stopPlayed hb

/-- Where the banks keep their rules, a bank held by the service pulse plays no other. -/
theorem Bank.ok.playsService {x : Bank} (h : x.ok) (hs : x.heldByService = true) : x.playsService := by
  intro p hp
  obtain ⟨⟨g, hg, -, hj, -⟩, -⟩ := h.2.1 p hp
  unfold Bank.heldByService at hs
  rw [hg] at hs
  cases hgj : g.job with
  | service f => exact ⟨f, hj.symm.trans hgj⟩
  | event _ _ _ _ => simp [hgj] at hs

theorem WaitsKept.truncateService (h : WaitsKept s u) (hok : u.banksOk) (bk : BankId) : WaitsKept s (u.truncateService bk) := by
  unfold State.truncateService State.endHolder
  split
  · rename_i hs
    split
    · exact h
    · rename_i g hg
      split
      · have hdry : g.dry = false := by
          unfold Bank.heldByService at hs
          rw [hg] at hs
          cases hgj : g.job with
          | service f => simp [Holder.dry, hgj]
          | event _ _ _ _ => simp [hgj] at hs
        rw [hdry, if_neg (by simp)]
        exact h.endPlayed ((hok bk).playsService hs)
      · exact h
  · exact h

theorem banksOk_truncateService (h : s.banksOk) (bk : BankId) : (s.truncateService bk).banksOk := by
  unfold State.truncateService
  split
  · exact banksOk_endHolder h bk _
  · exact h

/-- The end of the service pulses keeps what waits and the events, where the banks keep their rules (R124). -/
theorem WaitsKept.truncateServices (hok : s.banksOk) : WaitsKept s s.truncateServices := by
  have hfold : ∀ (l : List BankId) (u : State), WaitsKept s u → u.banksOk → WaitsKept s (l.foldl State.truncateService u) := by
    intro l
    induction l with
    | nil => exact fun _ h _ => h
    | cons bk rest ih => exact fun u h hok => ih _ (h.truncateService hok bk) (banksOk_truncateService hok bk)
  exact hfold _ s (.refl s) hok

/-! ## The loss -/

/-- The tracker that an edge leaves which loses crank sync (R3, R10, R19, R22). -/
def Tracker.lostAt (u : Setup) (m : Trim) (gap : Bool) (i : Nat) (t : Time) (x : Tracker) : Tracker :=
  { (x.measured u m (if gap then u.m + 1 else 1) gap i t) with
    sync := if gap then .gapCheck else .gapSearch
    tooth := if gap then 0 else x.tooth
    phaseAssumed := false, errorRun := 0, markerSeen := false
    syncLosses := satCount x.syncLosses, reacquire := false }

/-- The judgement of an edge with an unexpected or a missing gap (R10). -/
theorem Tracker.judge_lost {u : Setup} {x : Tracker} {i y : Nat} {gap : Bool} (h : x.sync = .crankSync ∨ x.sync = .phased)
    (hy : x.tLast = some y) (hgap : gap = decide (u.gapRatio * y ≤ 16 * i)) (hne : gap ≠ decide (x.tooth = u.n - u.m - 1)) :
    x.judge u (x.gapLike u i) = .lost gap := by
  rw [Tracker.judge_known h, Tracker.gapLike_of_tLast hy, ← hgap]
  exact if_neg hne

/-- The loss of crank sync that an edge makes, before its edge event. -/
def State.lostState (u : Setup) (gap : Bool) (i : Nat) (t : Time) (sense : Four BankSense) (s : State) : State :=
  (s.edgeMeasured u (.lost gap) i t sense).loseSync gap

theorem State.lostState_recovered (u : Setup) (gap : Bool) (i : Nat) (t : Time) (sense : Four BankSense) (s : State) :
    Recovered ((s.edgeMeasured u (.lost gap) i t sense).syncDropped gap) (s.lostState u gap i t sense) :=
  State.loseSync_recovered gap _

/-- A stop in mode CYCLE is judged by then (R134). -/
theorem State.lostState_judged (u : Setup) (gap : Bool) (i : Nat) (t : Time) (sense : Four BankSense) {s : State}
    (hr : s.ctl.run = .stopping) (hm : s.ctl.stopMode = .cycle) : (s.lostState u gap i t sense).stopJudged := by
  rw [State.lostState, State.loseSync_eq]
  exact State.recover_endCycleMode_judged (s := (s.edgeMeasured u (.lost gap) i t sense).syncDropped gap) hr hm

theorem State.edgeJudged_lost (u : Setup) (gap : Bool) (i : Nat) (t : Time) (sense : Four BankSense) (s : State) :
    s.edgeJudged u (.lost gap) i t sense =
      { s.lostState u gap i t sense with trk := s.trk.lostAt u s.su.trim gap i t } := by
  have hrec := State.lostState_recovered u gap i t sense s
  have htrk : (s.lostState u gap i t sense).trk.decideAtEdge (s.lostState u gap i t sense).su.trim =
      s.trk.lostAt u s.su.trim gap i t := by
    rw [hrec.down.trk, hrec.down.su]
    rfl
  rw [← htrk]
  rfl

/-- The words of such an edge. -/
theorem Tracker.lostAt_words (u : Setup) (m : Trim) (gap : Bool) (i : Nat) (t : Time) (x : Tracker) :
    ∃ a b, edgeWords (x.lostAt u m gap i t) = [(0x186, if gap then 2 else 1), (0x188, a), (0x18A, b)] := by
  have hcode : lowByte (x.lostAt u m gap i t).sync.code = if gap then 2 else 1 := by cases gap <;> rfl
  rw [edgeWords_unknown (by cases gap <;> simp [Tracker.lostAt]), hcode]
  exact ⟨_, _, rfl⟩

/-- The memory that the loss and then the edge leave: SYNC_LOSSES and SYNC_STATE shown, the other counters as they were (R183). -/
theorem Memory.lostWords {m m1 m2 m3 : Memory} {live : Bool} {losses code a b : Word}
    (h0 : Memory.Shown live [(0x1A4, losses), (0x186, code)] m m1) (h1 : m1.LowKept m2)
    (h2 : Memory.Shown live [(0x186, code), (0x188, a), (0x18A, b)] m2 m3) {y : Memory} (h3 : m3.LowKept y) (hm : m.calm)
    (hl : live = true) :
    y.Shows 0x1A4 losses ∧ y.Shows 0x186 code ∧ y.readWord 0x1A0 = m.readWord 0x1A0 ∧ y.readWord 0x1A2 = m.readWord 0x1A2 := by
  have hm1 := h0.calm hm
  have hm2 := (h1 hm1).1
  have hm3 := h2.calm hm2
  have hkept : ∀ {c : Nat}, c + 2 ≤ 0x1B0 → (∀ off ∈ [0x186, 0x188, 0x18A], c + 2 ≤ off ∨ off + 2 ≤ c) →
      y.readWord c = m1.readWord c ∧ y.wordBad c = m1.wordBad c := fun hc hoff => by
    obtain ⟨a1, b1⟩ := h1.word hm1 hc
    obtain ⟨a2, b2⟩ := h2.word hm2 hoff
    obtain ⟨a3, b3⟩ := h3.word hm3 hc
    exact ⟨a3.trans (a2.trans a1), b3.trans (b2.trans b1)⟩
  have hloss := hkept (c := 0x1A4) (by decide) (by simp)
  have hshows := (h0.shows hm hl).2 (0x1A4, losses) (by simp)
  have hsync : y.Shows 0x186 code := h3.shows hm3 (by decide) ((h2.shows hm2 hl).2 (0x186, code) (by simp))
  refine ⟨⟨hloss.1.trans hshows.1, hloss.2.trans hshows.2⟩, hsync, ?_, ?_⟩
  · exact (hkept (by decide) (by simp)).1.trans (h0.word hm (by simp)).1
  · exact (hkept (by decide) (by simp)).1.trans (h0.word hm (by simp)).1

theorem State.holdersKept.noService {t : State} (h : s.holdersKept t) (hn : s.noService) : t.noService := fun bk => by
  have hb := hn bk
  unfold Bank.heldByService at hb ⊢
  rw [(h bk).2.1]
  exact hb

/-- Settles O19. -/
theorem syncLost : Obligations.SyncLost := by
  intro u s t sense i x gap h hs hx hgap hne
  have hrec := State.lostState_recovered u gap i t sense s
  have hw := State.edgeJudged_lost u gap i t sense s
  obtain ⟨a, b, hwords⟩ := Tracker.lostAt_words u s.su.trim gap i t s.trk
  have hfire : (s.trk.lostAt u s.su.trim gap i t).canFire = false := by cases gap <;> rfl
  let q : State := { s.lostState u gap i t sense with
    trk := s.trk.lostAt u s.su.trim gap i t
    mem := (s.lostState u gap i t sense).mem.mirror s.sb.live [(0x186, if gap then 2 else 1), (0x188, a), (0x18A, b)] }
  have hq : (s.edgeJudged u (.lost gap) i t sense).edgeEvent u s.trk.reacquire =
      { q.truncateServices with trk := { s.trk.lostAt u s.su.trim gap i t with reacquire := true } } := by
    have hlive : (s.lostState u gap i t sense).sb.live = s.sb.live := hrec.down.live
    rw [hw, State.edgeEvent_of_quiet u _ hfire]
    dsimp only
    rw [hwords, hlive]
    rfl
  have hplays : Plays q q.truncateServices := (Plays.refl q).truncateServices
  have hdrop : q.ev.sticky.getLsbD 5 = true := hrec.down.toKeeps.bit (State.raise_bit _ .syncLost)
  refine ⟨_, h.exec_eq sense (Tracker.judge_lost hs hx hgap hne), ?_, ?_, fun hok => ?_, fun hn => ?_, fun h1 h2 => ?_, ?_,
    fun k => ?_, fun hm hl => ?_⟩ <;> rw [hq]
  · rfl
  · exact q.truncateServices_down.toKeeps.bit hdrop
  · have hlok : (s.lostState u gap i t sense).banksOk := banksOk_loseSync (s := s.edgeMeasured u (.lost gap) i t sense) hok gap
    have hkept := WaitsKept.truncateServices (banksOk_congr (t := q) hlok rfl)
    have hdropped : s.allDropped (s.lostState u gap i t sense) .syncDrop t := hrec.dropped
    have hq' : s.allDropped q .syncDrop t := hdropped.congr rfl (fun _ => rfl) fun _ => ⟨rfl, rfl, rfl, rfl⟩
    exact hq'.congr hkept.arm hkept.waiting hkept.events
  · have hheld : s.holdersKept q := ((State.holdersKept_of_banks (s := s) rfl).trans hrec.holders).trans
      (State.holdersKept_of_banks rfl)
    rw [State.truncateServices_of_noService (hheld.noService hn)]
    exact hheld
  · have hjudged : q.stopJudged := State.stopJudged.congr (State.lostState_judged u gap i t sense h1 h2) rfl (fun _ => rfl) id
    exact hplays.judged hjudged
  · have hlatch : q.latch = s.latch := hrec.latch
    exact hplays.latch.trans hlatch
  · have hentry : (q.cyl k).nextEvent = (s.cyl k).nextEvent := (hrec.cyl k).1
    exact (hplays.nextEvent k).trans hentry
  · exact Memory.lostWords (s.mem.shown_of s.sb.live (by simp) (by simp [memBytes])) hrec.low
      (Memory.shown_of _ _ (by simp) (by simp [memBytes])) hplays.low hm hl

end Sys2Proof.Machine

/-! # A cycle boundary: the trim copy and the missing-marker check -/

namespace Sys2Proof.Machine

variable {s u : State}

/-! ## Memory -/

/-- What the part's own writes keep of a memory as it stands between commands: the bytes of the host's region below the status
block (R162). -/
theorem Keeps.hostBytes {t : State} (h : Keeps s t) (hm : s.mem.calm) :
    t.mem.calm ∧ ∀ a, a < 0x180 → t.mem.readByte a = s.mem.readByte a ∧ t.mem.byteBad a = s.mem.byteBad a := by
  refine h.memory (fun m => m.calm ∧ ∀ a, a < 0x180 → m.readByte a = s.mem.readByte a ∧ m.byteBad a = s.mem.byteBad a)
    ⟨fun m hQ => ?_, fun _ m off w h1 h2 hQ => ?_, fun m off w h1 hQ => ?_⟩ ⟨hm, fun _ _ => ⟨rfl, rfl⟩⟩
  · rwa [Memory.turn_calm hQ.1]
  all_goals
    obtain ⟨hc, hb⟩ := hQ
    rw [Memory.putPart_calm hc]
    refine ⟨Memory.writeWord_calm hc _ _ _, fun a ha => ?_⟩
    rw [Memory.readByte_writeWord_ne _ _ _ (by omega) (by omega), Memory.byteBad_writeWord_ne _ _ _ (by omega) (by omega)]
    exact hb a ha

/-- The words of a trim copy lie below the status block. -/
theorem readTrim_congr {m m' : Memory} (h : ∀ a, a < 0x180 → m'.readByte a = m.readByte a ∧ m'.byteBad a = m.byteBad a) :
    readTrim m' = readTrim m := by
  have hword : ∀ off, off + 2 ≤ 0x180 → m'.readWord off = m.readWord off ∧ m'.wordBad off = m.wordBad off := fun off ho => by
    have h0 := h off (by omega)
    have h1 := h (off + 1) (by omega)
    unfold Memory.readWord Memory.wordBad
    rw [h0.1, h1.1, h0.2, h1.2]
    exact ⟨rfl, rfl⟩
  have hslot : ∀ slot : Slot, ∀ off ∈ slotWords (slotBase slot), off + 2 ≤ 0x180 := by
    intro slot
    cases slot <;> decide
  have hsel := hword offSelector (by decide)
  unfold readTrim
  rw [hsel.1, hsel.2]
  have hbad : (slotWords (slotBase (slotNamed (m.readWord offSelector)))).any m'.wordBad =
      (slotWords (slotBase (slotNamed (m.readWord offSelector)))).any m.wordBad := by
    rw [Bool.eq_iff_iff, List.any_eq_true, List.any_eq_true]
    exact exists_congr fun off => and_congr_right fun ho => by rw [(hword off (hslot _ off ho)).2]
  have hread : (slotWords (slotBase (slotNamed (m.readWord offSelector)))).map m'.readWord =
      (slotWords (slotBase (slotNamed (m.readWord offSelector)))).map m.readWord :=
    List.map_congr_left fun off ho => (hword off (hslot _ off ho)).1
  simp only [hbad, hread]

/-- Showing status words leaves the rest of the memory alone. -/
theorem Memory.mirror_outside {live : Bool} {l : List (Nat × Word)} (hl : StatusWords l) {m : Memory} (hm : m.calm) :
    (m.mirror live l).calm ∧ ∀ a, a < 0x180 ∨ 0x300 ≤ a →
      (m.mirror live l).readByte a = m.readByte a ∧ (m.mirror live l).byteBad a = m.byteBad a := by
  unfold Memory.mirror
  split
  · obtain ⟨hc, hb⟩ := m.putAll_sameOutside l hm
    refine ⟨hc, fun a ha => hb a fun off ho => ?_⟩
    obtain ⟨p, hp, rfl⟩ := List.mem_map.1 ho
    have := hl p hp
    omega
  · exact ⟨hm, fun _ _ => ⟨rfl, rfl⟩⟩

/-! ## The trim copy -/

/-- A cylinder's hold count limited to HOLD_LIMIT (R51). -/
def Cylinder.limited (n : Nat) (c : Cylinder) : Cylinder := { c with holdCount := min c.holdCount n }

theorem State.limitHold_eq (s : State) (k : CylId) : ∃ l, StatusWords l ∧ s.limitHold k =
    { s with
      cyls := s.cyls.set k ((s.cyl k).limited s.su.trim.holdLimit)
      mem := s.mem.mirror s.sb.live l } := by
  unfold State.limitHold
  split
  · rename_i h
    have hmin : min (s.cyl k).holdCount s.su.trim.holdLimit = s.su.trim.holdLimit := Nat.min_eq_right (Nat.le_of_lt h)
    refine ⟨_, holdWords_in k { s.cyl k with holdCount := s.su.trim.holdLimit }, ?_⟩
    rw [State.setHold, Cylinder.limited, hmin]
    dsimp only
    rw [State.statusAll_eq]
    rfl
  · rename_i h
    have hmin : min (s.cyl k).holdCount s.su.trim.holdLimit = (s.cyl k).holdCount := Nat.min_eq_left (Nat.le_of_not_lt h)
    have hsame : s.cyls.set k (s.cyl k) = s.cyls := Eight.set_get _ _
    refine ⟨[], .nil, ?_⟩
    rw [Cylinder.limited, hmin, Memory.mirror_nil, hsame]

/-- The hold counts limited: each to HOLD_LIMIT, with status words shown, and nothing else (R51). -/
theorem State.limitHolds_eq (s : State) : ∃ l, StatusWords l ∧ s.limitHolds =
    { s with
      cyls := s.cyls.map fun _ c => c.limited s.su.trim.holdLimit
      mem := s.mem.mirror s.sb.live l } := by
  have hfold : ∀ (ks : List CylId) (u : State), ∃ l, StatusWords l ∧ ks.foldl State.limitHold u =
      { u with
        cyls := ks.foldl (fun c k => c.set k ((c.get k).limited u.su.trim.holdLimit)) u.cyls
        mem := u.mem.mirror u.sb.live l } := by
    intro ks
    induction ks with
    | nil => exact fun u => ⟨[], .nil, by rw [Memory.mirror_nil]; rfl⟩
    | cons k rest ih =>
      intro u
      obtain ⟨l, hl, h⟩ := u.limitHold_eq k
      obtain ⟨l', hl', h'⟩ := ih (u.limitHold k)
      refine ⟨l ++ l', hl.append hl', ?_⟩
      rw [List.foldl_cons, h', h, ← Memory.mirror_mirror]
      rfl
  obtain ⟨l, hl, h⟩ := hfold CylId.all s
  refine ⟨l, hl, h.trans ?_⟩
  have hcyls : CylId.all.foldl (fun c k => c.set k ((c.get k).limited s.su.trim.holdLimit)) s.cyls =
      s.cyls.map fun _ c => c.limited s.su.trim.holdLimit := Eight.ext_get fun k => by cases k <;> rfl
  rw [hcyls]

/-- The setup unit after a trim copy that read `copy` (R157, R158). -/
def SetupUnit.trimmed (x : Setup) (copy : Option (Slot × Trim)) (su : SetupUnit) : SetupUnit :=
  match copy with
  | some (slot, raw) =>
    { su with
      trim := clampTrim x.ringLen raw, slot := slot
      clampMask := BitVec.ofNat 16 (changedMask raw.fields (clampTrim x.ringLen raw).fields) }
  | none => su

/-- A trim copy: the set in force, TRIM_FAULT where it failed, the hold counts limited, and status words (R51, R155 to R158). -/
theorem State.copyTrim_eq {x : Setup} (hm : s.mem.calm) (hx : s.su.setup = some x) : ∃ l, StatusWords l ∧ s.copyTrim =
    { s with
      su := s.su.trimmed x (readTrim s.mem)
      ev := { s.ev with sticky := if readTrim s.mem = none then s.ev.sticky ||| 0x1000 else s.ev.sticky }
      cyls := s.cyls.map fun _ c => c.limited (s.su.trimmed x (readTrim s.mem)).trim.holdLimit
      mem := s.mem.mirror s.sb.live l } := by
  have hring : s.ringLen = x.ringLen := by simp [State.ringLen, hx]
  rw [State.copyTrim_calm hm]
  cases hr : readTrim s.mem with
  | none =>
    obtain ⟨l, hl, h⟩ := (s.raise .trimFault).limitHolds_eq
    refine ⟨l, hl, (show _ = (s.raise .trimFault).limitHolds from rfl).trans (h.trans ?_)⟩
    simp only [if_true]
    rfl
  | some copy =>
    obtain ⟨slot, raw⟩ := copy
    obtain ⟨l, hl, h⟩ := (s.putTrim slot raw).limitHolds_eq
    have hput : s.putTrim slot raw =
        { s with
          su := s.su.trimmed x (some (slot, raw))
          mem := s.mem.mirror s.sb.live (trimWords (s.su.trimmed x (some (slot, raw)))) } := by
      unfold State.putTrim
      dsimp only
      rw [State.statusAll_eq, hring]
      rfl
    refine ⟨trimWords (s.su.trimmed x (some (slot, raw))) ++ l, (trimWords_in _).append hl,
      (show _ = (s.putTrim slot raw).limitHolds from rfl).trans (h.trans ?_)⟩
    rw [hput, ← Memory.mirror_mirror, if_neg (by simp)]

end Sys2Proof.Machine

/-! # A cycle boundary -/

namespace Sys2Proof.Machine

variable {s u : State}

/-! ## The missing-marker check -/

/-- The tracker after the missing-marker check of a boundary (R16, R17). -/
def Tracker.checked (x : Setup) (missing third : Bool) (t : Tracker) : Tracker :=
  { t with
    sync := if third then .crankSync else t.sync
    phaseAssumed := if third then x.phaseAssume || t.phaseAssumed else t.phaseAssumed
    errorRun := if third then 0 else if missing then t.errorRun + 1 else t.errorRun
    markerErrors := if missing then satCount t.markerErrors else t.markerErrors
    syncLosses := if third then satCount t.syncLosses else t.syncLosses
    reacquire := if third then t.reacquire || x.phaseAssume else t.reacquire }

/-- What the missing-marker check leaves: a count, or at the third error in a row a loss of phase (R16, R17, R23, R134). -/
structure MarkerChecked (x : Setup) (missing third : Bool) (s y : State) : Prop where
  keeps : Keeps s y
  now : y.now = s.now
  pins : y.pins = s.pins
  su : y.su = s.su
  latch : y.latch = s.latch
  trk : y.trk = s.trk.checked x missing third
  holders : s.holdersKept y
  holds : ∀ k, (y.cyl k).holdCount = (s.cyl k).holdCount
  stop : s.ctl.run = .stopping → y.ctl = s.ctl ∨ (y.ctl.stopMode ≠ .cycle ∧ s.cycleEnds y)
  lost : third = true → y.ev.sticky.getLsbD 5 = true ∧ (x.phaseAssume = true → y.ev.sticky.getLsbD 4 = true)
    ∧ s.allDropped y .syncDrop s.now
  within : third = false → ∃ l, StatusWords l ∧
    y = { s with trk := s.trk.checked x missing false, mem := s.mem.mirror s.sb.live l }

/-- A check that loses no phase changes the tracker and shows words. -/
theorem MarkerChecked.of_within {x : Setup} {missing : Bool} {l : List (Nat × Word)} {y : State} (hk : Keeps s y)
    (hl : StatusWords l) (hy : y = { s with trk := s.trk.checked x missing false, mem := s.mem.mirror s.sb.live l }) :
    MarkerChecked x missing false s y where
  keeps := hk
  now := by rw [hy]
  pins := by rw [hy]
  su := by rw [hy]
  latch := by rw [hy]
  trk := by rw [hy]
  holders := State.holdersKept_of_banks (by rw [hy])
  holds k := by rw [hy]; rfl
  stop _ := .inl (by rw [hy])
  lost h := nomatch h
  within _ := ⟨l, hl, hy⟩

theorem State.checkMissing_checked (x : Setup) (s : State) {missing third : Bool}
    (hmiss : missing = (s.trk.sync == .phased && !s.trk.markerSeen)) (hthird : third = (missing && decide (2 ≤ s.trk.errorRun))) :
    MarkerChecked x missing third s (s.checkMissing x) := by
  have hk : Keeps s (s.checkMissing x) := (Keeps.refl s).checkMissing x
  unfold State.checkMissing at hk ⊢
  cases hm : missing with
  | false =>
    have hno : ¬ (s.trk.sync = .phased ∧ s.trk.markerSeen = false) := fun ⟨h1, h2⟩ => by simp [hm, h1, h2] at hmiss
    rw [if_neg hno] at hk ⊢
    rw [hm, Bool.false_and] at hthird
    subst hthird
    exact .of_within hk .nil (by rw [Memory.mirror_nil]; rfl)
  | true =>
    have hyes : s.trk.sync = .phased ∧ s.trk.markerSeen = false := by simpa [hm] using hmiss
    rw [if_pos hyes] at hk ⊢
    rw [hm, Bool.true_and] at hthird
    subst hthird
    by_cases h2 : 2 ≤ s.trk.errorRun
    · rw [decide_eq_true h2]
      have hlost := State.losePhase_lost x { s with
        trk := { s.trk with errorRun := s.trk.errorRun + 1, markerErrors := satCount s.trk.markerErrors }
        mem := s.mem.mirror s.sb.live [(0x1A2, satCount s.trk.markerErrors)] }
      rw [State.markerError_third x h2] at hk ⊢
      exact {
        keeps := hk
        now := hlost.now
        pins := hlost.pins
        su := hlost.su
        latch := hlost.latch
        trk := hlost.trk
        holders := hlost.holders
        holds := hlost.holds
        stop := fun hr => .inr ⟨hlost.notCycle hr, hlost.cycle⟩
        lost := fun _ => ⟨hlost.lost, hlost.gained, hlost.dropped⟩
        within := fun h => nomatch h }
    · rw [decide_eq_false h2]
      refine .of_within hk (l := [(0x1A2, satCount s.trk.markerErrors)]) (by simp [StatusWords]) ?_
      rw [State.markerError_eq x (Nat.lt_of_not_le h2)]
      rfl

/-! ## The boundary -/

/-- The end of mode CYCLE changes the run controller and the flags alone. -/
theorem State.endCycleMode_eq (s : State) :
    s.endCycleMode = { s with ctl := s.endCycleMode.ctl, ev := s.endCycleMode.ev } := by
  unfold State.endCycleMode State.stopEvent State.checkStopped State.setStopMode
  split
  · split <;> rfl
  · rfl

/-- What a cycle boundary leaves (R13, R16, R51, R134, R155 to R158). -/
structure BoundaryMade (x : Setup) (missing third : Bool) (s y : State) : Prop where
  keeps : Keeps s y
  now : y.now = s.now
  pins : y.pins = s.pins
  latch : y.latch = s.latch
  su : y.su = s.su.trimmed x (readTrim s.mem)
  trk : y.trk = { s.trk.checked x missing third with markerSeen := false }
  holders : s.holdersKept y
  holds : ∀ k, (y.cyl k).holdCount = min (s.cyl k).holdCount y.su.trim.holdLimit
  fault : readTrim s.mem = none → y.ev.sticky.getLsbD 12 = true
  lost : third = true → y.ev.sticky.getLsbD 5 = true ∧ (x.phaseAssume = true → y.ev.sticky.getLsbD 4 = true)
    ∧ s.allDropped y .syncDrop s.now
  ends : s.cycleEnds y
  notCycle : s.ctl.run = .stopping → y.ctl.stopMode ≠ .cycle
  outside : third = false → ∀ b, b < 0x180 ∨ 0x300 ≤ b → y.mem.readByte b = s.mem.readByte b ∧ y.mem.byteBad b = s.mem.byteBad b
  within : third = false → y = { s with
    ctl := y.ctl
    ev := y.ev
    su := y.su
    trk := y.trk
    cyls := s.cyls.map fun _ c => c.limited y.su.trim.holdLimit
    mem := y.mem }
  going : third = false → ¬ (s.ctl.run = .stopping ∧ s.ctl.stopMode = .cycle) → y.ctl = s.ctl
    ∧ y.ev = { s.ev with sticky := if readTrim s.mem = none then s.ev.sticky ||| 0x1000 else s.ev.sticky }

/-- The boundary between its marker check and the end of mode CYCLE: marker seen cleared, and the trim copy. -/
def State.boundaryCopied (s : State) : State := (s.modTrk fun t => { t with markerSeen := false }).copyTrim

theorem MarkerChecked.copied {x : Setup} {missing third : Bool} {y : State} (h : MarkerChecked x missing third s y)
    (hm : s.mem.calm) (hx : s.su.setup = some x) : y.mem.calm ∧ ∃ l, StatusWords l ∧ y.boundaryCopied =
      { y with
        su := s.su.trimmed x (readTrim s.mem)
        trk := { s.trk.checked x missing third with markerSeen := false }
        ev := { y.ev with sticky := if readTrim s.mem = none then y.ev.sticky ||| 0x1000 else y.ev.sticky }
        cyls := y.cyls.map fun _ c => c.limited (s.su.trimmed x (readTrim s.mem)).trim.holdLimit
        mem := y.mem.mirror y.sb.live l } := by
  obtain ⟨hc, hb⟩ := h.keeps.hostBytes hm
  obtain ⟨l, hl, hcopy⟩ := State.copyTrim_eq (s := y.modTrk fun t => { t with markerSeen := false }) (x := x) hc
    ((congrArg SetupUnit.setup h.su).trans hx)
  refine ⟨hc, l, hl, hcopy.trans ?_⟩
  have hread : readTrim y.mem = readTrim s.mem := readTrim_congr hb
  simp only [State.modTrk_mem, State.modTrk_su, State.modTrk_ev, State.modTrk_cyls, State.modTrk_sb, hread, h.su]
  rw [← h.trk]
  rfl

/-- A stop in mode CYCLE has ended by a boundary: at the loss of phase that its check made, or after the trim copy (R134). -/
theorem MarkerChecked.stopped {x : Setup} {missing third : Bool} {y b : State} (h : MarkerChecked x missing third s y)
    (hr : s.ctl.run = .stopping) (hctl : b.ctl = y.ctl) (he : ∀ k, (b.cyl k).event.isSome = (y.cyl k).event.isSome)
    (hf : y.ev.sticky.getLsbD 11 = true → b.ev.sticky.getLsbD 11 = true) :
    b.endCycleMode.ctl.stopMode ≠ .cycle ∧ (s.ctl.stopMode = .cycle → b.endCycleMode.stopJudged) := by
  rcases h.stop hr with hs | ⟨hn, hends⟩
  · rw [hs] at hctl
    exact ⟨State.endCycleMode_notCycle (by rw [hctl, hr]), fun hm =>
      State.endCycleMode_judged (by rw [hctl, hr]) (by rw [hctl, hm])⟩
  · rw [State.endCycleMode_of_not fun hb => hn (hctl ▸ hb.2), hctl]
    exact ⟨hn, fun hm => State.stopJudged.congr (hends hr hm) hctl he hf⟩

theorem MarkerChecked.boundary {x : Setup} {missing third : Bool} {y : State} (h : MarkerChecked x missing third s y)
    (hm : s.mem.calm) (hx : s.su.setup = some x) : BoundaryMade x missing third s y.boundaryCopied.endCycleMode := by
  obtain ⟨hc, l, hl, hcopy⟩ := h.copied hm hx
  have hkeeps : Keeps y y.boundaryCopied.endCycleMode := ((Keeps.refl y).modTrk _).copyTrim.endCycleMode
  have hy : y.boundaryCopied.endCycleMode = { y with
      ctl := y.boundaryCopied.endCycleMode.ctl
      ev := y.boundaryCopied.endCycleMode.ev
      su := s.su.trimmed x (readTrim s.mem)
      trk := { s.trk.checked x missing third with markerSeen := false }
      cyls := y.cyls.map fun _ c => c.limited (s.su.trimmed x (readTrim s.mem)).trim.holdLimit
      mem := y.mem.mirror y.sb.live l } := (State.endCycleMode_eq y.boundaryCopied).trans (congrArg (fun b : State =>
    { b with ctl := y.boundaryCopied.endCycleMode.ctl, ev := y.boundaryCopied.endCycleMode.ev }) hcopy)
  have hcyls : y.boundaryCopied.endCycleMode.cyls = _ := congrArg State.cyls hy
  have hstop := fun hr => h.stopped (b := y.boundaryCopied) hr (by rw [hcopy]) (fun k => by
    rw [hcopy]
    simp [State.cyl, Cylinder.limited]) (fun hf => by
    rw [hcopy]
    dsimp only
    split
    · simp [hf]
    · exact hf)
  have hsu : y.boundaryCopied.endCycleMode.su = s.su.trimmed x (readTrim s.mem) := congrArg State.su hy
  refine {
    keeps := h.keeps.trans hkeeps
    now := (congrArg State.now hy).trans h.now
    pins := (congrArg State.pins hy).trans h.pins
    latch := (congrArg State.latch hy).trans h.latch
    su := hsu
    trk := congrArg State.trk hy
    holders := h.holders.trans (State.holdersKept_of_banks (by rw [hy]))
    holds := fun k => ?_
    fault := fun hr => ?_
    lost := fun ht => ?_
    ends := fun h1 h2 => (hstop h1).2 h2
    notCycle := fun h1 => (hstop h1).1
    outside := fun ht => ?_
    within := fun ht => ?_
    going := fun ht hn => ?_ }
  · rw [State.cyl, hcyls, hsu, Eight.get_map, ← h.holds k]
    rfl
  · have hbit : y.boundaryCopied.ev.sticky.getLsbD 12 = true := by
      rw [hcopy]
      simp [hr]
    exact ((Keeps.refl y.boundaryCopied).endCycleMode).bit hbit
  · obtain ⟨h5, h4, hdrop⟩ := h.lost ht
    refine ⟨hkeeps.bit h5, fun ha => hkeeps.bit (h4 ha), hdrop.congr (by rw [hy]) (fun bk => ?_) fun k => ?_⟩
    · rw [State.bank, hy]
      rfl
    · rw [State.cyl, hcyls, Eight.get_map]
      exact ⟨rfl, rfl, rfl, rfl⟩
  · subst ht
    obtain ⟨l', hl', hwithin⟩ := h.within rfl
    have hmem : y.mem = s.mem.mirror s.sb.live l' := congrArg State.mem hwithin
    have hlive : y.sb.live = s.sb.live := by rw [hwithin]
    have hmem' : y.boundaryCopied.endCycleMode.mem = s.mem.mirror s.sb.live (l' ++ l) := by
      rw [← Memory.mirror_mirror, ← hmem, ← hlive]
      exact congrArg State.mem hy
    rw [hmem']
    exact (Memory.mirror_outside (hl'.append hl) hm).2
  · subst ht
    obtain ⟨l', hl', hwithin⟩ := h.within rfl
    have hmem : y.boundaryCopied.endCycleMode.mem = y.mem.mirror y.sb.live l := by rw [hy]
    have htrk : y.boundaryCopied.endCycleMode.trk = { s.trk.checked x missing false with markerSeen := false } := by rw [hy]
    rw [hsu, hmem, htrk]
    subst hwithin
    exact hy
  · subst ht
    obtain ⟨l', hl', hwithin⟩ := h.within rfl
    have hctl : y.boundaryCopied.ctl = s.ctl := by rw [hcopy, hwithin]
    have hid := State.endCycleMode_of_not (s := y.boundaryCopied) (by rw [hctl]; exact hn)
    rw [hid]
    refine ⟨hctl, ?_⟩
    rw [hcopy, hwithin]

/-! ## The edge event after a boundary -/

/-- With no latch to be made, the edge event is made of operations behind the latch (R21, R24). -/
theorem State.edgeEvent_plays (x : Setup) (r : Bool) {w : State} (hl : w.ctl.latches = false) :
    Plays w.edgeShown (w.edgeEvent x r) := by
  cases hf : w.trk.canFire
  · rw [State.edgeEvent_of_quiet x r hf]
    have hplays : Plays (w.setMem (w.mem.mirror w.sb.live (edgeWords w.trk))) _ := (Plays.refl _).truncateServices
    have hstart : Plays w.edgeShown (w.setMem (w.mem.mirror w.sb.live (edgeWords w.trk))) :=
      (Plays.refl _).step rfl rfl (fun _ => ⟨rfl, rfl⟩) id (.refl _)
    exact (hstart.trans hplays).step rfl rfl (fun _ => ⟨rfl, rfl⟩) id (.refl _)
  · rw [(w.edgeEvent_served x r).1 hf]
    have hplays : Plays w.edgeShown w.edgeShown.truncateServices := (Plays.refl _).truncateServices
    have hnone : w.edgeShown.truncateServices.ctl.latches = false := by
      rcases hplays.ctl with hc | ⟨-, hc⟩
      · rw [hc]
        exact hl
      · rw [hc]
        rfl
    rw [State.latchAll, hnone, if_neg (by simp)]
    exact hplays.armAll _ _

/-- A stop whose mode CYCLE has ended makes no latch. -/
theorem Control.latches_of_ended {c d : Control} (h : RunStep c d) (hc : c.run = .stopping) (hd : d.stopMode ≠ .cycle) :
    d.latches = false := by
  unfold Control.latches
  rcases h with ⟨h, -⟩ | ⟨-, h, -⟩
  · simp [h, hc, hd]
  · simp [h]

/-- The state a boundary edge is judged from, and the one it is judged to. -/
def State.boundaryStart (x : Setup) (k : Nat) (zero : Bool) (i : Nat) (t : Time) (sense : Four BankSense) (s : State) : State :=
  ((s.edgeMeasured x (.pass k zero) i t sense).modTrk (Tracker.advance x k zero)).modTrk fun y => { y with cycle := y.cycle + 1 }

def State.boundaryEnd (x : Setup) (k : Nat) (zero : Bool) (i : Nat) (t : Time) (sense : Four BankSense) (s : State) : State :=
  ((s.boundaryStart x k zero i t sense).checkMissing x).boundaryCopied.endCycleMode

/-- An edge that passes its check and is a cycle boundary (R13). -/
theorem State.edgeJudged_boundary {x : Setup} {k : Nat} {zero r : Bool} (i : Nat) (t : Time) (sense : Four BankSense)
    (hf : s.trk.canFire = true) (hr : r = if zero then !s.trk.rev else s.trk.rev) (ha : x.angle r k < s.trk.lastAngle) :
    s.edgeJudged x (.pass k zero) i t sense = (s.boundaryEnd x k zero i t sense).decideEdge := by
  have hs : (s.edgeMeasured x (.pass k zero) i t sense).trk.angleKnown = true := by
    show s.trk.angleKnown = true
    unfold Tracker.canFire at hf
    rw [Bool.or_eq_true, Bool.and_eq_true, beq_iff_eq, beq_iff_eq] at hf
    exact s.trk.angleKnown_iff.2 (hf.elim .inr fun h => .inl h.1)
  have hb : (s.edgeMeasured x (.pass k zero) i t sense).trk.atBoundary x k zero = true := by
    subst hr
    exact Bool.and_eq_true_iff.2 ⟨hf, decide_eq_true ha⟩
  unfold State.edgeJudged State.trackEdge State.syncedEdge
  dsimp only
  rw [if_pos hs, if_pos hb]
  rfl

end Sys2Proof.Machine

/-! # A cycle boundary: the edge -/

namespace Sys2Proof.Machine

/-- The tracker that a boundary edge leaves (R12, R13, R16, R17, R19, R22). -/
def Tracker.bounded (x : Setup) (m : Trim) (k : Nat) (zero r : Bool) (missing third : Bool) (i : Nat) (t : Time) (y : Tracker) :
    Tracker :=
  { (y.measured x m (if zero then x.m + 1 else 1) false i t) with
    sync := if third then .crankSync else y.sync
    phaseAssumed := if third then x.phaseAssume else y.phaseAssumed
    tooth := k, rev := r, lastAngle := x.angle r k, cycle := y.cycle + 1, markerSeen := false
    errorRun := if third then 0 else if missing then y.errorRun + 1 else y.errorRun
    markerErrors := if missing then satCount y.markerErrors else y.markerErrors
    syncLosses := if third then satCount y.syncLosses else y.syncLosses }

section
variable {x : Setup} {s : State} {k : Nat} {zero r missing third : Bool} {i : Nat} {t : Time} {sense : Four BankSense}

theorem State.boundaryEnd_made (hm : s.mem.calm) (hx : s.su.setup = some x)
    (hmiss : missing = (s.trk.sync == .phased && !s.trk.markerSeen)) (hthird : third = (missing && decide (2 ≤ s.trk.errorRun))) :
    BoundaryMade x missing third (s.boundaryStart x k zero i t sense) (s.boundaryEnd x k zero i t sense) :=
  ((s.boundaryStart x k zero i t sense).checkMissing_checked x hmiss hthird).boundary hm hx

/-- The tracker that the edge is judged to. -/
theorem BoundaryMade.judged_trk (h : BoundaryMade x missing third (s.boundaryStart x k zero i t sense)
      (s.boundaryEnd x k zero i t sense))
    (hphase : third = true → s.trk.phaseAssumed = false) (hr : r = if zero then !s.trk.rev else s.trk.rev) :
    (s.boundaryEnd x k zero i t sense).decideEdge.trk =
      { s.trk.bounded x (s.boundaryEnd x k zero i t sense).su.trim k zero r missing third i t with
        reacquire := third && x.phaseAssume } := by
  show (s.boundaryEnd x k zero i t sense).trk.decideAtEdge (s.boundaryEnd x k zero i t sense).su.trim = _
  rw [h.trk, hr]
  cases third
  · rfl
  · have hp := hphase rfl
    simp only [Tracker.checked, Tracker.bounded, if_true, Bool.true_and]
    have hor : (x.phaseAssume || (s.boundaryStart x k zero i t sense).trk.phaseAssumed) = x.phaseAssume := by
      rw [show (s.boundaryStart x k zero i t sense).trk.phaseAssumed = false from hp, Bool.or_false]
    rw [hor]
    rfl

/-- Firing is possible at a boundary but for a phase lost without the assumption (R17, R21). -/
theorem Tracker.bounded_canFire (m : Trim) {y : Tracker} {b : Bool}
    (hphase : (y.sync = .phased ∧ y.phaseAssumed = false) ∨ (y.sync = .crankSync ∧ y.phaseAssumed = true)) :
    ({ y.bounded x m k zero r missing third i t with reacquire := b } : Tracker).canFire = (!third || x.phaseAssume) := by
  unfold Tracker.canFire Tracker.bounded
  cases third
  · rcases hphase with ⟨h1, h2⟩ | ⟨h1, h2⟩ <;> simp [h1, h2]
  · simp

theorem State.boundaryEnd_banksOk (h : s.banksOk) : (s.boundaryEnd x k zero i t sense).banksOk := by
  have hstart : (s.boundaryStart x k zero i t sense).banksOk := banksOk_congr h rfl
  refine banksOk_endCycleMode (banksOk_congr (banksOk_checkMissing hstart x) ?_)
  rw [State.boundaryCopied, State.copyTrim_banks]
  rfl

/-- The state that the latch and the arming unit find at a boundary edge, its tracker being `y` (R21). -/
def State.boundaryShown (b : State) (y : Tracker) (third : Bool) : State :=
  { b with
    trk := { y with reacquire := third }
    mem := b.mem.mirror b.sb.live (edgeWords y) }

/-- A boundary edge: the state it is judged to, and what its edge event shows. -/
theorem BoundaryMade.shown (h : BoundaryMade x missing third (s.boundaryStart x k zero i t sense)
      (s.boundaryEnd x k zero i t sense))
    (hphase : (s.trk.sync = .phased ∧ s.trk.phaseAssumed = false) ∨ (s.trk.sync = .crankSync ∧ s.trk.phaseAssumed = true))
    (hthird : third = true → s.trk.sync = .phased) (hr : r = if zero then !s.trk.rev else s.trk.rev) :
    (s.boundaryEnd x k zero i t sense).decideEdge.trk.canFire = (!third || x.phaseAssume)
      ∧ (s.boundaryEnd x k zero i t sense).decideEdge.edgeShown = (s.boundaryEnd x k zero i t sense).boundaryShown
        (s.trk.bounded x (s.boundaryEnd x k zero i t sense).su.trim k zero r missing third i t) third := by
  have hassumed : third = true → s.trk.phaseAssumed = false := fun ht => by
    rcases hphase with ⟨-, h2⟩ | ⟨h1, -⟩
    · exact h2
    · exact absurd (h1.symm.trans (hthird ht)) (by simp)
  have htrk := h.judged_trk hassumed hr
  have hfire : (s.boundaryEnd x k zero i t sense).decideEdge.trk.canFire = (!third || x.phaseAssume) := by
    rw [htrk]
    exact Tracker.bounded_canFire _ hphase
  have hmark : (third && x.phaseAssume || !(!third || x.phaseAssume)) = third := by cases third <;> cases x.phaseAssume <;> rfl
  refine ⟨hfire, ?_⟩
  rw [State.edgeShown, hfire, htrk]
  dsimp only
  rw [hmark]
  rfl

/-- The words of a boundary edge (R21). -/
theorem Tracker.bounded_words (m : Trim) {y : Tracker} (h : y.sync = .crankSync ∨ y.sync = .phased) : ∃ l,
    edgeWords (y.bounded x m k zero r missing third i t) = l ∧ StatusWords l ∧ (0x184, y.cycle + 1) ∈ l
      ∧ (0x18C, BitVec.ofNat 16 (x.angle r k)) ∈ l ∧ (l.map Prod.fst).Pairwise (fun a b => a + 2 ≤ b ∨ b + 2 ≤ a)
      ∧ ∀ a ∈ l.map Prod.fst, a + 1 < memBytes := by
  refine ⟨_, rfl, edgeWords_in _, ?_⟩
  rw [edgeWords_known (t := t) (by cases third <;> simp [Tracker.bounded, h]) rfl]
  refine ⟨?_, ?_, by simp, by simp [memBytes]⟩
  · simp [Tracker.bounded]
  · simp [Tracker.bounded]

/-- No pulse is left waiting where phase is lost at a boundary, and no edge fires (R16, R23). -/
theorem State.allDropped.quietEdge {w y : State} {o : PulseOutcome} {v : Time} (h : s.allDropped w o v) (hok : w.banksOk)
    (hf : w.trk.canFire = false) (rq : Bool) (hy : y = w.edgeEvent x rq) : s.allDropped y o v := by
  rw [hy, State.edgeEvent_of_quiet x rq hf]
  have hw := WaitsKept.truncateServices (banksOk_congr (t := w.setMem (w.mem.mirror w.sb.live (edgeWords w.trk))) hok rfl)
  have hq : s.allDropped (w.setMem (w.mem.mirror w.sb.live (edgeWords w.trk))) o v :=
    h.congr rfl (fun _ => rfl) fun _ => ⟨rfl, rfl, rfl, rfl⟩
  exact hq.congr hw.arm hw.waiting hw.events

end

/-- Settles O20: the boundary is made in `z` (`MarkerChecked.boundary`), and the edge event acts upon it
(`State.edgeEvent_served`, `State.edgeEvent_plays`). -/
theorem cycleBoundary : Obligations.CycleBoundary := by
  intro u s t sense i x h hm hphase hx hgap zero k r a missing third m hz hk hr ha hlt hmiss hthird htrim
  rw [← u.angle_eq] at ha
  subst ha
  have hsync : s.trk.sync = .crankSync ∨ s.trk.sync = .phased := hphase.elim (fun p => .inr p.1) fun p => .inl p.1
  have hfire : s.trk.canFire = true := by
    rw [Tracker.canFire_known hsync]
    rcases hphase with ⟨h1, h2⟩ | ⟨h1, h2⟩ <;> simp [h1, h2]
  have hphased : third = true → s.trk.sync = .phased := fun ht => by
    have hmt : missing = true := (Bool.and_eq_true_iff.1 (hthird.symm.trans ht)).1
    exact beq_iff_eq.1 (Bool.and_eq_true_iff.1 (hmiss.symm.trans hmt)).1
  have hexec := h.exec_eq sense (Tracker.judge_pass hsync hx hgap hz hk)
  rw [State.edgeJudged_boundary i t sense hfire hr hlt] at hexec
  have hmade : BoundaryMade u missing third (s.boundaryStart u k zero i t sense) (s.boundaryEnd u k zero i t sense) :=
    State.boundaryEnd_made hm h.setup hmiss hthird
  have hok : s.banksOk → (s.boundaryEnd u k zero i t sense).banksOk := State.boundaryEnd_banksOk
  obtain ⟨hcan, hshown⟩ := hmade.shown hphase hphased hr
  generalize s.boundaryEnd u k zero i t sense = b at hexec hmade hok hcan hshown
  have hsu : b.su = s.su.trimmed u (readTrim s.mem) := hmade.su
  have hm' : b.su.trim = m := by
    rw [hsu, htrim]
    cases readTrim s.mem <;> rfl
  rw [hm'] at hshown
  obtain ⟨l, hl, hlin, hl1, hl2, hpair, hrange⟩ := Tracker.bounded_words (x := u) (k := k) (zero := zero) (r := r)
    (missing := missing) (third := third) (i := i) (t := t) m hsync
  have hcalm : b.mem.calm := (hmade.keeps.hostBytes hm).1
  have hlive : b.sb.live = s.sb.live := hmade.keeps.live
  obtain ⟨hzcalm, hzout⟩ := Memory.mirror_outside (live := b.sb.live) hlin hcalm
  have hzshows := b.mem.shown_of b.sb.live hpair hrange
  have hserved := State.edgeEvent_served u s.trk.reacquire b.decideEdge
  obtain ⟨hytrk, hysu, -, hsticky⟩ := State.edgeEvent_trk u s.trk.reacquire b.decideEdge
  have hplays : s.ctl.run = .stopping → Plays b.decideEdge.edgeShown (b.decideEdge.edgeEvent u s.trk.reacquire) := fun h1 =>
    State.edgeEvent_plays u _ (Control.latches_of_ended hmade.keeps.ctl h1 (hmade.notCycle h1))
  rw [hshown] at hytrk hserved hplays
  rw [hcan] at hserved
  rw [State.boundaryShown, hl] at hytrk hserved hplays
  refine ⟨_, _, hexec, hserved, hmade.now, hmade.pins, hmade.latch, (State.holdersKept_of_banks (s := s) rfl).trans hmade.holders,
    hzcalm, fun k' => ?_, fun hlv => ⟨?_, ?_⟩, hytrk, hysu, ?_, ?_, rfl, ?_, ?_, ?_, ?_, ?_⟩
  · rw [← hm']
    exact hmade.holds k'
  · exact (hzshows.shows hcalm (hlive.trans hlv)).2 (0x184, s.trk.cycle + 1) hl1
  · exact (hzshows.shows hcalm (hlive.trans hlv)).2 (0x18C, BitVec.ofNat 16 (u.angle r k)) hl2
  · intro slot raw hread
    rw [hread] at hsu
    rw [← hm']
    exact hsu.trans (by rw [hsu]; rfl)
  · intro hread
    exact ⟨hsu.trans (by rw [hread]; rfl), sticky_kept hsticky (hmade.fault hread)⟩
  · intro ht
    obtain ⟨h5, h4, hdrop⟩ := hmade.lost ht
    refine ⟨sticky_kept hsticky h5, fun hp => sticky_kept hsticky (h4 hp), fun _ => ?_, fun hp hb => ?_⟩
    · exact State.allDropped.congr (s := s) hdrop rfl (fun _ => rfl) fun _ => ⟨rfl, rfl, rfl, rfl⟩
    · have hquiet : b.decideEdge.trk.canFire = false := by rw [hcan, ht, hp]; rfl
      have hw : s.allDropped b.decideEdge .syncDrop t :=
        State.allDropped.congr (s := s) hdrop rfl (fun _ => rfl) fun _ => ⟨rfl, rfl, rfl, rfl⟩
      exact hw.quietEdge (x := u) (banksOk_congr (hok hb) rfl) hquiet s.trk.reacquire rfl
  · intro ht
    refine ⟨?_, fun c hc => ?_, hmade.going ht⟩
    · rw [← hm']
      exact congrArg (fun c : State => { c with
        trk := { s.trk.bounded u b.su.trim k zero r missing third i t with reacquire := third }
        mem := b.mem.mirror b.sb.live l }) (hmade.within ht)
    · obtain ⟨g1, g2⟩ := hmade.outside ht c hc
      exact ⟨(hzout c hc).1.trans g1, (hzout c hc).2.trans g2⟩
  · exact fun h1 => (hplays h1).notCycle (hmade.notCycle h1)
  · exact hmade.ends
  · exact fun h1 h2 => (hplays h1).judged (hmade.ends h1 h2)

end Sys2Proof.Machine

/-! # LOAD: acceptance and failure, and what the reading reads -/

namespace Sys2Proof.Machine

/-! ## The two moves -/

/-- LOAD taken in STOPPED and READY (R128, R131). -/
theorem exec_load_accepted (arg : Byte) (top : BitVec 4) {s : State} (hh : s.held = false)
    (hr : s.ctl.run = .stopped ∨ s.ctl.run = .ready) :
    exec (.load arg top []) s = .next (s.answer (requestWord 1 arg top) .accepted).beginLoad := by
  have htakes : s.ctl.run.takesLoad = true := by rcases hr with hr | hr <;> rw [hr] <;> rfl
  show Host.Outcome.next (State.takeRequest (requestWord 1 arg top) s.ctl.run.takesLoad State.beginLoad s) = _
  rw [State.takeRequest, hh, htakes]
  rfl

/-- The words of the move to NO_SIGNAL (R1, R183). -/
theorem Tracker.idle_words (x : Tracker) : syncWords x.idle ++ tLastWords x.idle = [(0x186, 0), (0x188, 0), (0x18A, 0)] := by
  have hlast : x.idle.tLast = none := rfl
  simp only [syncWords, tLastWords, tLastTicks, lowWord_ofNat, highWord_ofNat, hlast]
  rfl

theorem State.beginLoad_eq (s : State) : s.beginLoad =
    { s with
      ctl := { s.ctl with run := .loading }
      ev := { s.ev with sticky := s.ev.sticky ||| 0x0800 }
      su := { s.su with staging := [] }
      trk := s.trk.idle
      mem := s.mem.mirror s.sb.live [(0x186, 0), (0x188, 0), (0x18A, 0)] } := by
  unfold State.beginLoad State.idleTracker
  rw [State.statusAll_eq, Tracker.idle_words]
  rfl

/-- LOAD failure: the two error fields written, and the moves (R151). -/
theorem State.failLoad_eq (e : SetupError) (s : State) : s.failLoad e =
    { s with
      ctl := { s.ctl with run := .stopped }
      ev := { s.ev with sticky := s.ev.sticky ||| 0x0800 }
      su := { s.su with setup := none, staging := [], error := e }
      trk := s.trk.idle
      mem := s.mem.putAll [(0x194, BitVec.ofNat 16 (e.code % 256)), (0x196, e.offset)] } := rfl

/-! ## The reading -/

theorem stageWords_length (m : Memory) : ∀ n i, (stageWords m n i).length = 2 * n
  | 0, _ => rfl
  | n + 1, i => by
    simp only [stageWords, List.length_cons, stageWords_length m n (i + 1)]
    omega

/-- The bytes of the words read, in their order (R147). -/
theorem stageWords_getElem? (m : Memory) : ∀ n i b, b < 2 * n →
    (stageWords m n i)[b]? = some (stageByte m (stagedOffset (i + b / 2) + b % 2))
  | n + 1, i, 0, _ => rfl
  | n + 1, i, 1, _ => rfl
  | n + 1, i, b + 2, h => by
    have ih := stageWords_getElem? m n (i + 1) b (by omega)
    rw [show i + 1 + b / 2 = i + (b + 2) / 2 by omega, show b % 2 = (b + 2) % 2 by omega] at ih
    exact ih

/-- How many words of the profile table a LOAD reads (R147). -/
def profileWordsNamed (m : Memory) : Nat :=
  if m.byteBad 0x0F = false ∧ 1 ≤ (m.readByte 0x0F).toNat ∧ (m.readByte 0x0F).toNat ≤ 8 then 16 * (m.readByte 0x0F).toNat else 0

theorem profileWords_stageWords (m : Memory) : profileWords (stageWords m 128 0) = profileWordsNamed m := by
  unfold profileWords profileWordsNamed
  rw [stageWords_getElem? m 128 0 0x0F (by decide)]
  simp [stageByte, stagedOffset, and_assoc]

/-- A LOAD that meets no write reads the setup block, and then the profiles that PROFILE_COUNT names (R147). -/
theorem stageAll_eq (m : Memory) :
    stageAll m [] = stageWords m 128 0 ++ stageWords m (profileWordsNamed m) 128 := by
  have hlen : profileWordsNamed m ≤ 128 := by
    unfold profileWordsNamed
    split <;> omega
  unfold stageAll stageMore
  simp only [List.length_nil, List.nil_append, Nat.zero_div, Nat.sub_zero, Nat.zero_add, show min 256 128 = 128 from rfl,
    Nat.lt_irrefl, if_false, profileWords_stageWords]
  rw [show min (256 - 128) (128 + profileWordsNamed m - 128) = profileWordsNamed m by omega]

theorem stageAll_length (m : Memory) : (stageAll m []).length = 256 + 2 * profileWordsNamed m := by
  rw [stageAll_eq, List.length_append, stageWords_length, stageWords_length]

theorem stageAll_getElem? (m : Memory) {i : Nat} (hi : i < (stageAll m []).length) :
    (stageAll m [])[i]? = some (stageByte m (if i < 256 then i else i + 512)) := by
  rw [stageAll_length] at hi
  rw [stageAll_eq]
  by_cases h : i < 256
  · rw [List.getElem?_append_left (by rw [stageWords_length]; omega), stageWords_getElem? _ _ _ _ h, if_pos h, stagedOffset,
      if_pos (by omega), show 2 * (0 + i / 2) + i % 2 = i by omega]
  · rw [List.getElem?_append_right (by rw [stageWords_length]; omega), stageWords_length,
      stageWords_getElem? _ _ _ _ (by omega), if_neg h, stagedOffset, if_neg (by omega),
      show 0x0300 + 2 * (128 + (i - 2 * 128) / 2 - 128) + (i - 2 * 128) % 2 = i + 512 by omega]

end Sys2Proof.Machine

/-! # LOAD: the ordered checks

The fifteen checks as one list in their order, each with what fails it, its code and its byte offset; the error of a LOAD is the
first that fails (R147 to R151). -/

namespace Sys2Proof.Machine

/-- A check of a LOAD: whether it fails, its code, and the byte offset it reports. -/
abbrev LoadCheck := Bool × Nat × Nat

/-- The error of the first check of a list that fails. -/
def firstFail (l : List LoadCheck) : Option SetupError :=
  (l.find? fun c => c.1).map fun c => ⟨c.2.1, BitVec.ofNat 16 c.2.2⟩

theorem firstFail_cons (c : Bool) (code off : Nat) (l : List LoadCheck) :
    firstFail ((c, code, off) :: l) = (failIf c code off <|> firstFail l) := by
  cases c <;> rfl

theorem firstFail_one (c : Bool) (code off : Nat) : firstFail [(c, code, off)] = failIf c code off := by
  cases c <;> rfl

/-- A list of two checks and more, without a last alternative that never fails. -/
theorem firstFail_cons_cons (c : Bool) (code off : Nat) (b : LoadCheck) (l : List LoadCheck) :
    firstFail ((c, code, off) :: b :: l) = (failIf c code off <|> firstFail (b :: l)) := firstFail_cons c code off _

theorem firstFail_append (l l' : List LoadCheck) : firstFail (l ++ l') = (firstFail l <|> firstFail l') := by
  unfold firstFail
  rw [List.find?_append]
  cases l.find? fun c => c.1 <;> rfl

theorem firstFail_flatMap {α : Type} (f : α → List LoadCheck) (l : List α) :
    firstFail (l.flatMap f) = l.findSome? fun a => firstFail (f a) := by
  induction l with
  | nil => rfl
  | cons a rest ih =>
    rw [List.flatMap_cons, firstFail_append, ih, List.findSome?_cons]
    cases firstFail (f a) <;> rfl

theorem firstFail_map {α : Type} (c : α → Bool) (code : Nat) (off : α → Nat) (l : List α) :
    firstFail (l.map fun a => (c a, code, off a)) = l.findSome? fun a => failIf (c a) code (off a) := by
  induction l with
  | nil => rfl
  | cons a rest ih =>
    rw [List.map_cons, firstFail_cons, ih, List.findSome?_cons]
    cases failIf (c a) code (off a) <;> rfl

/-! ## Parity -/

theorem find?_range_bad (st : List StagedByte) :
    (List.range st.length).find? (fun i => (st[i]?).any fun b => b.bad) = st.findIdx? fun b => b.bad := by
  induction st with
  | nil => rfl
  | cons b rest ih =>
    rw [List.length_cons, List.range_succ_eq_map, List.find?_cons, List.findIdx?_cons, List.find?_map, ← ih]
    cases hb : b.bad with
    | true => simp [hb]
    | false => simp [hb]

/-- Check 1 over the bytes in the order of reading (R147). -/
theorem checkParity_eq (st : List StagedByte) : checkParity st =
    firstFail ((List.range st.length).map fun i => ((st[i]?).any fun b => b.bad, 1, if i < 256 then i else i + 512)) := by
  have hbad : ((fun c : LoadCheck => c.1) ∘ fun i : Nat => ((st[i]?).any fun b => b.bad, 1, if i < 256 then i else i + 512)) =
      fun i => (st[i]?).any fun b => b.bad := rfl
  unfold checkParity firstFail
  rw [List.find?_map, hbad, ← find?_range_bad]
  cases (List.range st.length).find? fun i => (st[i]?).any fun b => b.bad with
  | none => rfl
  | some i =>
    by_cases hi : i < 256
    · simp [hi]
    · simp [hi, show i - 256 + 768 = i + 512 by omega]

end Sys2Proof.Machine

/-! # LOAD: the wheel, the cylinders and the banks -/

namespace Sys2Proof.Machine

/-- The bytes and the words of a staging copy by their offset in the exchange memory, where the setup block and the profile table
lie. -/
structure StagedFields (st : List StagedByte) (byte word : Nat → Nat) : Prop where
  byte_eq : ∀ a, a < 256 ∨ 768 ≤ a → u8 st a = byte a
  word_eq : ∀ a, a + 1 < 256 ∨ 768 ≤ a → u16 st a = word a

/-- Checks 2 to 6 (R148). -/
def wheelChecks (byte word : Nat → Nat) : List LoadCheck :=
  [(decide (byte 0x00 < 24) || decide (72 < byte 0x00) || decide (11520 % byte 0x00 ≠ 0), 2, 0x00),
    (decide (byte 0x01 ≠ 1) && decide (byte 0x01 ≠ 2), 2, 0x01), (decide (23040 ≤ word 0x02), 3, 0x02),
    (decide (byte 0x04 < 20) || decide (48 < byte 0x04), 4, 0x04),
    (decide (word 0x06 < 10) || decide (1600 < word 0x06), 5, 0x06),
    (decide (23040 ≤ word 0x08), 6, 0x08), (decide (23040 ≤ word 0x0A), 6, 0x0A),
    (decide (5760 < (word 0x0A + 23040 - word 0x08) % 23040 + 1), 6, 0x0A)]

section
variable {st : List StagedByte} {byte word : Nat → Nat}

theorem checkWheel_eq (h : StagedFields st byte word) : checkWheel st = firstFail (wheelChecks byte word) := by
  simp only [wheelChecks, firstFail_cons_cons, firstFail_one]
  simp (disch := omega) only [checkWheel, h.byte_eq, h.word_eq, revSteps, cycleSteps]

/-! ## Cylinders and banks -/

/-- The configured cylinders by their number less one, and the banks they name, as LOAD's checks go through them (R149). -/
def loadCyls (byte : Nat → Nat) : List Nat := (List.range 8).filter fun k => decide (k < byte 0x0E)

def loadBanks (byte : Nat → Nat) : List Nat :=
  (List.range 4).filter fun b => (loadCyls byte).any fun k => byte (0x22 + 8 * k) == b

/-- Two TDC angles closer than 960 steps (R149). -/
def tdcNear (a b : Nat) : Bool := decide (min ((a + 23040 - b) % 23040) ((b + 23040 - a) % 23040) < 960)

/-- The checks of one bank in use (R149). -/
def bankChecks (byte word : Nat → Nat) (b : Nat) : List LoadCheck :=
  [(decide (byte (0x60 + 8 * b) < 1), 11, 0x60 + 8 * b),
    (decide (byte (0x60 + 8 * b) ≤ byte (0x61 + 8 * b)), 11, 0x61 + 8 * b),
    (decide (word (0x62 + 8 * b) < 100) || decide (20000 < word (0x62 + 8 * b)), 11, 0x62 + 8 * b)]

/-- Checks 7 to 11 (R149). -/
def cylinderChecks (byte word : Nat → Nat) : List LoadCheck :=
  [(decide (byte 0x0E < 1) || decide (8 < byte 0x0E), 7, 0x0E)]
    ++ (loadCyls byte).map (fun k => (decide (23040 ≤ word (0x20 + 8 * k))
      || (List.range k).any (fun j => tdcNear (word (0x20 + 8 * k)) (word (0x20 + 8 * j))), 8, 0x20 + 8 * k))
    ++ (loadCyls byte).map (fun k => (decide (3 < byte (0x22 + 8 * k)), 9, 0x22 + 8 * k))
    ++ (loadCyls byte).map (fun k => (decide (10000 < word (0x24 + 8 * k)), 10, 0x24 + 8 * k))
    ++ (loadBanks byte).flatMap (bankChecks byte word)

theorem cylNumber_range (k : CylId) : 1 ≤ k.number ∧ k.number ≤ 8 := by cases k <;> decide

theorem loadCyls_eq (byte : Nat → Nat) : loadCyls byte = (cylsUpTo (byte 0x0E)).map fun k => k.number - 1 := by
  have hrange : List.range 8 = CylId.all.map fun k => k.number - 1 := by decide
  unfold loadCyls cylsUpTo
  rw [hrange, List.filter_map]
  refine congrArg _ (List.filter_congr fun k _ => ?_)
  have hk := cylNumber_range k
  show decide (k.number - 1 < byte 0x0E) = _
  exact decide_eq_decide.2 (by omega)

theorem mem_cylsUpTo {k : CylId} {count : Nat} : k ∈ cylsUpTo count ↔ k.number ≤ count := by
  have hall : k ∈ CylId.all := by cases k <;> decide
  simp [cylsUpTo, hall]

/-- A test of the cylinders before a configured one. -/
theorem any_range_cyls {count : Nat} {k : CylId} (hk : k ∈ cylsUpTo count) (f : Nat → Bool) :
    (List.range (k.number - 1)).any f = (cylsUpTo count).any fun j => decide (j.number < k.number) && f (j.number - 1) := by
  have hle := mem_cylsUpTo.1 hk
  rw [Bool.eq_iff_iff, List.any_eq_true, List.any_eq_true]
  constructor
  · rintro ⟨i, hi, hf⟩
    have hlt := List.mem_range.1 hi
    obtain ⟨j, hj⟩ : ∃ j : CylId, j.number = i + 1 := by
      have hi7 : i < 7 := by
        have := cylNumber_range k
        omega
      interval_cases i
      exacts [⟨.c1, rfl⟩, ⟨.c2, rfl⟩, ⟨.c3, rfl⟩, ⟨.c4, rfl⟩, ⟨.c5, rfl⟩, ⟨.c6, rfl⟩, ⟨.c7, rfl⟩]
    refine ⟨j, mem_cylsUpTo.2 (by omega), ?_⟩
    rw [hj, Bool.and_eq_true]
    exact ⟨decide_eq_true (by omega), hf⟩
  · rintro ⟨j, -, hj⟩
    obtain ⟨h1, h2⟩ := Bool.and_eq_true_iff.1 hj
    have := of_decide_eq_true h1
    have := cylNumber_range j
    exact ⟨j.number - 1, List.mem_range.2 (by omega), h2⟩

theorem StagedFields.tdc (h : StagedFields st byte word) (k : CylId) :
    u16 st (offTdc k) = word (0x20 + 8 * (k.number - 1)) := by
  have := cylNumber_range k
  exact h.word_eq _ (by unfold offTdc; omega)

theorem StagedFields.bankField (h : StagedFields st byte word) (k : CylId) :
    u8 st (offBankField k) = byte (0x22 + 8 * (k.number - 1)) := by
  have := cylNumber_range k
  rw [h.byte_eq _ (by unfold offBankField offTdc; omega)]
  exact congrArg byte (by unfold offBankField offTdc; omega)

theorem StagedFields.lead (h : StagedFields st byte word) (k : CylId) :
    u16 st (offLead k) = word (0x24 + 8 * (k.number - 1)) := by
  have := cylNumber_range k
  rw [h.word_eq _ (by unfold offLead offTdc; omega)]
  exact congrArg word (by unfold offLead offTdc; omega)

theorem loadBanks_eq (h : StagedFields st byte word) :
    loadBanks byte = (banksInUse st (u8 st 0x0E)).map BankId.index := by
  have hrange : List.range 4 = BankId.all.map BankId.index := by decide
  unfold loadBanks banksInUse
  rw [hrange, List.filter_map]
  refine congrArg _ (List.filter_congr fun bk _ => ?_)
  simp only [Function.comp, bankInUse, loadCyls_eq, List.any_map, h.bankField, h.byte_eq 0x0E (by omega)]
  rfl

theorem bankIndex_lt (bk : BankId) : bk.index < 4 := by cases bk <;> decide

theorem firstFail_bankChecks (h : StagedFields st byte word) (bk : BankId) :
    firstFail (bankChecks byte word bk.index) =
      (failIf (decide (u8 st (offBankSetup bk) < 1)) 11 (offBankSetup bk)
        <|> failIf (decide (u8 st (offBankSetup bk) ≤ u8 st (offBankSetup bk + 1))) 11 (offBankSetup bk + 1)
        <|> failIf (decide (u16 st (offBankSetup bk + 2) < 100) || decide (20000 < u16 st (offBankSetup bk + 2))) 11
          (offBankSetup bk + 2)) := by
  have hb := bankIndex_lt bk
  simp only [bankChecks, firstFail_cons_cons, firstFail_one]
  have h1 : offBankSetup bk + 1 = 0x61 + 8 * bk.index := by unfold offBankSetup; omega
  have h2 : offBankSetup bk + 2 = 0x62 + 8 * bk.index := by unfold offBankSetup; omega
  rw [h1, h2, h.byte_eq _ (by unfold offBankSetup; omega), h.byte_eq _ (by omega), h.word_eq _ (by omega)]
  rfl

theorem tdcChecks_eq (h : StagedFields st byte word) :
    (loadCyls byte).map (fun k => (decide (23040 ≤ word (0x20 + 8 * k))
      || (List.range k).any (fun j => tdcNear (word (0x20 + 8 * k)) (word (0x20 + 8 * j))), 8, 0x20 + 8 * k)) =
    (cylsUpTo (byte 0x0E)).map fun k => (decide (cycleSteps ≤ u16 st (offTdc k)) || (cylsUpTo (byte 0x0E)).any (fun j =>
      decide (j.number < k.number) && decide (angleDistance (u16 st (offTdc k)) (u16 st (offTdc j)) < 960)), 8, offTdc k) := by
  rw [loadCyls_eq, List.map_map]
  refine List.map_congr_left fun k hk => ?_
  simp only [Function.comp, any_range_cyls hk, h.tdc]
  rfl

theorem bankFieldChecks_eq (h : StagedFields st byte word) :
    (loadCyls byte).map (fun k => (decide (3 < byte (0x22 + 8 * k)), 9, 0x22 + 8 * k)) =
      (cylsUpTo (byte 0x0E)).map fun k => (decide (3 < u8 st (offBankField k)), 9, offBankField k) := by
  rw [loadCyls_eq, List.map_map]
  refine List.map_congr_left fun k _ => ?_
  have hoff : 0x22 + 8 * (k.number - 1) = offBankField k := by unfold offBankField offTdc; omega
  simp only [Function.comp, h.bankField, hoff]

theorem leadChecks_eq (h : StagedFields st byte word) :
    (loadCyls byte).map (fun k => (decide (10000 < word (0x24 + 8 * k)), 10, 0x24 + 8 * k)) =
      (cylsUpTo (byte 0x0E)).map fun k => (decide (10000 < u16 st (offLead k)), 10, offLead k) := by
  rw [loadCyls_eq, List.map_map]
  refine List.map_congr_left fun k _ => ?_
  have hoff : 0x24 + 8 * (k.number - 1) = offLead k := by unfold offLead offTdc; omega
  simp only [Function.comp, h.lead, hoff]

theorem checkCylinders_eq (h : StagedFields st byte word) : checkCylinders st = firstFail (cylinderChecks byte word) := by
  have hcount : u8 st 0x0E = byte 0x0E := h.byte_eq 0x0E (by omega)
  have hbanks : firstFail ((loadBanks byte).flatMap (bankChecks byte word)) =
      (banksInUse st (u8 st 0x0E)).findSome? fun bk => firstFail (bankChecks byte word bk.index) := by
    rw [loadBanks_eq h, firstFail_flatMap, List.findSome?_map]
    rfl
  unfold cylinderChecks
  rw [tdcChecks_eq h, bankFieldChecks_eq h, leadChecks_eq h]
  simp only [List.append_assoc, firstFail_append, firstFail_one, firstFail_map, hbanks, firstFail_bankChecks h, ← hcount]
  rfl

end

end Sys2Proof.Machine

/-! # LOAD: the profiles and the limp plan -/

namespace Sys2Proof.Machine

section
variable {st : List StagedByte} {byte word : Nat → Nat}

/-! ## The profiles -/

/-- A level below SHORT_LEVEL of every bank in use (R150). -/
def loadBelow (byte : Nat → Nat) (level : Nat) : Bool :=
  (loadBanks byte).all fun b => decide (level < byte (0x60 + 8 * b))

/-- The kinds of an entry that is followed by another: the rises and FREEWHEEL. -/
def rampKind (n : Nat) : Bool := decide (1 ≤ n) && decide (n ≤ 3)

/-- The checks of a profile's entry `j` at offset `o` (R150). -/
def entryChecks (byte word : Nat → Nat) (j o : Nat) : List LoadCheck :=
  [(decide (byte o = 0) || decide (4 < byte o) || (decide (byte o = 4) && decide (j = 7)), 12, o),
    ((decide (byte o = 1) || decide (byte o = 2)) && decide (word (o + 2) < 1), 12, o + 2),
    ((decide (byte o = 1) || decide (byte o = 2) || decide (byte o = 4)) && !loadBelow byte (byte (o + 1)), 12, o + 1),
    (decide (byte o = 4) && decide (byte (o + 1) ≤ byte (o + 2)), 12, o + 2),
    (decide (byte o = 4) && decide (byte (o + 4) ≠ 0), 12, o + 4)]

/-- The entries before entry `j` of profile `p` are all followed by another. -/
def rampsBefore (byte : Nat → Nat) (p j : Nat) : Bool :=
  (List.range j).all fun i => rampKind (byte (offProfileEntry p i))

/-- The checks of entry `j`, which is there when every entry before it is followed by another. -/
def entryAt (byte word : Nat → Nat) (p j : Nat) : List LoadCheck :=
  if rampsBefore byte p j then entryChecks byte word j (offProfileEntry p j) else []

/-- The last check of a profile: eight entries without a HOLD (assumption 11). -/
def noHoldCheck (byte : Nat → Nat) (p : Nat) : LoadCheck := (rampsBefore byte p 8, 12, (Config.noHoldOffset p).toNat)

/-- The checks of profile `p` from entry `j` on, `n` of them. -/
def profileFrom (byte word : Nat → Nat) (p n j : Nat) : List LoadCheck :=
  (List.range' j n).flatMap (entryAt byte word p) ++ [noHoldCheck byte p]

theorem rampsBefore_succ (byte : Nat → Nat) (p j : Nat) :
    rampsBefore byte p (j + 1) = (rampsBefore byte p j && rampKind (byte (offProfileEntry p j))) := by
  simp [rampsBefore, List.range_succ]

/-- No entry follows one that is not followed by another. -/
theorem rampsBefore_false {p j : Nat} (h : rampKind (byte (offProfileEntry p j)) = false) {k : Nat} (hk : j < k) :
    rampsBefore byte p k = false := by
  rw [rampsBefore, List.all_eq_false]
  exact ⟨j, List.mem_range.2 hk, by simp [h]⟩

/-- After a HOLD nothing is checked any more. -/
theorem profileFrom_after {p j : Nat} (h : rampKind (byte (offProfileEntry p j)) = false) (hj : j < 8) (n : Nat) :
    firstFail (profileFrom byte word p n (j + 1)) = none := by
  have hentries : (List.range' (j + 1) n).flatMap (entryAt byte word p) = [] := by
    rw [List.flatMap_eq_nil_iff]
    intro k hk
    have hlt := (List.mem_range'_1.1 hk).1
    rw [entryAt, rampsBefore_false h (by omega)]
    rfl
  rw [profileFrom, hentries, noHoldCheck, rampsBefore_false h hj]
  rfl

theorem profileFrom_succ {p j : Nat} (h : rampsBefore byte p j = true) (n : Nat) :
    firstFail (profileFrom byte word p (n + 1) j) =
      (firstFail (entryChecks byte word j (offProfileEntry p j)) <|> firstFail (profileFrom byte word p n (j + 1))) := by
  rw [profileFrom, List.range'_succ, List.flatMap_cons, List.append_assoc, firstFail_append, entryAt, h]
  rfl

theorem levelBelowShort_eq (h : StagedFields st byte word) : levelBelowShort st = loadBelow byte := by
  funext level
  unfold levelBelowShort loadBelow
  rw [loadBanks_eq h, List.all_map]
  refine congrArg _ (funext fun bk => ?_)
  have := bankIndex_lt bk
  rw [h.byte_eq _ (by unfold offBankSetup; omega)]
  rfl

/-- The error of a reading of a profile, if it ends with one. -/
def scanError (r : Except SetupError Profile) : Option SetupError :=
  match r with
  | .error e => some e
  | .ok _ => none

/-- A rise is refused for its limit first, and then for its level (R150). -/
theorem scanError_rise (limit o : Nat) (below : Bool) (r : Except SetupError Profile) :
    scanError (if limit < 1 then .error ⟨12, BitVec.ofNat 16 (o + 2)⟩
      else if !below then .error ⟨12, BitVec.ofNat 16 (o + 1)⟩ else r) =
    (failIf (decide (limit < 1)) 12 (o + 2) <|> failIf (!below) 12 (o + 1) <|> scanError r) := by
  by_cases hl : limit < 1
  · simp [hl, failIf, scanError]
  · cases below <;> simp [hl, failIf, scanError]

theorem u8_lt (st : List StagedByte) (a : Nat) : u8 st a < 256 := by
  unfold u8
  cases st[stagedIndex a]? with
  | none => simp
  | some b => exact b.value.isLt

/-- The second operand of an entry is its third byte, for a HOLD (R150). -/
theorem u16_mod (st : List StagedByte) (a : Nat) : u16 st a % 256 = u8 st a := by
  have := u8_lt st a
  unfold u16
  omega

/-- The reading goes on after a rise or a FREEWHEEL. -/
theorem rampsBefore_next {p j : Nat} (hr : rampsBefore byte p j = true) {n : Nat}
    (hn : byte (offProfileEntry p j) = n) (hk : rampKind n = true) : rampsBefore byte p (j + 1) = true := by
  rw [rampsBefore_succ, hr, hn, hk]
  rfl

/-- Reading a profile from entry `j` on finds the first check that fails (R150). -/
theorem scanProfile_eq (h : StagedFields st byte word) (p : Nat) : ∀ (fuel j : Nat) (ramps : List Ramp), j + fuel = 8 →
    rampsBefore byte p j = true →
    scanError (scanProfile st (loadBelow byte) p fuel j ramps) = firstFail (profileFrom byte word p fuel j) := by
  intro fuel
  induction fuel with
  | zero =>
    intro j ramps hj hr
    obtain rfl : j = 8 := by omega
    simp [scanProfile, scanError, profileFrom, noHoldCheck, hr, firstFail]
  | succ fuel ih =>
    intro j ramps hj hr
    have hoff : 768 ≤ offProfileEntry p j := by unfold offProfileEntry; omega
    have hkind := h.byte_eq (offProfileEntry p j) (by omega)
    have hlevel := h.byte_eq (offProfileEntry p j + 1) (by omega)
    have hlow := h.byte_eq (offProfileEntry p j + 2) (by omega)
    have hnext := h.byte_eq (offProfileEntry p j + 4) (by omega)
    have hword := h.word_eq (offProfileEntry p j + 2) (by omega)
    have hgo : ∀ n l, byte (offProfileEntry p j) = n → rampKind n = true →
        scanError (scanProfile st (loadBelow byte) p fuel (j + 1) l) = firstFail (profileFrom byte word p fuel (j + 1)) :=
      fun n l hn hk => ih (j + 1) l (by omega) (rampsBefore_next hr hn hk)
    have hstop : ∀ n, byte (offProfileEntry p j) = n → rampKind n = false →
        firstFail (profileFrom byte word p fuel (j + 1)) = none :=
      fun n hn hk => profileFrom_after (by rw [hn, hk]) (by omega) fuel
    rw [profileFrom_succ hr]
    unfold scanProfile
    simp only [u16_mod, hkind, hlevel, hlow, hnext]
    simp only [hword, entryChecks, firstFail_cons_cons, firstFail_one]
    generalize offProfileEntry p j = o at *
    generalize byte o = n at *
    match n with
    | 0 => rfl
    | 1 =>
      rw [← hgo 1 (ramps ++ [.boostRise (byte (o + 1)) (word (o + 2))]) rfl rfl]
      exact (scanError_rise _ _ _ _).trans (by simp [failIf, Option.or_assoc])
    | 2 =>
      rw [← hgo 2 (ramps ++ [.batteryRise (byte (o + 1)) (word (o + 2))]) rfl rfl]
      exact (scanError_rise _ _ _ _).trans (by simp [failIf, Option.or_assoc])
    | 3 =>
      rw [← hgo 3 (ramps ++ [.freewheel (word (o + 2))]) rfl rfl]
      simp [failIf]
    | 4 =>
      rw [hstop 4 rfl rfl]
      by_cases h7 : j = 7
      · simp [failIf, scanError, h7]
      · have hj7 : ¬ 7 ≤ j := by omega
        cases hb : loadBelow byte (byte (o + 1))
        · simp [failIf, scanError, h7, hj7]
        · by_cases hl : byte (o + 1) ≤ byte (o + 2)
          · simp [failIf, scanError, h7, hj7, hl]
          · by_cases hz : byte (o + 4) = 0 <;> simp [failIf, scanError, h7, hj7, hl, hz]
    | n + 5 => simp [failIf, scanError]

/-- Check 12 (R150). -/
def profileChecks (byte word : Nat → Nat) : List LoadCheck :=
  [(decide (byte 0x0F < 1) || decide (8 < byte 0x0F), 12, 0x0F)]
    ++ (List.range (byte 0x0F)).flatMap fun p => profileFrom byte word p 8 0

theorem checkProfiles_eq (h : StagedFields st byte word) : checkProfiles st = firstFail (profileChecks byte word) := by
  have hscan : ∀ p, scanError (scanOf st p) = firstFail (profileFrom byte word p 8 0) := fun p => by
    rw [scanOf, levelBelowShort_eq h]
    exact scanProfile_eq h p 8 0 [] rfl rfl
  have hcount : u8 st 0x0F = byte 0x0F := h.byte_eq 0x0F (by omega)
  unfold profileChecks
  rw [firstFail_append, firstFail_one, firstFail_flatMap, ← funext hscan, ← hcount]
  rfl

/-! ## FAULT_LIMIT, RING_LEN and the limp plan -/

/-- The limp entry's checks at offset `o`, in the order KIND, PROFILE, DURATION, REL_ANGLE (R151). -/
def limpEntryChecks (byte word : Nat → Nat) (rel : Nat → Int) (o : Nat) : List LoadCheck :=
  [(decide (3 < byte o), 15, o), (decide (byte o ≠ 0) && decide (byte 0x0F ≤ byte (o + 1)), 15, o + 1),
    (decide (byte o ≠ 0) && decide (word (o + 4) < 1), 15, o + 4),
    (decide (byte o ≠ 0) && (decide (rel (o + 2) < -5760) || decide (5759 < rel (o + 2))), 15, o + 2)]

/-- Check 15 (R151). -/
def limpChecks (byte word : Nat → Nat) (rel : Nat → Int) : List LoadCheck :=
  [0x14, 0x1A].flatMap (limpEntryChecks byte word rel)
    ++ [(decide (byte 0x14 ≠ 0) && decide (byte 0x1A ≠ 0) && decide (rel 0x1C < rel 0x16), 15, 0x1C),
      (decide (byte 0x14 = 2) && decide (byte 0x1A = 2), 15, 0x1A)]

/-- Checks 13 to 15 (R151). -/
def lastChecks (byte word : Nat → Nat) (rel : Nat → Int) : List LoadCheck :=
  [(decide (byte 0x10 < 1) || decide (7 < byte 0x10), 13, 0x10),
    (decide (byte 0x11 < 8) || decide (64 < byte 0x11), 14, 0x11)]
    ++ (if byte 0x12 % 2 = 1 then limpChecks byte word rel else [])

theorem not_relAngleLegal (r : Int) : (!relAngleLegal r) = (decide (r < -5760) || decide (5759 < r)) := by
  unfold relAngleLegal
  rw [Bool.not_and, ← decide_not, ← decide_not]
  exact congrArg₂ _ (decide_eq_decide.2 (by omega)) (decide_eq_decide.2 (by omega))

variable {rel : Nat → Int}

theorem checkLimpEntry_eq (h : StagedFields st byte word) (hrel : ∀ a, rel a = signed16 (word a)) {i : Nat} (hi : i < 2) :
    checkLimpEntry st i = firstFail (limpEntryChecks byte word rel (offLimp i)) := by
  have hoff : offLimp i + 4 < 255 := by unfold offLimp; omega
  simp only [limpEntryChecks, firstFail_cons_cons, firstFail_one, checkLimpEntry, not_relAngleLegal, s16]
  simp (disch := omega) only [h.byte_eq, h.word_eq, hrel]

theorem firstFail_limpChecks (h : StagedFields st byte word) (hrel : ∀ a, rel a = signed16 (word a)) :
    firstFail (limpChecks byte word rel) =
      (checkLimpEntry st 0 <|> checkLimpEntry st 1
        <|> failIf (decide (byte 0x14 ≠ 0) && decide (byte 0x1A ≠ 0) && decide (rel 0x1C < rel 0x16)) 15 0x1C
        <|> failIf (decide (byte 0x14 = 2) && decide (byte 0x1A = 2)) 15 0x1A) := by
  rw [checkLimpEntry_eq h hrel (i := 0) (by decide), checkLimpEntry_eq h hrel (i := 1) (by decide)]
  simp only [limpChecks, List.flatMap_cons, List.flatMap_nil, List.append_nil, List.append_assoc, firstFail_append,
    firstFail_cons_cons, firstFail_one, offLimp]

theorem checkLast_eq (h : StagedFields st byte word) (hrel : ∀ a, rel a = signed16 (word a)) :
    checkLast st = firstFail (lastChecks byte word rel) := by
  have hbit : bit0 st 0x12 = decide (byte 0x12 % 2 = 1) := by
    rw [← h.byte_eq 0x12 (by omega)]
    rfl
  have hlimp : firstFail (if byte 0x12 % 2 = 1 then limpChecks byte word rel else []) =
      if byte 0x12 % 2 = 1 then firstFail (limpChecks byte word rel) else none := by split <;> rfl
  simp only [lastChecks, List.cons_append, List.nil_append, firstFail_cons, hlimp, firstFail_limpChecks h hrel]
  simp (disch := omega) only [checkLast, hbit, decide_eq_true_eq, offLimp, s16, h.byte_eq, h.word_eq, hrel]

/-! ## All fifteen -/

/-- The bytes in the order of reading (R147). -/
def parityChecks (st : List StagedByte) : List LoadCheck :=
  (List.range st.length).map fun i => ((st[i]?).any fun b => b.bad, 1, if i < 256 then i else i + 512)

/-- The error of a LOAD is the first check that fails (R147 to R151). -/
theorem loadError_eq (h : StagedFields st byte word) (hrel : ∀ a, rel a = signed16 (word a)) :
    loadError st = firstFail (parityChecks st ++ wheelChecks byte word ++ cylinderChecks byte word ++ profileChecks byte word
      ++ lastChecks byte word rel) := by
  simp only [List.append_assoc, firstFail_append, loadError, checkParity_eq, checkWheel_eq h, checkCylinders_eq h,
    checkProfiles_eq h, checkLast_eq h hrel, parityChecks]

end

/-- The byte that the staging copy holds for an offset of the exchange memory; 0 where it holds none (R147). -/
theorem stagedFields_of {st : List StagedByte} {byte word : Nat → Nat}
    (hbyte : ∀ a, byte a = ((st[if a < 256 then a else a - 512]?).map fun b => b.value.toNat).getD 0)
    (hword : ∀ a, word a = byte a + 256 * byte (a + 1)) : StagedFields st byte word := by
  have hb : ∀ a, a < 256 ∨ 768 ≤ a → u8 st a = byte a := fun a ha => by
    have hindex : stagedIndex a = if a < 256 then a else a - 512 := by
      unfold stagedIndex
      split <;> omega
    rw [u8, hindex, hbyte]
  refine ⟨hb, fun a ha => ?_⟩
  rw [u16, hb a (by omega), hb (a + 1) (by omega), hword]

/-- Settles O49. -/
theorem loadAcceptedOrFailed : Obligations.LoadAcceptedOrFailed := by
  refine ⟨fun s arg top hh hr => ?_, fun s e hr he => ?_, fun m count hc => ?_, ?_, fun s hr => ?_⟩
  · refine ⟨_, ?_, s.mem.shown_of s.sb.live (l := [(0x186, 0), (0x188, 0), (0x18A, 0)]) (by simp) (by simp [memBytes])⟩
    rw [exec_load_accepted arg top hh hr, State.beginLoad_eq]
    rfl
  · refine ⟨_, ?_, s.mem.putAll_stored [(0x194, BitVec.ofNat 16 (e.code % 256)), (0x196, e.offset)] (by simp [Apart])
      (by simp [memBytes])⟩
    show Host.Outcome.next s.loadFails = _
    have hfail : s.loadFails = s.failLoad e := by
      unfold State.loadFails State.stagedAll
      rw [if_pos hr, he]
    rw [hfail, State.failLoad_eq]
    rfl
  · subst hc
    refine ⟨?_, fun i hi => stageAll_getElem? m hi⟩
    rw [stageAll_length, profileWordsNamed]
    split <;> omega
  · rintro st byte word rel cyls banks near below rise parity wheel cylinders profiles limp last hbyte hword hrel rfl rfl hnear
      hbelow hrise rfl rfl rfl rfl rfl rfl
    obtain rfl : near = tdcNear := funext₂ hnear
    obtain rfl : below = loadBelow byte := funext hbelow
    obtain rfl : rise = fun a => rampKind (byte a) := funext hrise
    exact loadError_eq (stagedFields_of hbyte hword) fun a => hrel a
  · have hpass : s.loadPasses = s := if_neg hr
    have hfail : s.loadFails = s := if_neg hr
    exact ⟨congrArg Host.Outcome.next hpass, congrArg Host.Outcome.next hfail⟩

end Sys2Proof.Machine

/-! # The words of a list in memory, and the report of an event

What the part writes of a record and of a status entry is one list of words; where the offsets of a list lie apart, each word of it
stands in the end. On this rest the report and the judgement of an event (R45, R46). -/

namespace Sys2Proof.Machine

/-! ## Lists of words -/

theorem Memory.putAll_append (l l' : List (Nat × Word)) (m : Memory) : m.putAll (l ++ l') = (m.putAll l).putAll l' :=
  List.foldl_append ..

theorem Memory.SameOutside.mono {l l' : List Nat} {m m' : Memory} (h : m.SameOutside l m') (hl : ∀ a ∈ l, a ∈ l') :
    m.SameOutside l' m' := fun hm => ⟨(h hm).1, fun a ha => (h hm).2 a fun off ho => ha off (hl off ho)⟩

theorem Memory.SameOutside.trans {l l' : List Nat} {m m' m'' : Memory} (h : m.SameOutside l m') (g : m'.SameOutside l' m'') :
    m.SameOutside (l ++ l') m'' := fun hm => by
  obtain ⟨hc, h1⟩ := h hm
  obtain ⟨hc', h2⟩ := g hc
  refine ⟨hc', fun a ha => ?_⟩
  have g1 := h1 a fun off ho => ha off (List.mem_append_left _ ho)
  have g2 := h2 a fun off ho => ha off (List.mem_append_right _ ho)
  exact ⟨g2.1.trans g1.1, g2.2.trans g1.2⟩

/-- A word that a change left alone stands as it was shown. -/
theorem Memory.SameOutside.shows {l : List Nat} {m m' : Memory} (h : m.SameOutside l m') (hm : m.calm) {c : Nat} {w : Word}
    (hc : ∀ off ∈ l, c + 2 ≤ off ∨ off + 2 ≤ c) (hw : m.Shows c w) : m'.Shows c w := by
  obtain ⟨h1, h2⟩ := h.word hm hc
  exact ⟨h1.trans hw.1, h2.trans hw.2⟩

theorem Memory.mirror_sameOutside (live : Bool) (l : List (Nat × Word)) (m : Memory) :
    m.SameOutside (if live then l.map Prod.fst else []) (m.mirror live l) := by
  cases live
  · exact m.putAll_sameOutside []
  · exact m.putAll_sameOutside l

/-- A list of words at a base and offsets that lie apart and inside the memory: each of its words stands in the end. -/
theorem Memory.putAll_stored_at {l : List (Nat × Word)} {o : Nat} (ds : List Nat) (hl : l.map Prod.fst = ds.map (o + ·))
    (hd : ds.Pairwise fun a b => a + 2 ≤ b ∨ b + 2 ≤ a) (hr : ∀ d ∈ ds, o + d + 1 < memBytes) (m : Memory) :
    m.Stored l (m.putAll l) := by
  refine m.putAll_stored l ?_ fun p hp => ?_
  · have ha : (l.map Prod.fst).Pairwise fun a b => a + 2 ≤ b ∨ b + 2 ≤ a := by
      rw [hl, List.pairwise_map]
      exact hd.imp fun h => by omega
    exact List.pairwise_map.1 ha
  · have hp : p.1 ∈ ds.map (o + ·) := hl ▸ List.mem_map_of_mem hp
    obtain ⟨d, hd, h⟩ := List.mem_map.1 hp
    exact h ▸ hr d hd

/-- Words at consecutive word offsets. -/
def wordsAt (off : Nat) : List Word → List (Nat × Word)
  | [] => []
  | w :: rest => (off, w) :: wordsAt (off + 2) rest

theorem wordsAt_append (l l' : List Word) :
    ∀ off, wordsAt off (l ++ l') = wordsAt off l ++ wordsAt (off + 2 * l.length) l' := by
  induction l with
  | nil => exact fun _ => rfl
  | cons w rest ih =>
    intro off
    simp only [List.cons_append, wordsAt, ih, List.length_cons]
    rw [show off + 2 + 2 * rest.length = off + 2 * (rest.length + 1) by omega]

theorem wordsAt_offsets (l : List Word) : ∀ off, (wordsAt off l).map Prod.fst = (List.range l.length).map fun j => off + 2 * j := by
  induction l with
  | nil => exact fun _ => rfl
  | cons w rest ih =>
    intro off
    simp only [wordsAt, List.map_cons, ih, List.length_cons, List.range_succ_eq_map, List.map_map]
    refine congrArg₂ _ rfl (List.map_congr_left fun j _ => ?_)
    simp only [Function.comp]
    omega

theorem mem_wordsAt {l : List Word} {w : Word} : ∀ {off n : Nat}, l[n]? = some w → (off + 2 * n, w) ∈ wordsAt off l := by
  induction l with
  | nil => intro off n h; simp at h
  | cons x rest ih =>
    intro off n h
    cases n with
    | zero =>
      obtain rfl : x = w := by simpa using h
      exact List.mem_cons_self
    | succ n =>
      have := ih (off := off + 2) (n := n) (by simpa using h)
      rw [show off + 2 + 2 * n = off + 2 * (n + 1) by omega] at this
      exact List.mem_cons_of_mem _ this

theorem State.writeWord_putAll (off : Nat) (w : Word) (s : State) : s.writeWord off w = s.setMem (s.mem.putAll [(off, w)]) := rfl

theorem State.writeWords_putAll (l : List Word) : ∀ (off : Nat) (s : State),
    s.writeWords off l = s.setMem (s.mem.putAll (wordsAt off l)) := by
  induction l with
  | nil => exact fun _ _ => rfl
  | cons w rest ih =>
    intro off s
    rw [State.writeWords, ih]
    rfl

/-! ## The results of a record -/

theorem resultWords_length (dry : Bool) (l : List Pulse) (j : Nat) : (resultWords dry l j).length = 5 := by
  unfold resultWords
  split <;> rfl

theorem results_length (dry : Bool) (l : List Pulse) (n : Nat) :
    ((List.range n).flatMap (resultWords dry l)).length = 5 * n := by
  induction n with
  | zero => rfl
  | succ n ih =>
    rw [List.range_succ, List.flatMap_append, List.length_append, ih, List.flatMap_singleton, resultWords_length]
    omega

/-- Word `n` of result slot `j` lies ten bytes further for each slot (09, Plan record). -/
theorem mem_results {dry : Bool} {l : List Pulse} {j n : Nat} {w : Word} (hw : (resultWords dry l j)[n]? = some w) (off : Nat) :
    ∀ {m : Nat}, j < m → (off + 10 * j + 2 * n, w) ∈ wordsAt off ((List.range m).flatMap (resultWords dry l)) := by
  intro m hj
  induction m with
  | zero => omega
  | succ m ih =>
    rw [List.range_succ, List.flatMap_append, wordsAt_append, List.mem_append, results_length, List.flatMap_singleton]
    by_cases hm : j < m
    · exact .inl (ih hm)
    · obtain rfl : j = m := by omega
      have := mem_wordsAt (off := off + 2 * (5 * j)) hw
      rw [show off + 2 * (5 * j) = off + 10 * j by omega] at this ⊢
      exact .inr this

/-- The words of a write-back (R46 step 1). -/
def Event.backWords (k : CylId) (e : Event) (o : Nat) : List (Nat × Word) :=
  wordsAt (o + 0x30) ((List.range 5).flatMap (resultWords e.dry e.pulses))
    ++ [(o + 0x2E, sat16 e.drive), (o + 0x26, bytePair (eventOutcome e.pulses).code e.dry.toNat), (o, bytePair 3 k.number)]

theorem State.writeBack_putAll (k : CylId) (e : Event) (i : Nat) (s : State) :
    s.writeBack k e i = s.setMem (s.mem.putAll (e.backWords k (0x1000 + 128 * i))) := by
  unfold State.writeBack State.writeResults Event.backWords
  dsimp only
  rw [State.writeWords_putAll, Memory.putAll_append]
  rfl

/-- The offsets in a record at which a write-back writes. -/
def backOffsets : List Nat := (List.range 25).map (fun j => 0x30 + 2 * j) ++ [0x2E, 0x26, 0]

theorem Event.backWords_offsets (k : CylId) (e : Event) (o : Nat) : (e.backWords k o).map Prod.fst = backOffsets.map (o + ·) := by
  rw [Event.backWords, List.map_append, wordsAt_offsets, results_length, backOffsets, List.map_append, List.map_map]
  refine congrArg₂ _ (List.map_congr_left fun j _ => ?_) rfl
  simp only [Function.comp]
  omega

theorem Event.backWords_stored (k : CylId) (e : Event) {i : Nat} (hi : i < 64) (m : Memory) :
    m.Stored (e.backWords k (0x1000 + 128 * i)) (m.putAll (e.backWords k (0x1000 + 128 * i))) := by
  have hin : ∀ d ∈ backOffsets, d ≤ 96 := by decide
  refine Memory.putAll_stored_at backOffsets (e.backWords_offsets k _) (by decide) (fun d hd => ?_) m
  have := hin d hd
  simp only [memBytes]
  omega

end Sys2Proof.Machine

namespace Sys2Proof.Machine

/-! ## The status entry, and the event in the table -/

theorem code_lt (o : EventOutcome) : o.code < 10 := by cases o <;> decide

/-- The three words of a status entry that a report writes (R46 step 2, R172). -/
def lastWords (k : CylId) (src : Source) (o : EventOutcome) (seq : Word) : List (Nat × Word) :=
  [(0x1C0 + 16 * (k.number - 1) + 2, BitVec.ofNat 16 src.code), (0x1C0 + 16 * (k.number - 1) + 4, BitVec.ofNat 16 o.code),
    (0x1C0 + 16 * (k.number - 1) + 10, seq)]

theorem State.closeEntry_eq (k : CylId) (src : Source) (o : EventOutcome) (seq : Word) (s : State) :
    s.closeEntry k src o seq =
      { s with
        cyls := s.cyls.set k { s.cyl k with lastSource := src, lastOutcome := some o, lastSeq := seq }
        mem := s.mem.mirror s.sb.live (lastWords k src o seq) } := by
  have hs : lowByte src.code = BitVec.ofNat 16 src.code := by cases src <;> rfl
  have ho : lowByte o.code = BitVec.ofNat 16 o.code := by cases o <;> rfl
  unfold State.closeEntry
  simp only [cylLastWords, outcomeCode, hs, ho, State.statusAll_eq]
  rfl

theorem State.notifyDone_eq (notify : Bool) (s : State) :
    s.notifyDone notify = { s with ev := { s.ev with sticky := if notify then s.ev.sticky ||| 1 else s.ev.sticky } } := by
  cases notify <;> rfl

theorem State.checkStopped_of_not {s : State} (h : ¬ (s.ctl.run = .stopping ∧ s.ctl.stopMode.drains = true)) :
    s.checkStopped = s := if_neg fun hc => h ⟨hc.1, hc.2.1⟩

/-- The words of a report: those of the record, where the event has one, then the status entry's (R46). -/
def Event.reportMem (k : CylId) (e : Event) (live : Bool) (m : Memory) : Memory :=
  (match e.record with
    | some i => m.putAll (e.backWords k (0x1000 + 128 * i))
    | none => m).mirror live (lastWords k e.source (eventOutcome e.pulses) e.seq)

/-- A report (R46 steps 1 to 3). -/
theorem State.report_full (k : CylId) (e : Event) (s : State) : s.report k e =
    { s with
      cyls := s.cyls.set k ((s.cyl k).reported e)
      ev := { s.ev with sticky := if e.notify && e.source == .plan then s.ev.sticky ||| 1 else s.ev.sticky }
      mem := e.reportMem k s.sb.live s.mem } := by
  unfold State.report Event.reportMem
  cases e.record with
  | none => simp only [State.notifyDone_eq, State.closeEntry_eq]; rfl
  | some i => simp only [State.notifyDone_eq, State.closeEntry_eq, State.writeBack_putAll]; rfl

theorem State.settle_none {s : State} {k : CylId} (h : (s.cyl k).event = none) : s.settle k = s := by
  simp [State.settle, h]

theorem State.settle_unresolved {s : State} {k : CylId} {e : Event} (h : (s.cyl k).event = some e)
    (hp : ∃ p ∈ e.pulses, p.cond ≠ .resolved) : s.settle k = s := by
  obtain ⟨p, hp, hc⟩ := hp
  have hd : e.done = false := Bool.eq_false_iff.2 fun hd => hc (e.done_iff.1 hd p hp)
  simp [State.settle, h, hd]

/-- An event whose pulses are all RESOLVED is reported and leaves the table; no stop waits for it here (R45, R46). -/
theorem State.settle_resolved {s : State} {k : CylId} {e : Event} (h : (s.cyl k).event = some e)
    (hp : ∀ p ∈ e.pulses, p.cond = .resolved) (hr : ¬ (s.ctl.run = .stopping ∧ s.ctl.stopMode.drains = true)) :
    s.settle k =
      { s with
        cyls := s.cyls.set k { (s.cyl k).reported e with event := none }
        ev := { s.ev with sticky := if e.notify && e.source == .plan then s.ev.sticky ||| 1 else s.ev.sticky }
        mem := e.reportMem k s.sb.live s.mem } := by
  unfold State.settle
  rw [h]
  dsimp only
  rw [if_pos (e.done_iff.2 hp), State.finish_eq, State.report_full]
  exact State.checkStopped_of_not hr

theorem State.modEvent_of {s : State} {k : CylId} {e : Event} {seq : Word} (h : (s.cyl k).event = some e) (hs : e.seq = seq)
    (f : Event → Event) : s.modEvent k seq f = s.setCyl k { s.cyl k with event := some (f e) } := by
  simp [State.modEvent, h, hs]

theorem State.modPulse_of {s : State} {k : CylId} {e : Event} {seq : Word} (h : (s.cyl k).event = some e) (hs : e.seq = seq)
    (i : Nat) (f : Pulse → Pulse) :
    s.modPulse k seq i f = s.setCyl k { s.cyl k with event := some { e with pulses := modPulses i f e.pulses } } :=
  State.modEvent_of h hs _

theorem modPulses_modPulses {i : Nat} {f g : Pulse → Pulse} (hf : ∀ p, (f p).plan = p.plan) (l : List Pulse) :
    modPulses i g (modPulses i f l) = modPulses i (fun p => g (f p)) l := by
  simp only [modPulses, List.map_map]
  refine List.map_congr_left fun p _ => ?_
  by_cases hp : p.plan.index = i <;> simp [hp, hf]

/-- Changing one pulse leaves the others of its event unresolved. -/
theorem Event.others.modPulses {e : Event} {i : Nat} (h : e.others i) (f : Pulse → Pulse) :
    ∃ p ∈ Sys2Proof.Machine.modPulses i f e.pulses, p.cond ≠ .resolved := by
  obtain ⟨q, hq, hi, hc⟩ := h
  exact ⟨q, List.mem_map.2 ⟨q, hq, by rw [if_neg hi]⟩, hc⟩

/-! ## The write-back of an event -/

theorem eventOutcome_any (l : List Pulse) : eventOutcome l =
    if l.all (fun p => p.outcome == some .fired) then .complete
    else if l.any (fun p => p.outcome.any PulseOutcome.delivered) then .partlyFired else .noneFired := by
  have hany : (fun p : Pulse => p.outcome.any PulseOutcome.delivered) =
      fun p => match p.outcome with | some o => o.delivered | none => false := by
    funext p
    cases p.outcome <;> rfl
  rw [hany]
  rfl

theorem delivered_iff (o : Option PulseOutcome) :
    o.any PulseOutcome.delivered = true ↔ o = some .fired ∨ o = some .truncated ∨ o = some .capped := by
  cases o with
  | none => simp
  | some o => cases o <;> simp [PulseOutcome.delivered]

/-- The outcome of an event by those of its pulses (R45). -/
theorem eventOutcome_iff (l : List Pulse) :
    (eventOutcome l = .complete ↔ ∀ p ∈ l, p.outcome = some .fired)
    ∧ (eventOutcome l = .partlyFired ↔
      (∃ p ∈ l, p.outcome = some .fired ∨ p.outcome = some .truncated ∨ p.outcome = some .capped)
        ∧ ∃ p ∈ l, p.outcome ≠ some .fired)
    ∧ (eventOutcome l = .noneFired ↔
      l ≠ [] ∧ ∀ p ∈ l, p.outcome ≠ some .fired ∧ p.outcome ≠ some .truncated ∧ p.outcome ≠ some .capped) := by
  have hall : l.all (fun p => p.outcome == some .fired) = true ↔ ∀ p ∈ l, p.outcome = some .fired := by simp
  have hany : l.any (fun p => p.outcome.any PulseOutcome.delivered) = true ↔
      ∃ p ∈ l, p.outcome = some .fired ∨ p.outcome = some .truncated ∨ p.outcome = some .capped := by
    simp only [List.any_eq_true, delivered_iff]
  rw [eventOutcome_any]
  split
  case isTrue h =>
    have h := hall.1 h
    refine ⟨by simpa using h, ?_, ?_⟩
    · simpa using fun _ _ _ => h
    · simp only [reduceCtorEq, false_iff, not_and]
      intro hne hn
      obtain ⟨p, hp⟩ := List.exists_mem_of_ne_nil l hne
      exact (hn p hp).1 (h p hp)
  case isFalse h =>
    have hsome : ∃ p ∈ l, p.outcome ≠ some .fired := by simpa [hall] using h
    have hne : l ≠ [] := List.ne_nil_of_mem hsome.choose_spec.1
    have hnot : ¬ ∀ p ∈ l, p.outcome = some .fired := fun hc => h (hall.2 hc)
    split
    case isTrue g =>
      have g := hany.1 g
      refine ⟨by simpa using hnot, iff_of_true rfl ⟨g, hsome⟩, iff_of_false (by simp) fun hn => ?_⟩
      obtain ⟨p, hp, hd⟩ := g
      have := hn.2 p hp
      tauto
    case isFalse g =>
      have g := fun hc => g (hany.2 hc)
      refine ⟨by simpa using hnot, iff_of_false (by simp) fun hc => g hc.1, iff_of_true rfl ⟨hne, fun p hp => ?_⟩⟩
      have := fun hd => g ⟨p, hp, hd⟩
      tauto

/-- Where the words of a report stand: those of the record, and those of the status entry where the block is live. -/
theorem Event.reportMem_stored {k : CylId} {e : Event} {i : Nat} (hi : e.record = some i) (hlt : i < 64) (live : Bool)
    {m : Memory} (hm : m.calm) :
    m.SameOutside ((e.backWords k (0x1000 + 128 * i)).map Prod.fst ++
        if live then (lastWords k e.source (eventOutcome e.pulses) e.seq).map Prod.fst else []) (e.reportMem k live m)
      ∧ (∀ p ∈ e.backWords k (0x1000 + 128 * i), (e.reportMem k live m).Shows p.1 p.2)
      ∧ (live = true → ∀ p ∈ lastWords k e.source (eventOutcome e.pulses) e.seq, (e.reportMem k live m).Shows p.1 p.2) := by
  have hq := offCyl_range k
  have hmem : e.reportMem k live m = (m.putAll (e.backWords k (0x1000 + 128 * i))).mirror live
      (lastWords k e.source (eventOutcome e.pulses) e.seq) := by simp [Event.reportMem, hi]
  rw [hmem]
  obtain ⟨hout, hst⟩ := e.backWords_stored k hlt m
  have hlast := Memory.mirror_sameOutside live (lastWords k e.source (eventOutcome e.pulses) e.seq)
    (m.putAll (e.backWords k (0x1000 + 128 * i)))
  refine ⟨hout.trans hlast, fun p hp => hlast.shows (hout hm).1 (fun off ho => .inr ?_) (hst hm p hp), fun hl => ?_⟩
  · have hp : p.1 ∈ (e.backWords k (0x1000 + 128 * i)).map Prod.fst := List.mem_map_of_mem hp
    rw [e.backWords_offsets] at hp
    obtain ⟨d, -, hd⟩ := List.mem_map.1 hp
    have ho : off ∈ (lastWords k e.source (eventOutcome e.pulses) e.seq).map Prod.fst := by
      cases live <;> simp_all
    simp only [lastWords, List.map_cons, List.map_nil, List.mem_cons, List.not_mem_nil, or_false] at ho
    simp only [offCyl] at hq
    omega
  · refine ((Memory.shown_of live _ ?_ ?_).shows (hout hm).1 hl).2
    · simp [lastWords]
    · simp only [lastWords, List.map_cons, List.map_nil, List.mem_cons, List.not_mem_nil, or_false, memBytes]
      simp only [offCyl] at hq
      omega

theorem PulseOutcome.code_lt (o : PulseOutcome) : o.code < 14 := by cases o <;> decide

theorem PulseOutcome.code_eq (o : PulseOutcome) : o.code = match o with
    | .fired => 1 | .truncated => 2 | .capped => 3 | .openFault => 4 | .shortFault => 5 | .missedAngle => 6
    | .slipDrop => 7 | .capDrop => 8 | .syncDrop => 9 | .stopDrop => 10 | .abortDrop => 11
    | .quarantineDrop => 12 | .overrunDrop => 13 := by cases o <;> rfl

/-- Settles O33. -/
theorem writeBack : Obligations.WriteBack := by
  refine ⟨eventOutcome_iff, ?_⟩
  intro s k e i o q code hm he hsrc hrec hi ho hq hres hrun hcode
  have hcode : code = (eventOutcome e.pulses).code := by rw [hcode]; cases eventOutcome e.pulses <;> rfl
  obtain ⟨hout, hback, hlast⟩ := Event.reportMem_stored (k := k) hrec hi s.sb.live hm
  rw [← ho] at hout hback
  refine ⟨e.reportMem k s.sb.live s.mem, ?_, ?_, ?_, ?_, ?_, ?_, ?_⟩
  · rw [State.settle_resolved he hres fun h => hrun h.1]
    simp [Cylinder.reported, hsrc]
  · refine hout.mono fun a ha => ?_
    rw [e.backWords_offsets, backOffsets, List.map_append, List.map_map] at ha
    have hperm : ∀ j, o + (0x30 + 2 * j) = o + 0x30 + 2 * j := fun j => by omega
    simp only [List.mem_append, List.mem_map, List.map_cons, List.map_nil, Function.comp, hperm] at ha
    subst hq
    rcases ha with (ha | ha) | ha
    · exact List.mem_append_left _ (List.mem_append_right _ (List.mem_map.2 ha))
    · refine List.mem_append_left _ (List.mem_append_left _ ?_)
      simp only [List.mem_cons, List.not_mem_nil, or_false] at ha ⊢
      tauto
    · exact List.mem_append_right _ ha
  · have := hback (o, bytePair 3 k.number) (by simp [Event.backWords])
    have hk : bytePair 3 k.number = BitVec.ofNat 16 (3 + 256 * k.number) := by cases k <;> rfl
    rwa [hk] at this
  · have := hback (o + 0x26, bytePair (eventOutcome e.pulses).code e.dry.toNat) (by simp [Event.backWords])
    have hc := code_lt (eventOutcome e.pulses)
    have hk : bytePair (eventOutcome e.pulses).code e.dry.toNat = BitVec.ofNat 16 (code + 256 * e.dry.toNat) := by
      rw [bytePair, hcode, Nat.mod_eq_of_lt (by omega), Nat.mod_eq_of_lt (by cases e.dry <;> decide)]
    rwa [hk] at this
  · exact hback (o + 0x2E, sat16 e.drive) (by simp [Event.backWords])
  · intro j hj r hr
    subst hr
    have hword : ∀ n w, (resultWords e.dry e.pulses j)[n]? = some w → (e.reportMem k s.sb.live s.mem).Shows (o + 0x30 + 10 * j + 2 * n) w :=
      fun n w hw => hback (_, w) (List.mem_append_left _ (mem_results hw (o + 0x30) hj))
    refine ⟨fun hnone n hn => hword n 0 ?_, fun p outcome hfind hout => ?_⟩
    · have hfind : e.pulses.find? (fun p => p.plan.index == j) = none :=
        List.find?_eq_none.2 fun p hp => by simpa using hnone p hp
      simp only [resultWords, hfind]
      interval_cases n <;> rfl
    · have hflags : p.flags e.dry < 256 := by
        unfold Pulse.flags
        cases p.late <;> cases p.boostLow <;> cases e.dry <;> cases p.crowded <;> decide
      have hw : resultWords e.dry e.pulses j = [BitVec.ofNat 16 (outcome.code + 256 * p.flags e.dry),
          BitVec.ofInt 16 p.startAngle, sat16 p.slip, sat16 p.driven, sat16 p.peak] := by
        have := outcome.code_lt
        simp only [resultWords, hfind, hout, Option.map_some, Option.getD_some, bytePair]
        rw [Nat.mod_eq_of_lt (by omega), Nat.mod_eq_of_lt hflags]
      have h0 := hword 0 _ (by rw [hw]; rfl)
      refine ⟨?_, hword 1 _ (by rw [hw]; rfl), hword 2 _ (by rw [hw]; rfl), hword 3 _ (by rw [hw]; rfl),
        hword 4 _ (by rw [hw]; rfl)⟩
      rw [PulseOutcome.code_eq] at h0
      exact h0
  · intro hl
    have hlast := hlast hl
    rw [lastWords, hsrc, ← hq] at hlast
    refine ⟨hlast (q + 2, 0) (by simp [Source.code]), ?_, hlast (q + 10, e.seq) (by simp)⟩
    rw [hcode]
    exact hlast (q + 4, BitVec.ofNat 16 (eventOutcome e.pulses).code) (by simp)

end Sys2Proof.Machine

/-! # Next-event entries, the latch test, and where a record lies

The entries set afresh and the cylinders due at an edge (R25, R26), and the placement of a record by cycle tag and firing position
(R33, R152). -/

namespace Sys2Proof.Machine

/-! ## Next-event entries -/

/-- A fresh entry lies 0, 1 or 2 cycles ahead: its latch point is brought into the cycle that starts at the edge (R26). -/
theorem freshTarget_ahead {u : Setup} {adv : Nat} {v : EdgeView} {k : CylId} (h0 : 960 ≤ adv) (h1 : adv ≤ 5760)
    (ht : (u.cyls.get k).tdc < 23040) (ha : v.angle < 23040) :
    ∃ n : Nat, n ≤ 2 ∧ (n : Int) = -(((u.cyls.get k).tdc - adv - v.angle : Int) / 23040)
      ∧ freshTarget u adv v k = v.cycle + BitVec.ofNat 16 n := by
  obtain ⟨n, hn⟩ : ∃ n : Nat, (n : Int) = -(((u.cyls.get k).tdc - adv - v.angle : Int) / 23040) :=
    ⟨(-(((u.cyls.get k).tdc - adv - v.angle : Int) / 23040)).toNat, by omega⟩
  refine ⟨n, by omega, hn, ?_⟩
  rw [freshTarget, ← hn, BitVec.ofInt_natCast]

theorem wordDiff_add_ofNat (c : Word) {n : Nat} (hn : n < 32768) : wordDiff (c + BitVec.ofNat 16 n) c = n := by
  have hn' : (BitVec.ofNat 16 n).toNat = n := Nat.mod_eq_of_lt (by omega)
  rw [wordDiff, add_sub_cancel_left, BitVec.toInt_eq_toNat_of_lt (by omega), hn']

/-! ## The latches due at an edge -/

theorem mem_cylinders {u : Setup} {k : CylId} : k ∈ u.cylinders ↔ k.number ≤ u.cylCount := by
  have hall : k ∈ CylId.all := by cases k <;> decide
  simp [Setup.cylinders, cylsUpTo, hall]

/-- A list in ascending order of an integer key, as `sortBy` leaves it. -/
theorem sortBy_ascending {α : Type} (l : List (Int × α)) :
    (sortBy (fun x y => decide (x.1 < y.1)) l).Pairwise fun x y => x.1 ≤ y.1 := by
  have hr : Ranks (fun x y : Int × α => decide (x.1 < y.1)) fun _ => True :=
    ⟨fun x y _ _ h => by simp at h ⊢; omega, fun x y z _ _ _ h g => by simp at h g ⊢; omega⟩
  exact (sortBy_inOrder hr l fun _ _ => trivial).imp fun h => by simpa using h

/-- The due latches, each with the distance of its latch point (R25). -/
def State.dueList (u : Setup) (v : EdgeView) (s : State) : List (Int × CylId × Word) :=
  u.cylinders.filterMap fun k =>
    (s.cyl k).nextEvent.bind fun target =>
      if latchDistance u s.su.trim.latchAdvance v k target < v.d then
        some (latchDistance u s.su.trim.latchAdvance v k target, k, target) else none

theorem State.latchesDue_eq (u : Setup) (v : EdgeView) (s : State) :
    s.latchesDue u v = (sortBy (fun x y : Int × CylId × Word => decide (x.1 < y.1)) (s.dueList u v)).map (·.2) := by
  unfold State.latchesDue State.dueList
  refine congrArg (fun l => (sortBy (fun x y : Int × CylId × Word => decide (x.1 < y.1)) l).map (·.2)) ?_
  refine List.filterMap_congr fun k _ => ?_
  cases (s.cyl k).nextEvent <;> rfl

theorem State.mem_dueList {u : Setup} {v : EdgeView} {s : State} {d : Int} {k : CylId} {target : Word} :
    (d, k, target) ∈ s.dueList u v ↔ k.number ≤ u.cylCount ∧ (s.cyl k).nextEvent = some target
      ∧ d = latchDistance u s.su.trim.latchAdvance v k target ∧ d < v.d := by
  simp only [State.dueList, List.mem_filterMap, mem_cylinders, Option.bind_eq_some_iff, Option.ite_none_right_eq_some,
    Option.some.injEq, Prod.mk.injEq]
  constructor
  · rintro ⟨j, hj, t, ht, hd, rfl, rfl, rfl⟩
    exact ⟨hj, ht, rfl, hd⟩
  · rintro ⟨hk, ht, rfl, hd⟩
    exact ⟨k, hk, target, ht, hd, rfl, rfl, rfl⟩

theorem Control.latches_iff (c : Control) :
    c.latches = true ↔ c.run = .running ∨ (c.run = .stopping ∧ c.stopMode = .cycle) := by
  simp [Control.latches]

/-- Settles O24. -/
theorem nextEntries : Obligations.NextEntries := by
  refine ⟨?_, fun u v s dist hdist => ⟨fun k target => ?_, ?_⟩, fun u v s z => ⟨fun hr => ?_, fun hr hz => ?_⟩⟩
  · intro u adv v k target d h0 h1 ht ha htarget hd
    obtain ⟨n, hn, hdiv, hfresh⟩ := freshTarget_ahead h0 h1 ht ha
    rw [hfresh] at htarget
    have hdiff : (target - v.cycle).toInt = n := htarget ▸ wordDiff_add_ofNat v.cycle (by omega)
    rw [hdiff] at hd
    refine ⟨by omega, by omega, ?_⟩
    interval_cases n
    · exact .inl (by simpa using htarget)
    · exact .inr (.inl htarget)
    · exact .inr (.inr htarget)
  · have hkey : dist (k, target) = latchDistance u s.su.trim.latchAdvance v k target := hdist _
    rw [State.latchesDue_eq, List.mem_map, hkey]
    constructor
    · rintro ⟨⟨d, _, _⟩, hmem, ⟨⟩⟩
      obtain ⟨hk, hn, rfl, hd⟩ := State.mem_dueList.1 ((sortBy_perm _ _).mem_iff.1 hmem)
      exact ⟨hk, hn, hd⟩
    · rintro ⟨hk, hn, hd⟩
      exact ⟨(_, k, target), (sortBy_perm _ _).mem_iff.2 (State.mem_dueList.2 ⟨hk, hn, rfl, hd⟩), rfl⟩
  · rw [State.latchesDue_eq, List.pairwise_map]
    refine (sortBy_ascending _).imp_of_mem fun {x y} hx hy h => ?_
    obtain ⟨d, k, target⟩ := x
    obtain ⟨d', k', target'⟩ := y
    obtain ⟨-, -, rfl, -⟩ := State.mem_dueList.1 ((sortBy_perm _ _).mem_iff.1 hx)
    obtain ⟨-, -, rfl, -⟩ := State.mem_dueList.1 ((sortBy_perm _ _).mem_iff.1 hy)
    rw [hdist, hdist]
    exact h
  · exact if_neg fun h => hr (s.ctl.latches_iff.1 h)
  · unfold State.latchAll
    rw [if_pos (s.ctl.latches_iff.2 hr)]
    have hfresh : (s.freshEntries u v).modLatch (fun l => { l with entriesUnset := false }) = z := by
      subst hz
      unfold State.freshEntries
      by_cases h : v.reacquiring = true ∨ s.latch.entriesUnset = true
      · rw [if_pos (by simpa using h), if_pos h]
        rfl
      · rw [if_neg (by simpa using h), if_neg h]
        rfl
    rw [hfresh]
    rfl

/-! ## Placement -/

theorem Setup.firingPos_congr {u : Setup} {k c : CylId} (h : (u.cyls.get k).tdc = (u.cyls.get c).tdc) :
    u.firingPos k = u.firingPos c := by
  simp only [Setup.firingPos, h]

/-- An earlier TDC_ANGLE has the lower firing position, where the earlier cylinder is configured (R152). -/
theorem Setup.firingPos_lt {u : Setup} {k c : CylId} (hk : k.number ≤ u.cylCount)
    (h : (u.cyls.get k).tdc < (u.cyls.get c).tdc) : u.firingPos k < u.firingPos c := by
  have hsub : (u.cylinders.filter fun j => decide ((u.cyls.get j).tdc < (u.cyls.get k).tdc)) =
      (u.cylinders.filter fun j => decide ((u.cyls.get j).tdc < (u.cyls.get c).tdc)).filter fun j =>
        decide ((u.cyls.get j).tdc < (u.cyls.get k).tdc) := by
    rw [List.filter_filter]
    refine List.filter_congr fun j _ => ?_
    rw [Bool.eq_iff_iff]
    simp only [decide_eq_true_eq, Bool.and_eq_true]
    omega
  have hlt : ((u.cylinders.filter fun j => decide ((u.cyls.get j).tdc < (u.cyls.get c).tdc)).filter fun j =>
      decide ((u.cyls.get j).tdc < (u.cyls.get k).tdc)).length <
      (u.cylinders.filter fun j => decide ((u.cyls.get j).tdc < (u.cyls.get c).tdc)).length := by
    refine List.length_filter_lt_length_iff_exists.2 ⟨k, ?_, by simp⟩
    simpa [mem_cylinders] using ⟨hk, h⟩
  unfold Setup.firingPos
  rw [hsub]
  omega

theorem Setup.firingPos_lt_iff {u : Setup} {k c : CylId} (hk : k.number ≤ u.cylCount) (hc : c.number ≤ u.cylCount) :
    u.firingPos k < u.firingPos c ↔ (u.cyls.get k).tdc < (u.cyls.get c).tdc := by
  refine ⟨fun h => ?_, Setup.firingPos_lt hk⟩
  by_contra hn
  rcases Nat.lt_or_eq_of_le (Nat.le_of_not_lt hn) with hlt | heq
  · exact absurd (Setup.firingPos_lt hc hlt) (by omega)
  · exact absurd (Setup.firingPos_congr heq) (by omega)

theorem cylsUpTo_length (n : Nat) : (cylsUpTo n).length ≤ n := by
  unfold cylsUpTo
  by_cases h : n < 8
  · interval_cases n <;> decide
  · exact (List.length_filter_le _ _).trans (show CylId.all.length ≤ n by simp [CylId.all]; omega)

theorem Setup.firingPos_le {u : Setup} {k : CylId} (hk : k.number ≤ u.cylCount) : u.firingPos k ≤ u.cylCount := by
  have hlt : (u.cylinders.filter fun j => decide ((u.cyls.get j).tdc < (u.cyls.get k).tdc)).length < u.cylinders.length :=
    List.length_filter_lt_length_iff_exists.2 ⟨k, mem_cylinders.2 hk, by simp⟩
  have := cylsUpTo_length u.cylCount
  unfold Setup.firingPos
  unfold Setup.cylinders at hlt ⊢
  omega

/-- Where a record lies, by the difference of the tags and by firing position (R33). -/
theorem place_iff (u : Setup) (k c : CylId) (tag target : Byte) :
    (place u k c tag target = .future ↔
      (1 ≤ (tag - target).toNat ∧ (tag - target).toNat ≤ 127) ∨ (tag = target ∧ u.firingPos k < u.firingPos c))
    ∧ (place u k c tag target = .past ↔
      128 ≤ (tag - target).toNat ∨ (tag = target ∧ u.firingPos c < u.firingPos k))
    ∧ (place u k c tag target = .matching ↔ tag = target ∧ u.firingPos c = u.firingPos k) := by
  have htag : tag = target ↔ (tag - target).toNat = 0 := by
    rw [show ((tag - target).toNat = 0 ↔ tag - target = 0#8) from
      ⟨fun h => BitVec.eq_of_toNat_eq h, fun h => by rw [h]; rfl⟩]
    exact ⟨fun h => by rw [h, BitVec.sub_self], fun h => by
      rw [← BitVec.sub_add_cancel tag target, h, BitVec.zero_add]⟩
  unfold place
  rw [htag]
  dsimp only
  split_ifs <;> simp only [true_iff, false_iff] <;> omega

theorem CylId.fromNumber_number (c : CylId) : CylId.fromNumber c.number = some c := by cases c <;> rfl

theorem CylId.number_pos (c : CylId) : 1 ≤ c.number ∧ c.number ≤ 8 := by cases c <;> decide

theorem recordCyl_number {u : Setup} {c : CylId} (h : c.number ≤ u.cylCount) : recordCyl u c.number = some c := by
  have := CylId.number_pos c
  rw [recordCyl, if_neg (by omega), CylId.fromNumber_number]

/-- The first word of a record whose STATE is READY or ABORT_REQ, with a configured CYL (R30, R31). -/
theorem State.openRecord_opened {u : Setup} {s : State} {c : CylId} (hb : s.mem.wordBad (0x1000 + 128 * s.latch.takePos) = false)
    (hst : s.mem.readByte (0x1000 + 128 * s.latch.takePos) = 1 ∨ s.mem.readByte (0x1000 + 128 * s.latch.takePos) = 4)
    (hc : (s.mem.readByte (0x1000 + 128 * s.latch.takePos + 1)).toNat = c.number) (hn : c.number ≤ u.cylCount) :
    s.openRecord u = .opened (s.mem.readByte (0x1000 + 128 * s.latch.takePos)).toNat c.number c := by
  unfold State.openRecord recordOffset
  dsimp only
  rw [loByte_readWord, hiByte_readWord, hc, recordCyl_number hn, if_neg (by simp [hb])]
  rcases hst with h | h <;> simp [h, stateReady, stateAbortReq]

/-- The second word of a record with good parity (R30 step 2, R33). -/
theorem State.placeRecord_placed {u : Setup} {v : LatchView} {s : State} (c : CylId)
    (hb : s.mem.wordBad (0x1000 + 128 * s.latch.takePos + 2) = false) :
    s.placeRecord u v c = .placed
      (place u v.cyl c (s.mem.readByte (0x1000 + 128 * s.latch.takePos + 2)) (v.target.extractLsb' 0 8))
      ((s.mem.readByte (0x1000 + 128 * s.latch.takePos + 3)).toNat % 2 == 1) := by
  unfold State.placeRecord recordOffset
  dsimp only
  rw [hiByte_readWord, Memory.readWord_low, if_neg (by simp [hb])]

/-- Settles O27. -/
theorem recordPlacement : Obligations.RecordPlacement := by
  refine ⟨place_iff, fun u k c hk hc => ⟨Nat.le_add_right 1 _, Setup.firingPos_le hk, ?_, Setup.firingPos_lt_iff hk hc⟩, ?_, ?_⟩
  · unfold Setup.firingPos Setup.cylinders cylsUpTo
    rw [List.filter_filter]
    refine congrArg (fun l => 1 + List.length l) (List.filter_congr fun j _ => ?_)
    rw [Bool.eq_iff_iff]
    simp [and_comm]
  · intro u k c hdist hk hc
    refine ⟨fun h => ?_, fun h => by rw [h]⟩
    by_contra hne
    have htdc := hdist c k hne hc hk
    rcases Nat.lt_or_gt_of_ne htdc with hlt | hlt
    · exact absurd (Setup.firingPos_lt hc hlt) (by omega)
    · exact absurd (Setup.firingPos_lt hk hlt) (by omega)
  · intro u s v n o c hm ho hb hb2 hst hcyl hc hplace
    subst ho
    unfold State.take
    rw [State.turn_calm hm, State.turn_calm hm, State.openRecord_opened hb hst hcyl hc]
    dsimp only
    rw [State.placeRecord_placed c hb2, hplace]

end Sys2Proof.Machine

/-! # Quench ends, start expiries and slip deadlines -/

namespace Sys2Proof.Machine

/-! ## The release of a bank -/

theorem State.setMode_eq (s : State) (bk : BankId) (m : BankMode) : s.setMode bk m =
    { s with
      banks := s.banks.set bk { s.bank bk with mode := m }
      mem := s.mem.mirror s.sb.live [(0x240 + 8 * bk.index, BitVec.ofNat 16 m.code)] } := by
  have hm : lowByte m.code = BitVec.ofNat 16 m.code := by cases m <;> rfl
  unfold State.setMode
  simp only [State.statusAll_eq, bankModeWords, hm]
  rfl

theorem Bank.settleExpiry_eq (x : Bank) (m : Trim) (t : Time) : x.settleExpiry m t = match x.boostEnd with
    | none => some (Time.add t m.minDwell)
    | some b => some (Time.latest (Time.add t m.minDwell) (Time.add b m.rechargeGuard)) := by
  unfold Bank.settleExpiry
  cases x.boostEnd <;> rfl

/-- The state after a bank has been released with nobody waiting. -/
def State.bankFreed (bk : BankId) (s : State) : State :=
  { s with
    banks := s.banks.set bk ((s.bank bk).released s.su.trim s.now)
    mem := s.mem.mirror s.sb.live [(0x240 + 8 * bk.index, 3)] }

/-- A bank whose channel becomes IDLE with nobody waiting: released, its word written, no head timer (R83, R95, R116). -/
theorem State.freeBank_eq {s : State} {bk : BankId} (hw : (s.bank bk).waiting = []) :
    (s.freeBank bk).headCheck bk = s.bankFreed bk := by
  unfold State.freeBank State.release
  rw [State.setMode_eq, State.bank_setBank, Bank.settleExpiry_eq]
  unfold State.headCheck Bank.headTimer State.bankFreed Bank.released
  have hw : (s.banks.get bk).waiting = [] := hw
  simp only [State.setBank, State.setBanks, State.bank, Four.get_set_same, Four.set_set, hw]
  rfl

/-- A bank after the head check of a release (R89). -/
def Bank.headChecked (x : Bank) (t : Time) : Bank := if x.holder.isNone then { x with headAt := x.headTimer t } else x

theorem State.headCheck_eq (s : State) (bk : BankId) : s.headCheck bk = s.setBank bk ((s.bank bk).headChecked s.now) := by
  have hself : s.banks.set bk (s.bank bk) = s.banks := Four.set_get _ _
  unfold State.headCheck Bank.headChecked
  dsimp only
  split
  · rfl
  · rw [State.setBank, hself]
    rfl

/-- A change of an event and a head check pass one another. -/
theorem State.headCheck_modEvent (s : State) (bk : BankId) (k : CylId) (seq : Word) (f : Event → Event) :
    (s.modEvent k seq f).headCheck bk = (s.headCheck bk).modEvent k seq f := by
  have hcyl : (s.headCheck bk).cyl k = s.cyl k := by rw [State.headCheck_eq]; rfl
  unfold State.modEvent
  rw [hcyl]
  cases (s.cyl k).event with
  | none => rfl
  | some e =>
    dsimp only
    split
    · rw [State.headCheck_eq, State.headCheck_eq]
      rfl
    · rfl

/-- The end of a quench of an event pulse, before its event is judged (R116). -/
theorem State.quenchOver_event {s : State} {bk : BankId} {p : Player} {seq : Word} {i : Nat} {kind : Kind} {d : Bool}
    (hp : (s.bank bk).channel = some p) (hj : p.job = .event seq i kind d) (hw : (s.bank bk).waiting = []) :
    s.quenchOver bk = (s.bankFreed bk).modPulse p.cyl seq i fun q => { q with cond := .resolved } := by
  unfold State.quenchOver
  rw [hp]
  dsimp only
  rw [hj]
  dsimp only
  rw [State.modPulse, State.headCheck_modEvent, State.freeBank_eq hw, State.modPulse]

/-- The end of the quench of an event pulse, other pulses of its event going on (R77, R116). -/
theorem State.quenchEnd_event {s : State} {bk : BankId} {p : Player} {e : Event} {seq : Word} {i : Nat} {kind : Kind} {d : Bool}
    (hp : (s.bank bk).channel = some p) (hj : p.job = .event seq i kind d) (hw : (s.bank bk).waiting = [])
    (he : (s.cyl p.cyl).event = some e) (hs : e.seq = seq) (ho : e.others i) :
    s.quenchEnd bk = (s.bankFreed bk).setCyl p.cyl { s.cyl p.cyl with
      event := some { e with pulses := modPulses i (fun q => { q with cond := .resolved }) e.pulses } } := by
  unfold State.quenchEnd State.judge
  rw [hp]
  dsimp only
  rw [hj, State.quenchOver_event hp hj hw, State.modPulse_of (s := s.bankFreed bk) he hs]
  exact State.settle_unresolved
    (e := { e with pulses := modPulses i (fun q => { q with cond := .resolved }) e.pulses })
    (by rw [State.cyl_setCyl]) (ho.modPulses _)

/-- The end of a quench whose event an overrun has ended before: the bank alone releases (R42, R116). -/
theorem State.quenchEnd_overrun {s : State} {bk : BankId} {p : Player} {seq : Word} {i : Nat} {kind : Kind} {d : Bool}
    (hp : (s.bank bk).channel = some p) (hj : p.job = .event seq i kind d) (hw : (s.bank bk).waiting = [])
    (he : ∀ e, (s.cyl p.cyl).event = some e → e.seq ≠ seq ∧ ∃ q ∈ e.pulses, q.cond ≠ .resolved) :
    s.quenchEnd bk = s.bankFreed bk := by
  unfold State.quenchEnd State.judge
  rw [hp]
  dsimp only
  rw [hj, State.quenchOver_event hp hj hw]
  have hcyl : (s.bankFreed bk).cyl p.cyl = s.cyl p.cyl := rfl
  have hmod : (s.bankFreed bk).modPulse p.cyl seq i (fun q => { q with cond := .resolved }) = s.bankFreed bk := by
    unfold State.modPulse State.modEvent
    rw [hcyl]
    cases hev : (s.cyl p.cyl).event with
    | none => rfl
    | some e => exact if_neg (he e hev).1
  rw [hmod]
  cases hev : (s.cyl p.cyl).event with
  | none => exact State.settle_none (hcyl ▸ hev)
  | some e => exact State.settle_unresolved (hcyl ▸ hev) (he e hev).2

/-- The end of the quench of the service pulse (R116, R125). -/
theorem State.quenchEnd_service {s : State} {bk : BankId} {p : Player} {f : Nat} {r : PulseResult}
    (hp : (s.bank bk).channel = some p) (hj : p.job = .service f) (hr : p.result = some r) (hw : (s.bank bk).waiting = []) :
    s.quenchEnd bk =
      { s with
        banks := s.banks.set bk ((s.bank bk).released s.su.trim s.now)
        sb := { s.sb with service := s.sb.service.closed r }
        ev := { s.ev with sticky := s.ev.sticky ||| 0x8000 }
        mem := s.mem.mirror s.sb.live
          [(0x1B4, BitVec.ofNat 16 (min 65535 r.driven)), (0x1B6, BitVec.ofNat 16 (min 65535 r.peak)),
            (0x1B2, BitVec.ofNat 16 (2 * r.boostLow.toNat)), (0x1B8, BitVec.ofNat 16 r.outcome.code),
            (0x240 + 8 * bk.index, 3)] } := by
  have hclosed : s.sb.service.ended r = s.sb.service.closed r := by
    have hb : bytePair (2 * r.boostLow.toNat) 0 = BitVec.ofNat 16 (2 * r.boostLow.toNat) := by cases r.boostLow <;> rfl
    have ho : lowByte r.outcome.code = BitVec.ofNat 16 r.outcome.code := by cases r.outcome <;> rfl
    simp only [ServiceEntry.ended, ServiceEntry.closed, hb, ho]
    rfl
  have hdone : s.serviceResult p =
      { s with
        sb := { s.sb with service := s.sb.service.closed r }
        ev := { s.ev with sticky := s.ev.sticky ||| 0x8000 }
        mem := s.mem.mirror s.sb.live
          [(0x1B4, BitVec.ofNat 16 (min 65535 r.driven)), (0x1B6, BitVec.ofNat 16 (min 65535 r.peak)),
            (0x1B2, BitVec.ofNat 16 (2 * r.boostLow.toNat)), (0x1B8, BitVec.ofNat 16 r.outcome.code)] } := by
    unfold State.serviceResult
    rw [hr]
    dsimp only
    unfold State.serviceDone
    dsimp only
    rw [hclosed, State.statusAll_eq]
    rfl
  unfold State.quenchEnd State.judge State.quenchOver
  rw [hp]
  dsimp only
  rw [hj]
  dsimp only
  rw [hdone, State.freeBank_eq (by exact hw), State.bankFreed, Memory.mirror_mirror]
  rfl

/-- Settles O46. -/
theorem quenchEnds : Obligations.QuenchEnds := by
  refine ⟨?_, ?_⟩
  · intro c s bk sense t p z hp hq hc hw hz
    have hexec : exec c s = .next ((s.expire t bk sense).quenchEnd bk) := by
      rcases hc with ⟨rfl, ht⟩ | ⟨rfl, hlow⟩
      · have htimer : (s.bank bk).quenchTimer = some t := by simp [Bank.quenchTimer, hp, hq, ht]
        show Host.Outcome.next (s.onTimer (s.bank bk).quenchTimer bk sense (State.quenchEnd bk)) = _
        rw [htimer]
        rfl
      · have hunder : senseUnder ((s.expire t bk sense).senseOf bk) p.quenchLevel = true := by
          simp [State.senseOf, State.expire, senseUnder, hlow]
        have hp' : ((s.expire t bk sense).bank bk).channel = some p := hp
        show Host.Outcome.next ((s.expire t bk sense).lowerChange bk) = _
        unfold State.lowerChange
        rw [hp']
        dsimp only
        rw [hq]
        dsimp only
        rw [if_pos hunder]
    have hindex : bk.index ≤ 3 := by cases bk <;> decide
    have hbank : 0x240 + 8 * bk.index + 1 < memBytes := by cases bk <;> decide
    have hshown := Memory.mirror_again s.sb.live (0x240 + 8 * bk.index) [] 3 s.mem hbank
    refine ⟨fun seq i kind d hj => ⟨fun e he hs ho => ⟨_, ?_, hshown⟩, fun he => ⟨_, ?_, hshown⟩⟩, fun f r hj hr => ?_⟩
    · rw [hexec, State.quenchEnd_event (s := s.expire t bk sense) hp hj hw he hs ho, hz]
      rfl
    · rw [hexec, State.quenchEnd_overrun (s := s.expire t bk sense) hp hj hw he, hz]
      rfl
    · rw [hexec, State.quenchEnd_service (s := s.expire t bk sense) hp hj hr hw, hz]
      refine ⟨_, rfl, Memory.shown_of _ _ ?_ ?_⟩
      · simp
        omega
      · simp [memBytes]
        omega
  · intro s bk sense hn
    have htimer : (s.bank bk).quenchTimer = none := by
      unfold Bank.quenchTimer
      cases hp : (s.bank bk).channel with
      | none => rfl
      | some p => exact if_neg (hn p hp)
    show Host.Outcome.next (s.onTimer (s.bank bk).quenchTimer bk sense (State.quenchEnd bk)) = _
    rw [htimer]
    rfl

end Sys2Proof.Machine

/-! # Start expiries that abort, and slip deadlines -/

namespace Sys2Proof.Machine

/-- A record whose STATE word shows ABORT_REQ or a parity error is met as an abort (R43). -/
theorem State.abortMet_of_abort {s : State} {e : Event} {k : CylId} {seq : Word} {i : Nat} (he : (s.cyl k).event = some e)
    (hq : e.seq = seq) (hr : e.record = some i)
    (ha : s.mem.wordBad (0x1000 + 128 * i) = true ∨ s.mem.readByte (0x1000 + 128 * i) = 4) : s.abortMet k seq = true := by
  simp only [State.abortMet, State.eventOf, he, hq, if_true, hr, Memory.abortFound, recordOffset, Bool.or_eq_true, beq_iff_eq,
    loByte_readWord]
  exact ha.imp_right fun h => by rw [h]; rfl

/-- A held pulse is resolved, other pulses of its event going on (R75, R77). -/
theorem State.resolveHeld_others {s : State} {e : Event} {k : CylId} {seq : Word} {i : Nat} (he : (s.cyl k).event = some e)
    (hq : e.seq = seq) (ho : e.others i) (o : PulseOutcome) : (s.resolveHeld k seq i o).settle k = s.setCyl k { s.cyl k with
      event := some { e with pulses := modPulses i (fun q => { q with cond := .resolved, outcome := some o }) e.pulses } } := by
  unfold State.resolveHeld
  rw [State.modPulse_of he hq]
  exact State.settle_unresolved
    (e := { e with pulses := modPulses i (fun q => { q with cond := .resolved, outcome := some o }) e.pulses })
    (by rw [State.cyl_setCyl]) (ho.modPulses _)

/-- A start expiry that meets an abort (R43, R73), other pulses of the event going on. -/
theorem State.startRead_abort {s : State} {e : Event} {a : ArmedEntry} {i : Nat} (he : (s.cyl a.entry.cyl).event = some e)
    (hq : e.seq = a.entry.seq) (hr : e.record = some i)
    (ha : s.mem.wordBad (0x1000 + 128 * i) = true ∨ s.mem.readByte (0x1000 + 128 * i) = 4) (ho : e.others a.entry.index) :
    s.startRead a = s.setCyl a.entry.cyl { s.cyl a.entry.cyl with
      event := some { e with
        pulses := modPulses a.entry.index (fun q => { q with cond := .resolved, outcome := some .abortDrop }) e.pulses } } := by
  unfold State.startRead
  rw [if_pos (State.abortMet_of_abort he hq hr ha), State.resolveHeld_others he hq ho]

theorem State.conflict_eq (s : State) (bk : BankId) : s.conflict bk =
    { s with
      banks := s.banks.set bk { s.bank bk with conflicts := satCount (s.bank bk).conflicts }
      ev := { s.ev with sticky := s.ev.sticky ||| 0x0200 }
      mem := s.mem.mirror s.sb.live [(0x240 + 8 * bk.index + 2, satCount (s.bank bk).conflicts)] } := by
  unfold State.conflict
  simp only [State.statusAll_eq]
  rfl

/-! ## The first entry of a list that a predicate finds -/

/-- The head stays the head of the list without the entries that `p` holds of, unless it is the one that `find?` finds. -/
theorem head?_filter_not {α : Type} {p : α → Bool} {l : List α} {r : α} (h : l.find? p = some r) :
    (l.filter fun y => !p y).head? = l.head? ↔ l.head? ≠ some r := by
  have hr : p r = true := List.find?_some h
  cases l with
  | nil => cases h
  | cons x rest =>
    cases hx : p x with
    | false =>
      have hne : x ≠ r := fun hxr => by rw [hxr, hr] at hx; cases hx
      simp [hx, hne]
    | true =>
      obtain rfl : x = r := by simpa [hx] using h
      have hnot : ((x :: rest).filter fun y => !p y).head? ≠ some x := fun hh => by
        have hmem := List.mem_of_mem_head? hh
        rw [List.mem_filter, hr] at hmem
        simp at hmem
      simpa using hnot

/-! ## The slip deadline -/

/-- A waiting pulse dropped at its deadline, other pulses of its event going on (R91, R101). -/
theorem State.slipDrop_others {s : State} {bk : BankId} {r : Request} {e : Event} (he : (s.cyl r.cyl).event = some e)
    (hq : e.seq = r.seq) (ho : e.others r.index) (c : Bool) (t : Time) : s.slipDrop bk r c t =
      { s with
        banks := s.banks.set bk { s.bank bk with conflicts := satCount (s.bank bk).conflicts }
        cyls := s.cyls.set r.cyl { s.cyl r.cyl with
          event := some { e with
            pulses := modPulses r.index (fun q =>
              { q with
                cond := .resolved, outcome := some .slipDrop, crowded := c, slip := Time.since t r.start }) e.pulses } }
        ev := { s.ev with sticky := s.ev.sticky ||| 0x0200 }
        mem := s.mem.mirror s.sb.live [(0x240 + 8 * bk.index + 2, satCount (s.bank bk).conflicts)] } := by
  unfold State.slipDrop
  rw [State.modPulse_of he hq, State.conflict_eq]
  exact State.settle_unresolved
    (e := { e with
      pulses := modPulses r.index (fun q =>
        { q with
          cond := .resolved, outcome := some .slipDrop, crowded := c, slip := Time.since t r.start }) e.pulses })
    (by simp [State.cyl, State.setCyl, State.setCyls]) (ho.modPulses _)

/-- A bank with a holder makes no grant (R89). -/
theorem State.grantCheck_held {s : State} {bk : BankId} (h : (s.bank bk).holder.isSome = true) : s.grantCheck bk = s :=
  if_pos h

/-- Settles O39. -/
theorem startAbortsAndDeadlines : Obligations.StartAbortsAndDeadlines := by
  refine ⟨?_, ?_, ?_, ?_⟩
  · intro u s a rest e p bk sense i hst hi ha ho
    have hbank : s.bankOf a.entry.cyl = bk := by simp [State.bankOf, hst.setup, hst.bank]
    show Host.Outcome.next (s.startExpires sense) = _
    unfold State.startExpires
    rw [hst.first]
    dsimp only
    unfold State.startNow State.startPulse
    rw [hbank, State.reread_calm (by exact hst.calm)]
    exact congrArg _ (State.startRead_abort (by exact hst.event) hst.seq hi (by exact ha) ho)
  · intro s sense h
    show Host.Outcome.next (s.startExpires sense) = _
    unfold State.startExpires
    rw [h]
  · intro s bk seq i sense r e w hr he hq ho hw
    have hseq : r.seq = seq ∧ r.index = i.toNat := by simpa using List.find?_some hr
    have hremove : (s.bank bk).remove r = { s.bank bk with
        waiting := w, headAt := if w.head? = (s.bank bk).waiting.head? then (s.bank bk).headAt else none } := by
      unfold Bank.remove
      rw [hseq.1, hseq.2, ← hw]
    have hhead := head?_filter_not hr
    rw [← hw] at hhead
    have hword : 0x240 + 8 * bk.index + 2 + 1 < memBytes := by cases bk <;> decide
    have hexec : exec (.slipDeadlineExpiry bk seq i sense []) s = .next
        ((((s.expire r.deadline bk sense).setBank bk ((s.bank bk).remove r)).slipDrop bk r false r.deadline).recheck bk
          (s.bank bk).waiting.head?) := by
      show Host.Outcome.next (s.deadlineExpires bk seq i.toNat sense) = _
      unfold State.deadlineExpires Bank.waitingPulse
      rw [hr]
      rfl
    rw [hexec, hremove, State.slipDrop_others (by exact he) hq ho]
    refine ⟨_, _, rfl, fun h => ?_, fun h => ?_, fun h => ?_, Memory.mirror_again s.sb.live _ [] _ s.mem hword⟩
    · rw [State.recheck, if_neg]
      · simp only [State.setBank, State.setBanks, State.bank, State.expire, State.at, State.see, State.setNow, State.setPins,
          Four.get_set_same, Four.set_set]
        rfl
      · simpa [State.bank, State.setBank, State.setBanks] using fun hh => hhead.1 hh h
    · rw [State.recheck, if_pos]
      · simp only [State.setBank, State.setBanks, State.bank, State.expire, State.at, State.see, State.setNow, State.setPins,
          Four.get_set_same, Four.set_set]
        rfl
      · simpa [State.bank, State.setBank, State.setBanks] using hhead.2 h
    · exact State.grantCheck_held (by simpa [State.bank] using h)
  · intro s bk seq i sense h
    show Host.Outcome.next (s.deadlineExpires bk seq i.toNat sense) = _
    have hnone : (s.bank bk).waitingPulse seq i.toNat = none := by
      refine List.find?_eq_none.2 fun r hr => ?_
      simpa [or_iff_not_imp_left] using h r hr
    unfold State.deadlineExpires
    rw [hnone]

end Sys2Proof.Machine

/-! # RUN and the trim copy -/

namespace Sys2Proof.Machine

/-! ## The hold counts limited, word by word -/

/-- The HOLD_COUNT words of the cylinders of `ks` whose counts lie above a limit (R51). -/
def State.lowerWords (s : State) (ks : List CylId) (n : Nat) : List (Nat × Word) :=
  (ks.filter fun k => n < (s.cyl k).holdCount).map fun k => (0x1C6 + 16 * (k.number - 1), lowByte n)

theorem State.limitHold_words (s : State) (k : CylId) : s.limitHold k =
    { s with
      cyls := s.cyls.set k ((s.cyl k).limited s.su.trim.holdLimit)
      mem := s.mem.mirror s.sb.live (s.lowerWords [k] s.su.trim.holdLimit) } := by
  have hoff : offCyl k + 6 = 0x1C6 + 16 * (k.number - 1) := by unfold offCyl; omega
  unfold State.limitHold State.lowerWords
  split
  · rename_i h
    have hmin : min (s.cyl k).holdCount s.su.trim.holdLimit = s.su.trim.holdLimit := Nat.min_eq_right (Nat.le_of_lt h)
    rw [State.setHold, Cylinder.limited, hmin]
    dsimp only
    rw [State.statusAll_eq]
    simp [h, holdWords, hoff]
    rfl
  · rename_i h
    have hmin : min (s.cyl k).holdCount s.su.trim.holdLimit = (s.cyl k).holdCount := Nat.min_eq_left (Nat.le_of_not_lt h)
    have hsame : s.cyls.set k (s.cyl k) = s.cyls := Eight.set_get _ _
    simp [h, Cylinder.limited, hmin, Memory.mirror_nil, hsame]

/-- The hold counts of some cylinders limited, one after another (R51). -/
theorem State.limitFold_words (ks : List CylId) (hk : ks.Nodup) : ∀ u : State, ks.foldl State.limitHold u =
    { u with
      cyls := ks.foldl (fun c k => c.set k ((c.get k).limited u.su.trim.holdLimit)) u.cyls
      mem := u.mem.mirror u.sb.live (u.lowerWords ks u.su.trim.holdLimit) } := by
  induction ks with
  | nil => exact fun u => by simp [State.lowerWords, Memory.mirror_nil]
  | cons k rest ih =>
    intro u
    obtain ⟨hnot, hrest⟩ := List.nodup_cons.1 hk
    have hwords : ∀ n, (u.limitHold k).lowerWords rest n = u.lowerWords rest n := fun n => by
      have hcyl : ∀ j ∈ rest, (u.limitHold k).cyl j = u.cyl j := fun j hj => by
        rw [State.limitHold_words]
        exact Eight.get_set_ne _ _ fun h => hnot (h ▸ hj)
      unfold State.lowerWords
      rw [List.filter_congr fun j hj => by rw [hcyl j hj]]
    have hsplit : ∀ n, u.lowerWords (k :: rest) n = u.lowerWords [k] n ++ u.lowerWords rest n := fun n => by
      unfold State.lowerWords
      rw [← List.map_append, ← List.filter_append]
      rfl
    rw [List.foldl_cons, ih hrest, hwords, hsplit, ← Memory.mirror_mirror, State.limitHold_words]
    rfl

theorem State.limitHolds_words (s : State) : s.limitHolds =
    { s with
      cyls := s.cyls.map fun _ c => c.limited s.su.trim.holdLimit
      mem := s.mem.mirror s.sb.live (s.lowerWords CylId.all s.su.trim.holdLimit) } := by
  have hcyls : CylId.all.foldl (fun c k => c.set k ((c.get k).limited s.su.trim.holdLimit)) s.cyls =
      s.cyls.map fun _ c => c.limited s.su.trim.holdLimit := Eight.ext_get fun k => by cases k <;> rfl
  unfold State.limitHolds
  rw [State.limitFold_words CylId.all (by decide), hcyls]

theorem lowerWords_apart (s : State) (n : Nat) (l : List (Nat × Word)) (hl : Apart l) (hb : ∀ p ∈ l, p.1 + 2 ≤ 0x1C6) :
    Apart (l ++ s.lowerWords CylId.all n) := by
  refine List.pairwise_append.2 ⟨hl, ?_, fun p hp q hq => .inl ?_⟩
  · have hall : CylId.all.Pairwise fun j k => 0x1C6 + 16 * (j.number - 1) + 2 ≤ 0x1C6 + 16 * (k.number - 1) := by decide
    exact List.pairwise_map.2 ((hall.filter _).imp .inl)
  · obtain ⟨k, _, rfl⟩ := List.mem_map.1 hq
    have := hb p hp
    dsimp only
    omega

theorem lowerWords_inside (s : State) (n : Nat) : ∀ p ∈ s.lowerWords CylId.all n, p.1 + 1 < memBytes := by
  intro p hp
  obtain ⟨k, _, rfl⟩ := List.mem_map.1 hp
  have := CylId.number_pos k
  dsimp only
  unfold memBytes
  omega

/-- What a reader finds after words and the lowered hold counts have been shown (R51). -/
theorem Memory.mirror_lowered {s : State} {n : Nat} {l : List (Nat × Word)} {m : Memory} {lowered : List Nat}
    (hm : s.mem.calm) (hl : Apart l) (hb : ∀ p ∈ l, p.1 + 2 ≤ 0x1C6) (hmem : m = s.mem.mirror s.sb.live (l ++ s.lowerWords CylId.all n))
    (hlow : lowered = if s.sb.live then
      (CylId.all.filter fun k => n < (s.cyl k).holdCount).map (fun k => 0x1C6 + 16 * (k.number - 1)) else []) :
    s.mem.SameOutside ((if s.sb.live then l.map Prod.fst else []) ++ lowered) m
      ∧ (n ≤ 15 → ∀ off ∈ lowered, m.Shows off (BitVec.ofNat 16 n))
      ∧ (s.sb.live = true → ∀ p ∈ l, m.Shows p.1 p.2) := by
  have hshown : Memory.Shown s.sb.live (l ++ s.lowerWords CylId.all n) s.mem m := by
    rw [hmem]
    refine Memory.mirror_shown s.sb.live s.mem (lowerWords_apart s n l hl hb) fun p hp => ?_
    rcases List.mem_append.1 hp with hp | hp
    · have := hb p hp
      unfold memBytes
      omega
    · exact lowerWords_inside s n p hp
  have hoffs : (s.lowerWords CylId.all n).map Prod.fst =
      (CylId.all.filter fun k => n < (s.cyl k).holdCount).map (fun k => 0x1C6 + 16 * (k.number - 1)) := by
    simp [State.lowerWords, Function.comp_def]
  cases hlive : s.sb.live with
  | false =>
    rw [hlive] at hshown hlow
    obtain rfl : m = s.mem := hshown
    simp [hlow, Memory.SameOutside]
  | true =>
    rw [hlive] at hshown hlow
    obtain ⟨hsame, hread⟩ : Memory.Stored (l ++ s.lowerWords CylId.all n) s.mem m := hshown
    simp only [if_true] at hlow ⊢
    rw [hlow, ← hoffs, ← List.map_append]
    refine ⟨hsame, fun hn off hoff => ?_, fun _ p hp => hread hm p (List.mem_append_left _ hp)⟩
    obtain ⟨p, hp, rfl⟩ := List.mem_map.1 hoff
    have hword : p.2 = BitVec.ofNat 16 n := by
      obtain ⟨k, _, rfl⟩ := List.mem_map.1 hp
      exact congrArg (BitVec.ofNat 16) (Nat.mod_eq_of_lt (by omega))
    exact hword ▸ hread hm p (List.mem_append_right _ hp)

/-! ## The fields of a slot -/

theorem clamp_eq {lo hi : Nat} (h : lo ≤ hi) (v : Nat) : clamp lo hi v = max lo (min hi v) := by
  unfold clamp
  split
  · omega
  · split <;> omega

theorem changedMask_lt (l l' : List Nat) : changedMask l l' < 2 ^ l.length := by
  induction l generalizing l' with
  | nil => simp [changedMask]
  | cons x xs ih =>
    cases l' with
    | nil => simp [changedMask]
    | cons y ys =>
      have := ih ys
      have := Bool.toNat_lt (decide (x ≠ y))
      simp only [changedMask, List.length_cons, Nat.pow_succ]
      omega

theorem changedMask_testBit {l l' : List Nat} {i x y : Nat} (hx : l[i]? = some x) (hy : l'[i]? = some y) :
    (changedMask l l').testBit i = decide (y ≠ x) := by
  induction l generalizing l' i with
  | nil => cases hx
  | cons a xs ih =>
    cases l' with
    | nil => cases hy
    | cons b ys =>
      cases i with
      | zero =>
        obtain rfl : a = x := by simpa using hx
        obtain rfl : b = y := by simpa using hy
        rw [Nat.testBit_zero, changedMask]
        by_cases h : a = b
        · simp [h]
        · simp [h, Ne.symm h]
      | succ j =>
        rw [changedMask, Nat.testBit_succ, Nat.add_comm, Nat.mul_add_div Nat.two_pos, Nat.div_eq_of_lt (Bool.toNat_lt _), Nat.add_zero]
        exact ih (by simpa using hx) (by simpa using hy)

theorem readTrim_base (m : Memory) : slotBase (slotNamed (m.readWord 0x100)) = if m.readWord 0x100 = 0 then 0x110 else 0x130 := by
  unfold slotNamed
  split <;> rfl

theorem readTrim_none_iff (m : Memory) {base : Nat} (hbase : base = if m.readWord 0x100 = 0 then 0x110 else 0x130) :
    readTrim m = none ↔ m.wordBad 0x100 = true ∨ ∃ i, i < 16 ∧ m.wordBad (base + 2 * i) = true := by
  unfold readTrim offSelector
  dsimp only
  rw [readTrim_base, ← hbase]
  cases m.wordBad 0x100 <;> simp [slotWords]

theorem readTrim_some {m : Memory} {slot : Slot} {raw : Trim} (h : readTrim m = some (slot, raw)) :
    slot = slotNamed (m.readWord 0x100) ∧ raw = trimOf ((slotWords (slotBase slot)).map m.readWord) := by
  unfold readTrim offSelector at h
  dsimp only at h
  split at h
  · cases h
  · cases h
    exact ⟨rfl, rfl⟩

/-- Word `i` of a slot's sixteen. -/
theorem slotWords_getD (m : Memory) (base : Nat) {i : Nat} (hi : i < 16) :
    ((slotWords base).map m.readWord).getD i 0 = m.readWord (base + 2 * i) := by
  simp [slotWords, hi]

/-- What a trim copy makes of one field: its bytes in the slot, the range it is clamped to, its bit in the mask (R157). -/
structure FieldCopied (m : Memory) (base ringLen : Nat) (raw : Trim) (f : Trim → Nat) (off size lo hi bit : Nat) : Prop where
  read : f raw = if size = 2 then (m.readWord (base + off)).toNat else (m.readByte (base + off)).toNat
  clamped : f (clampTrim ringLen raw) = max lo (min hi (f raw))
  masked : (changedMask raw.fields (clampTrim ringLen raw).fields).testBit bit = decide (f (clampTrim ringLen raw) ≠ f raw)

/-- A field of two bytes, word `i` of the slot. -/
theorem FieldCopied.ofWord {m : Memory} {base ringLen : Nat} {raw : Trim} {f : Trim → Nat} {i lo hi bit : Nat}
    (hraw : raw = trimOf ((slotWords base).map m.readWord)) (h16 : i < 16)
    (hf : ∀ l, f (trimOf l) = (l.getD i 0).toNat) (hc : f (clampTrim ringLen raw) = clamp lo hi (f raw)) (hle : lo ≤ hi)
    (hbit : ∀ t : Trim, t.fields[bit]? = some (f t)) : FieldCopied m base ringLen raw f (2 * i) 2 lo hi bit where
  read := by rw [hraw, hf, slotWords_getD m base h16]; rfl
  clamped := hc.trans (clamp_eq hle _)
  masked := changedMask_testBit (hbit raw) (hbit _)

/-- A field of one byte, in word `i` of the slot. -/
theorem FieldCopied.ofByte {m : Memory} {base ringLen : Nat} {raw : Trim} {f : Trim → Nat} {off lo hi bit : Nat}
    (hf : f raw = (m.readByte (base + off)).toNat) (hc : f (clampTrim ringLen raw) = clamp lo hi (f raw)) (hle : lo ≤ hi)
    (hbit : ∀ t : Trim, t.fields[bit]? = some (f t)) : FieldCopied m base ringLen raw f off 1 lo hi bit where
  read := hf
  clamped := hc.trans (clamp_eq hle _)
  masked := changedMask_testBit (hbit raw) (hbit _)

/-- The table of a slot's fields (R156, R157). -/
theorem fieldsCopied {m : Memory} {base ringLen : Nat} {raw : Trim} (hraw : raw = trimOf ((slotWords base).map m.readWord))
    (hring : 8 ≤ ringLen) {f : Trim → Nat} {off size lo hi bit : Nat} (h : (f, off, size, lo, hi, bit) ∈
      [(Trim.latchAdvance, 0x00, 2, 960, 5760, 0), (Trim.armWindow, 0x02, 2, 0, 960, 1),
        (Trim.slipPilot, 0x04, 2, 0, 20000, 2), (Trim.slipMain, 0x06, 2, 0, 20000, 3),
        (Trim.slipPost, 0x08, 2, 0, 20000, 4), (Trim.driveMax, 0x0A, 2, 1000, 60000, 5),
        (Trim.minDwell, 0x0C, 2, 50, 5000, 6), (Trim.rechargeGuard, 0x0E, 2, 0, 20000, 7),
        (Trim.overspeedPeriod, 0x10, 2, 0, 65535, 8), (Trim.overspeedHyst, 0x12, 2, 0, 4095, 9),
        (Trim.holdLimit, 0x16, 1, 0, 15, 10), (Trim.planLowAhead, 0x17, 1, 1, ringLen - 1, 11),
        (Trim.predictMode, 0x18, 1, 0, 1, 12), (Trim.serviceDuration, 0x14, 2, 100, 20000, 13)]) :
    FieldCopied m base ringLen raw f off size lo hi bit := by
  have hlow : ∀ i, i < 16 → loByte (((slotWords base).map m.readWord).getD i 0) = (m.readByte (base + 2 * i)).toNat := fun i hi => by
    rw [slotWords_getD m base hi, loByte_readWord]
  have hhigh : ∀ i, i < 16 → hiByte (((slotWords base).map m.readWord).getD i 0) = (m.readByte (base + 2 * i + 1)).toNat :=
    fun i hi => by rw [slotWords_getD m base hi, hiByte_readWord]
  simp only [List.mem_cons, Prod.mk.injEq, List.not_mem_nil, or_false] at h
  rcases h with ⟨rfl, rfl, rfl, rfl, rfl, rfl⟩ | ⟨rfl, rfl, rfl, rfl, rfl, rfl⟩ | ⟨rfl, rfl, rfl, rfl, rfl, rfl⟩ |
    ⟨rfl, rfl, rfl, rfl, rfl, rfl⟩ | ⟨rfl, rfl, rfl, rfl, rfl, rfl⟩ | ⟨rfl, rfl, rfl, rfl, rfl, rfl⟩ |
    ⟨rfl, rfl, rfl, rfl, rfl, rfl⟩ | ⟨rfl, rfl, rfl, rfl, rfl, rfl⟩ | ⟨rfl, rfl, rfl, rfl, rfl, rfl⟩ |
    ⟨rfl, rfl, rfl, rfl, rfl, rfl⟩ | ⟨rfl, rfl, rfl, rfl, rfl, rfl⟩ | ⟨rfl, rfl, rfl, rfl, rfl, rfl⟩ |
    ⟨rfl, rfl, rfl, rfl, rfl, rfl⟩ | ⟨rfl, rfl, rfl, rfl, rfl, rfl⟩
  · exact .ofWord (i := 0) hraw (by decide) (fun _ => rfl) rfl (by decide) fun _ => rfl
  · exact .ofWord (i := 1) hraw (by decide) (fun _ => rfl) rfl (by decide) fun _ => rfl
  · exact .ofWord (i := 2) hraw (by decide) (fun _ => rfl) rfl (by decide) fun _ => rfl
  · exact .ofWord (i := 3) hraw (by decide) (fun _ => rfl) rfl (by decide) fun _ => rfl
  · exact .ofWord (i := 4) hraw (by decide) (fun _ => rfl) rfl (by decide) fun _ => rfl
  · exact .ofWord (i := 5) hraw (by decide) (fun _ => rfl) rfl (by decide) fun _ => rfl
  · exact .ofWord (i := 6) hraw (by decide) (fun _ => rfl) rfl (by decide) fun _ => rfl
  · exact .ofWord (i := 7) hraw (by decide) (fun _ => rfl) rfl (by decide) fun _ => rfl
  · exact .ofWord (i := 8) hraw (by decide) (fun _ => rfl) rfl (by decide) fun _ => rfl
  · exact .ofWord (i := 9) hraw (by decide) (fun _ => rfl) rfl (by decide) fun _ => rfl
  · exact .ofByte (hraw ▸ hlow 11 (by decide)) rfl (by decide) fun _ => rfl
  · exact .ofByte (hraw ▸ hhigh 11 (by decide)) rfl (by omega) fun _ => rfl
  · exact .ofByte (hraw ▸ hlow 12 (by decide)) rfl (by decide) fun _ => rfl
  · exact .ofWord (i := 10) hraw (by decide) (fun _ => rfl) rfl (by decide) fun _ => rfl

/-! ## RUN -/

theorem exec_run_accepted (arg : Byte) (top : BitVec 4) {s : State} (hh : s.held = false) (hr : s.ctl.run = .ready) :
    exec (.run arg top []) s = .next (s.answer (requestWord 2 arg top) .accepted).beginRun := by
  show Host.Outcome.next (State.takeRequest (requestWord 2 arg top) (s.ctl.run == .ready) State.beginRun s) = _
  rw [State.takeRequest, hh, hr]
  rfl

theorem clamp_le {lo hi : Nat} (h : lo ≤ hi) (v : Nat) : clamp lo hi v ≤ hi := by
  rw [clamp_eq h]
  omega

theorem clampTrim_holdLimit_le (ringLen : Nat) (raw : Trim) : (clampTrim ringLen raw).holdLimit ≤ 15 :=
  clamp_le (lo := 0) (by decide) raw.holdLimit

/-- A good trim copy in force (R157), before the hold counts are limited. -/
theorem State.putTrim_eq (slot : Slot) (raw : Trim) (s : State) : s.putTrim slot raw =
    { s with
      su := { s.su with
        trim := clampTrim s.ringLen raw, slot := slot
        clampMask := BitVec.ofNat 16 (changedMask raw.fields (clampTrim s.ringLen raw).fields) }
      mem := s.mem.mirror s.sb.live [(0x198, lowByte slot.code),
        (0x19A, BitVec.ofNat 16 (changedMask raw.fields (clampTrim s.ringLen raw).fields))] } := by
  unfold State.putTrim
  dsimp only
  rw [State.statusAll_eq]
  rfl

theorem slotCode_word (slot : Slot) : lowByte slot.code = if slot = .slot0 then 0 else if slot = .slot1 then 1 else 0xFF := by
  cases slot <;> rfl

/-- Settles O52. -/
theorem runAccepted : Obligations.RunAccepted := by
  refine ⟨fun s arg top z lowered hh hm hr hlow hz => ⟨fun slot raw x ht hx => ?_, fun ht => ?_⟩,
    fun m base hbase => ⟨readTrim_none_iff m hbase, fun slot raw ht => ?_⟩⟩
  · obtain ⟨hsame, hlower, hshow⟩ := Memory.mirror_lowered (s := s) (n := x.holdLimit)
      (l := [(0x198, lowByte slot.code), (0x19A, BitVec.ofNat 16 (changedMask raw.fields x.fields))]) hm (by simp [Apart])
      (by simp) rfl (hlow _)
    refine ⟨_, _, rfl, ?_, hsame, hlower (hx ▸ clampTrim_holdLimit_le _ _), fun hlive => ⟨?_, ?_⟩⟩
    · rw [exec_run_accepted arg top hh hr, State.beginRun, State.copyTrim_calm (by exact hm)]
      have hread : readTrim (s.answer (requestWord 2 arg top) .accepted).mem = some (slot, raw) := ht
      rw [hread, State.useTrim, State.putTrim_eq, State.limitHolds_words, hz, hx, ← Memory.mirror_mirror]
      rfl
    · rw [← slotCode_word]
      exact hshow hlive (0x198, lowByte slot.code) (by simp)
    · exact hshow hlive (0x19A, _) (List.mem_cons_of_mem _ (List.mem_singleton_self _))
  · obtain ⟨hsame, hlower, -⟩ := Memory.mirror_lowered (s := s) (n := s.su.trim.holdLimit) (l := []) hm .nil (by simp) rfl (hlow _)
    refine ⟨_, ?_, by simpa using hsame, hlower⟩
    rw [exec_run_accepted arg top hh hr, State.beginRun, State.copyTrim_calm (by exact hm)]
    have hread : readTrim (s.answer (requestWord 2 arg top) .accepted).mem = none := ht
    rw [hread, State.useTrim, State.limitHolds_words, hz]
    rfl
  · obtain ⟨hslot, hraw⟩ := readTrim_some ht
    refine ⟨hslot, fun ringLen mask x hring hx hmask => ⟨hmask ▸ changedMask_lt _ _, fun f off size lo hi bit hf => ?_⟩⟩
    rw [hslot, readTrim_base, ← hbase] at hraw
    obtain ⟨hread, hclamp, hbit⟩ := fieldsCopied hraw hring hf
    rw [hmask, hx]
    exact ⟨hread, hclamp, hbit⟩

end Sys2Proof.Machine

/-! # Records finalised at take -/

namespace Sys2Proof.Machine

/-! ## The words of a record finalised -/

theorem wordsAt_replicate (w : Word) (n : Nat) :
    ∀ off, wordsAt off (List.replicate n w) = (List.range n).map fun j => (off + 2 * j, w) := by
  induction n with
  | zero => exact fun _ => rfl
  | succ n ih =>
    intro off
    rw [List.replicate_succ, wordsAt, ih, List.range_succ_eq_map, List.map_cons, List.map_map]
    refine congrArg₂ _ rfl (List.map_congr_left fun j _ => ?_)
    simp only [Function.comp, Prod.mk.injEq, and_true]
    omega

/-- EVENT_SEQ, TAKE_TIME and TAKE_ANGLE of a record (R29, R37). -/
def State.takeWords (s : State) (o : Nat) (seq : Word) : List (Nat × Word) :=
  [(o + 0x24, seq), (o + 0x28, lowWord s.now), (o + 0x2A, highWord s.now), (o + 0x2C, BitVec.ofNat 16 s.estimate)]

theorem State.writeTakeFields_putAll (i : Nat) (seq : Word) (s : State) :
    s.writeTakeFields i seq = s.setMem (s.mem.putAll (s.takeWords (0x1000 + 128 * i) seq)) := rfl

/-- The words of a record finalised at take (R29). -/
def State.finalWords (s : State) (o : Nat) (seq : Word) (code cyl : Nat) : List (Nat × Word) :=
  [(o + 0x24, seq), (o + 0x28, s.now.extractLsb' 0 16), (o + 0x2A, s.now.extractLsb' 16 16),
      (o + 0x2C, BitVec.ofNat 16 s.estimate), (o + 0x26, BitVec.ofNat 16 code), (o + 0x2E, 0)]
    ++ (List.range 25).map (fun j => (o + 0x30 + 2 * j, 0)) ++ [(o, BitVec.ofNat 16 (3 + 256 * cyl))]

theorem State.finaliseRecord_putAll (i : Nat) {cyl : Nat} (hc : cyl < 256) (o : EventOutcome) (seq : Word) (s : State) :
    s.finaliseRecord i cyl o seq =
      { s with
        latch := { s.latch with takePos := (s.latch.takePos + 1) % s.ringLen }
        mem := s.mem.putAll (s.finalWords (0x1000 + 128 * i) seq o.code cyl) } := by
  have hcode : bytePair o.code 0 = BitVec.ofNat 16 o.code := by cases o <;> rfl
  have hdone : bytePair stateDone cyl = BitVec.ofNat 16 (3 + 256 * cyl) := by
    rw [bytePair, Nat.mod_eq_of_lt hc]
    rfl
  have hzero : (List.range 5).flatMap (resultWords false []) = List.replicate 25 0 := rfl
  have hfirst : ∀ x : Nat, [(x + 0x24, seq), (x + 0x28, s.now.extractLsb' 0 16), (x + 0x2A, s.now.extractLsb' 16 16),
      (x + 0x2C, BitVec.ofNat 16 s.estimate), (x + 0x26, BitVec.ofNat 16 o.code), (x + 0x2E, 0)] =
      s.takeWords x seq ++ [(x + 0x26, BitVec.ofNat 16 o.code)] ++ [(x + 0x2E, 0)] := fun _ => rfl
  unfold State.finaliseRecord State.writeResults State.finalWords
  dsimp only
  rw [hcode, hdone, State.writeTakeFields_putAll, State.writeWords_putAll, hzero, wordsAt_replicate, hfirst]
  simp only [State.writeWord_putAll, Memory.putAll_append, State.setMem, State.advanceTake, State.setLatch, recordOffset,
    State.ringLen]

/-- The offsets in a record at which finalising writes. -/
def finalOffsets : List Nat := [0x24, 0x28, 0x2A, 0x2C, 0x26, 0x2E] ++ (List.range 25).map (fun j => 0x30 + 2 * j) ++ [0]

theorem State.finalWords_stored (s : State) {i : Nat} (hi : i < 64) (seq : Word) (code cyl : Nat) (m : Memory) :
    m.Stored (s.finalWords (0x1000 + 128 * i) seq code cyl) (m.putAll (s.finalWords (0x1000 + 128 * i) seq code cyl)) := by
  have hin : ∀ d ∈ finalOffsets, d ≤ 96 := by decide
  have hoffs : (s.finalWords (0x1000 + 128 * i) seq code cyl).map Prod.fst = finalOffsets.map (0x1000 + 128 * i + ·) := by
    simp only [State.finalWords, finalOffsets, List.map_append, List.map_map]
    refine congrArg₂ _ (congrArg₂ _ rfl (List.map_congr_left fun j _ => ?_)) rfl
    simp only [Function.comp]
    omega
  refine Memory.putAll_stored_at finalOffsets hoffs (by decide) (fun d hd => ?_) m
  have := hin d hd
  simp only [memBytes]
  omega

/-- A record finalised at take (R29), with EVENT_DONE where `notify`. -/
theorem State.finaliseRecord_notify {u : Setup} {s : State} {o : EventOutcome} {seq : Word} {cyl : Nat} {notify : Bool}
    (hu : s.su.setup = some u) (hi : s.latch.takePos < 64)
    (hc : cyl = (s.mem.readByte (0x1000 + 128 * s.latch.takePos + 1)).toNat) :
    s.finalisedAs u ((s.finaliseRecord s.latch.takePos cyl o seq).notifyDone notify) seq o.code notify := by
  have hring : s.ringLen = u.ringLen := by simp [State.ringLen, hu]
  subst hc
  rw [State.finaliseRecord_putAll _ (BitVec.isLt _), hring]
  refine ⟨_, s.mem.putAll (s.finalWords (0x1000 + 128 * s.latch.takePos) seq o.code
    (s.mem.readByte (0x1000 + 128 * s.latch.takePos + 1)).toNat), rfl, ?_, State.finalWords_stored s hi _ _ _ _⟩
  rw [State.notifyDone_eq]

theorem State.finaliseRecord_finalised {u : Setup} {s : State} {o : EventOutcome} {seq : Word} {cyl : Nat}
    (hu : s.su.setup = some u) (hi : s.latch.takePos < 64)
    (hc : cyl = (s.mem.readByte (0x1000 + 128 * s.latch.takePos + 1)).toNat) :
    s.finalisedAs u (s.finaliseRecord s.latch.takePos cyl o seq) seq o.code false :=
  State.finaliseRecord_notify (notify := false) hu hi hc

/-! ## The steps of a take -/

/-- The first word of a record with bad parity (R30). -/
theorem State.openRecord_parity {u : Setup} {s : State} (hb : s.mem.wordBad (0x1000 + 128 * s.latch.takePos) = true) :
    s.openRecord u = .parity (s.mem.readByte (0x1000 + 128 * s.latch.takePos + 1)).toNat := by
  unfold State.openRecord recordOffset
  dsimp only
  rw [if_pos hb, hiByte_readWord]

/-- A record whose STATE is neither READY nor ABORT_REQ (R31). -/
theorem State.openRecord_notReady {u : Setup} {s : State} (hb : s.mem.wordBad (0x1000 + 128 * s.latch.takePos) = false)
    (h1 : s.mem.readByte (0x1000 + 128 * s.latch.takePos) ≠ 1) (h4 : s.mem.readByte (0x1000 + 128 * s.latch.takePos) ≠ 4) :
    s.openRecord u = .notReady := by
  unfold State.openRecord recordOffset
  dsimp only
  rw [loByte_readWord, if_neg (by simp [hb]), if_pos]
  exact ⟨fun h => h1 (BitVec.eq_of_toNat_eq h), fun h => h4 (BitVec.eq_of_toNat_eq h)⟩

/-- A record whose CYL is not configured (R32). -/
theorem State.openRecord_invalid {u : Setup} {s : State} (hb : s.mem.wordBad (0x1000 + 128 * s.latch.takePos) = false)
    (hst : s.mem.readByte (0x1000 + 128 * s.latch.takePos) = 1 ∨ s.mem.readByte (0x1000 + 128 * s.latch.takePos) = 4)
    (hc : (s.mem.readByte (0x1000 + 128 * s.latch.takePos + 1)).toNat = 0
      ∨ u.cylCount < (s.mem.readByte (0x1000 + 128 * s.latch.takePos + 1)).toNat) :
    s.openRecord u = .invalid (s.mem.readByte (0x1000 + 128 * s.latch.takePos + 1)).toNat := by
  have hnone : recordCyl u (s.mem.readByte (0x1000 + 128 * s.latch.takePos + 1)).toNat = none := if_pos (by omega)
  unfold State.openRecord recordOffset
  dsimp only
  rw [loByte_readWord, hiByte_readWord, hnone, if_neg (by simp [hb])]
  rcases hst with h | h <;> simp [h, stateReady, stateAbortReq]

/-- The second word of a record with bad parity: NOTIFY counts where its own byte is good (R29, R30). -/
theorem State.placeRecord_bad {u : Setup} {v : LatchView} {s : State} (c : CylId)
    (hb : s.mem.wordBad (0x1000 + 128 * s.latch.takePos + 2) = true) :
    s.placeRecord u v c = .bad ((s.mem.readByte (0x1000 + 128 * s.latch.takePos + 3)).toNat % 2 == 1
      && !s.mem.byteBad (0x1000 + 128 * s.latch.takePos + 3)) := by
  unfold State.placeRecord recordOffset
  dsimp only
  rw [hiByte_readWord, if_pos hb]

section
variable {u : Setup} {v : LatchView} {s : State} {n cyl st : Nat} {c : CylId} {notify : Bool}

theorem State.take_parity (hm : s.mem.calm) (h : s.openRecord u = .parity cyl) :
    State.take u v (n + 1) s = (s.closeRecord v cyl .parity false, .fallback) := by
  unfold State.take
  rw [State.turn_calm hm, h]

theorem State.take_notReady (hm : s.mem.calm) (h : s.openRecord u = .notReady) : State.take u v (n + 1) s = (s, .fallback) := by
  unfold State.take
  rw [State.turn_calm hm, h]

theorem State.take_invalid (hm : s.mem.calm) (h : s.openRecord u = .invalid cyl) :
    State.take u v (n + 1) s = (s.closeRecord v cyl .invalid false, .fallback) := by
  unfold State.take
  rw [State.turn_calm hm, h]

theorem State.take_bad (hm : s.mem.calm) (h : s.openRecord u = .opened st cyl c) (hp : s.placeRecord u v c = .bad notify) :
    State.take u v (n + 1) s = (s.closeRecord v cyl .parity notify, .fallback) := by
  unfold State.take
  rw [State.turn_calm hm, State.turn_calm hm, h]
  dsimp only
  rw [hp]

theorem State.take_past (hm : s.mem.calm) (h : s.openRecord u = .opened st cyl c)
    (hp : s.placeRecord u v c = .placed .past notify) :
    State.take u v (n + 1) s = State.take u v n (s.closeRecord v cyl .stale notify) := by
  rw [State.take.eq_def]
  dsimp only
  rw [State.turn_calm hm, State.turn_calm hm, h]
  dsimp only
  rw [hp]

theorem State.take_matching (hm : s.mem.calm) (h : s.openRecord u = .opened st cyl c)
    (hp : s.placeRecord u v c = .placed .matching notify) :
    State.take u v (n + 1) s = s.takeMatching u v st cyl notify := by
  unfold State.take
  rw [State.turn_calm hm, State.turn_calm hm, h]
  dsimp only
  rw [hp]

end

/-! ## The entries of a record -/

/-- The fifteen words of a record's entries, as its five entries (R30 step 3; 09, Plan record). -/
theorem rawEntries_eq {m : Memory} {i o : Nat} {raw : Nat → RawEntry} (ho : o = 0x1000 + 128 * i)
    (hraw : ∀ j, raw j = ⟨j, (m.readByte (o + 4 + 6 * j)).toNat, (m.readByte (o + 5 + 6 * j)).toNat,
      (m.readWord (o + 6 + 6 * j)).toInt, (m.readWord (o + 8 + 6 * j)).toNat⟩) :
    rawEntries ((entryWords i).map m.readWord) = (List.range 5).map raw := by
  have hword : ∀ n, n < 15 → ((entryWords i).map m.readWord).getD n 0 = m.readWord (o + 4 + 2 * n) := fun n hn => by
    simp [entryWords, hn, recordOffset, ho]
  refine List.map_congr_left fun j hj => ?_
  have hj : j < 5 := List.mem_range.1 hj
  rw [hraw, rawEntry, hword _ (by omega), hword _ (by omega), hword _ (by omega), loByte_readWord, hiByte_readWord, signed16,
    BitVec.ofNat_toNat, BitVec.setWidth_eq, show o + 4 + 2 * (3 * j) = o + 4 + 6 * j by omega,
    show o + 4 + 6 * j + 1 = o + 5 + 6 * j by omega, show o + 4 + 2 * (3 * j + 1) = o + 6 + 6 * j by omega,
    show o + 4 + 2 * (3 * j + 2) = o + 8 + 6 * j by omega]

theorem entryWords_any (m : Memory) (i : Nat) :
    (entryWords i).any m.wordBad = true ↔ ∃ j, j < 15 ∧ m.wordBad (0x1000 + 128 * i + 4 + 2 * j) = true := by
  simp [entryWords, recordOffset]

theorem anglesOrdered_iff (l : List RawEntry) : anglesOrdered l = true ↔ l.Pairwise fun x y => x.relAngle ≤ y.relAngle := by
  induction l with
  | nil => simp [anglesOrdered]
  | cons x rest ih =>
    cases rest with
    | nil => simp [anglesOrdered]
    | cons y rest =>
      rw [anglesOrdered, Bool.and_eq_true, ih, decide_eq_true_iff, List.pairwise_cons (a := x)]
      refine and_congr_left fun hrest => ⟨fun hxy z hz => ?_, fun h => h y (.head _)⟩
      rcases List.mem_cons.1 hz with rfl | hz
      · exact hxy
      · exact hxy.trans ((List.pairwise_cons.1 hrest).1 z hz)

/-- The checks of R36, field by field. -/
theorem planValid_iff (count : Nat) (l : List RawEntry) : planValid count l = true ↔
    (∀ e ∈ l, e.kind = 0 ∨ (e.kind ≤ 3 ∧ e.profile < count ∧ 1 ≤ e.duration ∧ -5760 ≤ e.relAngle ∧ e.relAngle ≤ 5759))
      ∧ (l.filter fun e => e.kind != 0).Pairwise (fun x y => x.relAngle ≤ y.relAngle)
      ∧ (l.filter fun e => e.kind == 2).length ≤ 1 := by
  have hmain : (l.filter fun e => e.kind != 0).filter (fun e => e.kind == 2) = l.filter fun e => e.kind == 2 := by
    rw [List.filter_filter]
    refine List.filter_congr fun e _ => ?_
    by_cases h : e.kind = 2 <;> simp [h]
  unfold planValid
  dsimp only
  rw [Bool.and_eq_true, Bool.and_eq_true, anglesOrdered_iff, decide_eq_true_iff, hmain, List.all_eq_true, and_assoc]
  refine and_congr_left fun _ => ⟨fun h e he => ?_, fun h e he => ?_⟩
  · by_cases hk : e.kind = 0
    · exact .inl hk
    · have := h e (List.mem_filter.2 ⟨he, by simpa using hk⟩)
      simp [relAngleLegal] at this
      exact .inr (by tauto)
  · obtain ⟨he, hk⟩ := List.mem_filter.1 he
    have hk : e.kind ≠ 0 := by simpa using hk
    have := (h e he).resolve_left hk
    simp [relAngleLegal]
    tauto

/-! ## A matching record -/

section
variable {u : Setup} {v : LatchView} {s : State} {cyl : Nat} {notify : Bool}

theorem State.takeMatching_aborted : s.takeMatching u v 4 cyl notify =
    (s.finaliseRecord s.latch.takePos cyl .aborted v.seq, .closed .aborted notify) := rfl

theorem State.takeMatching_cut {o : EventOutcome} (hc : v.cut = some o) : s.takeMatching u v 1 cyl notify =
    (s.finaliseRecord s.latch.takePos cyl o v.seq, .closed o notify) := by
  unfold State.takeMatching
  rw [if_neg (by decide), hc]

/-- A matching READY record with no cut, in a memory that stands still: its fifteen words, or a parity error among them. -/
theorem State.takeMatching_ready (hm : s.mem.calm) (hc : v.cut = none) : s.takeMatching u v 1 cyl notify =
    s.takeEntries u v cyl notify (if (entryWords s.latch.takePos).any s.mem.wordBad then none
      else some ((entryWords s.latch.takePos).map s.mem.readWord)) := by
  unfold State.takeMatching
  rw [if_neg (by decide), hc]
  exact State.takeReady_calm hm u v cyl notify

end

/-- Settles O28. -/
theorem recordsFinalised : Obligations.RecordsFinalised := by
  refine ⟨fun u s v n o cyl raw notify hu hm hi ho hcyl hnot hraw => ⟨rfl, fun hb => ?_, fun hb => ⟨fun h1 h4 => ?_, fun hst =>
    ⟨fun hbad => ?_, fun c hc hn => ⟨fun hb2 => ?_, fun at' hat hb2 => ?_⟩⟩⟩⟩, planValid_iff⟩
  all_goals subst ho hcyl
  · exact ⟨_, State.take_parity hm (State.openRecord_parity hb), State.finaliseRecord_notify hu hi rfl⟩
  · exact State.take_notReady hm (State.openRecord_notReady hb h1 h4)
  · exact ⟨_, State.take_invalid hm (State.openRecord_invalid hb hst hbad), State.finaliseRecord_notify hu hi rfl⟩
  all_goals
    have hopen := State.openRecord_opened hb hst hc (hc ▸ hn)
    rw [← hc] at hopen
  · have hplace := State.placeRecord_bad (u := u) (v := v) c hb2
    rw [← hnot] at hplace
    exact ⟨_, State.take_bad hm hopen hplace, State.finaliseRecord_notify hu hi rfl⟩
  · have hplace := State.placeRecord_placed (u := u) (v := v) c hb2
    rw [← hat, ← hnot] at hplace
    refine ⟨fun h => ?_, fun h h4 => ?_, fun h h1 => ?_⟩
    all_goals rw [h] at hplace
    · exact ⟨_, State.take_past hm hopen hplace, State.finaliseRecord_notify hu hi rfl⟩
    · rw [State.take_matching hm hopen hplace, h4]
      exact ⟨_, State.takeMatching_aborted, State.finaliseRecord_finalised hu hi rfl⟩
    · rw [State.take_matching hm hopen hplace, h1]
      refine ⟨fun hcut => ⟨_, State.takeMatching_cut hcut, State.finaliseRecord_finalised hu hi rfl⟩,
        fun hcut => ⟨_, State.takeMatching_cut hcut, State.finaliseRecord_finalised hu hi rfl⟩, fun hcut hbad => ?_,
        fun hcut hgood hval => ?_⟩
      · refine ⟨_, (State.takeMatching_ready hm hcut).trans ?_, State.finaliseRecord_notify (o := .parity) hu hi rfl⟩
        rw [if_pos ((entryWords_any _ _).2 hbad)]
        rfl
      · refine ⟨_, (State.takeMatching_ready hm hcut).trans ?_, State.finaliseRecord_notify (o := .invalid) hu hi rfl⟩
        have hany : ¬ (entryWords s.latch.takePos).any s.mem.wordBad = true := fun h => by
          obtain ⟨j, hj, hb⟩ := (entryWords_any _ _).1 h
          rw [hgood j hj] at hb
          cases hb
        rw [if_neg hany]
        unfold State.takeEntries
        dsimp only
        rw [rawEntries_eq rfl hraw, hval]
        rfl

end Sys2Proof.Machine

/-! # A record taken, and a host write of its STATE word in the course of the take -/

namespace Sys2Proof.Machine

/-! ## The take in a memory that stands still -/

theorem State.take_opened {u : Setup} {v : LatchView} {s : State} {n cyl st : Nat} {c : CylId} {notify : Bool}
    (h : s.turn.openRecord u = .opened st cyl c) (hp : s.turn.turn.placeRecord u v c = .placed .matching notify) :
    State.take u v (n + 1) s = s.turn.turn.takeMatching u v st cyl notify := by
  unfold State.take
  rw [h]
  dsimp only
  rw [hp]

theorem State.openRecord_ready {u : Setup} {s : State} {c : CylId} (hb : s.mem.wordBad (0x1000 + 128 * s.latch.takePos) = false)
    (hst : s.mem.readByte (0x1000 + 128 * s.latch.takePos) = 1)
    (hc : (s.mem.readByte (0x1000 + 128 * s.latch.takePos + 1)).toNat = c.number) (hn : c.number ≤ u.cylCount) :
    s.openRecord u = .opened 1 c.number c := by
  rw [State.openRecord_opened hb (.inl hst) hc hn, hst]
  rfl

theorem State.openRecord_abort {u : Setup} {s : State} {c : CylId} (hb : s.mem.wordBad (0x1000 + 128 * s.latch.takePos) = false)
    (hst : s.mem.readByte (0x1000 + 128 * s.latch.takePos) = 4)
    (hc : (s.mem.readByte (0x1000 + 128 * s.latch.takePos + 1)).toNat = c.number) (hn : c.number ≤ u.cylCount) :
    s.openRecord u = .opened 4 c.number c := by
  rw [State.openRecord_opened hb (.inr hst) hc hn, hst]
  rfl

theorem State.takeMatching_none {u : Setup} {v : LatchView} {s : State} {cyl : Nat} {notify : Bool} (hc : v.cut = none) :
    s.takeMatching u v 1 cyl notify = s.takeReady u v cyl notify := by
  unfold State.takeMatching
  rw [if_neg (by decide), hc]

/-- Bytes of good words are good. -/
theorem byteBad_of_words {m : Memory} {o n c : Nat} (h : ∀ j, j < n → m.wordBad (o + 2 * j) = false) (hc : o ≤ c)
    (hc' : c < o + 2 * n) : m.byteBad c = false := by
  have hword := h ((c - o) / 2) (by omega)
  rw [Memory.wordBad, Bool.or_eq_false_iff] at hword
  rcases Nat.mod_two_eq_zero_or_one (c - o) with hmod | hmod
  · rw [show c = o + 2 * ((c - o) / 2) by omega]
    exact hword.1
  · rw [show c = o + 2 * ((c - o) / 2) + 1 by omega]
    exact hword.2

theorem place_self (u : Setup) (k : CylId) (tag : Byte) : place u k k tag tag = .matching := by
  simp [place]

section
variable {s : State} {v : LatchView} {cyl : Nat} {notify : Bool} {plan : List PulseEntry}

/-- The pair finds READY (R37 step 2). -/
theorem State.pairServed_ready (hb : s.mem.wordBad (0x1000 + 128 * s.latch.takePos) = false)
    (h : s.mem.readByte (0x1000 + 128 * s.latch.takePos) = 1) : s.pairServed v cyl notify plan =
      ((s.setMem (s.mem.putPart (0x1000 + 128 * s.latch.takePos) (bytePair 2 cyl))).advanceTake,
        .taken (v.event .plan (some s.latch.takePos) notify plan)) := by
  unfold State.pairServed recordOffset
  dsimp only
  rw [if_neg (by simp [hb]), loByte_readWord, h, if_pos (by decide)]
  rfl

/-- The pair finds ABORT_REQ (R37 step 2). -/
theorem State.pairServed_abort (hb : s.mem.wordBad (0x1000 + 128 * s.latch.takePos) = false)
    (h : s.mem.readByte (0x1000 + 128 * s.latch.takePos) = 4) : s.pairServed v cyl notify plan =
      (s.finaliseRecord s.latch.takePos cyl .aborted v.seq, .closed .aborted notify) := by
  unfold State.pairServed recordOffset
  dsimp only
  rw [if_neg (by simp [hb]), loByte_readWord, h, if_neg (by decide), if_pos (by decide)]

/-- The pair finds another value (R37 step 2). -/
theorem State.pairServed_other (hb : s.mem.wordBad (0x1000 + 128 * s.latch.takePos) = false)
    (h1 : s.mem.readByte (0x1000 + 128 * s.latch.takePos) ≠ 1) (h4 : s.mem.readByte (0x1000 + 128 * s.latch.takePos) ≠ 4) :
    s.pairServed v cyl notify plan = (s, .fallback) := by
  unfold State.pairServed recordOffset
  dsimp only
  have hready : (s.mem.readByte (0x1000 + 128 * s.latch.takePos)).toNat ≠ stateReady := fun h => h1 (BitVec.eq_of_toNat_eq h)
  have habort : (s.mem.readByte (0x1000 + 128 * s.latch.takePos)).toNat ≠ stateAbortReq := fun h => h4 (BitVec.eq_of_toNat_eq h)
  rw [if_neg (by simp [hb]), loByte_readWord, if_neg hready, if_neg habort]

end

/-- TAKEN written with the fields of step 1 before it (R37), in a memory that stands still. -/
theorem State.takePair_taken {s : State} {v : LatchView} {cyl : Nat} {notify : Bool} {plan : List PulseEntry} (hm : s.mem.calm)
    (hb : s.mem.wordBad (0x1000 + 128 * s.latch.takePos) = false)
    (h1 : s.mem.readByte (0x1000 + 128 * s.latch.takePos) = 1) :
    (s.writeTakeFields s.latch.takePos v.seq).takePair v cyl notify plan =
      ({ s with
        latch := { s.latch with takePos := (s.latch.takePos + 1) % s.ringLen }
        mem := s.mem.putAll (s.takeWords (0x1000 + 128 * s.latch.takePos) v.seq
          ++ [(0x1000 + 128 * s.latch.takePos, bytePair 2 cyl)]) },
        .taken (v.event .plan (some s.latch.takePos) notify plan)) := by
  obtain ⟨hcalm, hsame⟩ := s.mem.putAll_sameOutside (s.takeWords (0x1000 + 128 * s.latch.takePos) v.seq) hm
  have hlow := hsame (0x1000 + 128 * s.latch.takePos) (by simp [State.takeWords]; omega)
  have hhigh := hsame (0x1000 + 128 * s.latch.takePos + 1) (by simp [State.takeWords])
  have hput : ∀ w, (s.mem.putAll (s.takeWords (0x1000 + 128 * s.latch.takePos) v.seq)).putAll [(0x1000 + 128 * s.latch.takePos, w)] =
      (s.mem.putAll (s.takeWords (0x1000 + 128 * s.latch.takePos) v.seq)).putPart (0x1000 + 128 * s.latch.takePos) w := fun w => by
    show ((s.mem.putAll _).turn.putPart _ w) = _
    rw [Memory.turn_calm hcalm]
  rw [State.writeTakeFields_putAll, State.takePair_calm (by exact hcalm), Memory.putAll_append, hput]
  refine State.pairServed_ready ?_ (hlow.1.trans h1)
  show Memory.wordBad (s.mem.putAll _) _ = false
  exact (congrArg₂ _ hlow.2 hhigh.2).trans hb

/-- The words of a record taken (R37). -/
theorem State.takenWords_stored (s : State) {i : Nat} (hi : i < 64) (seq w : Word) (m : Memory) :
    m.Stored (s.takeWords (0x1000 + 128 * i) seq ++ [(0x1000 + 128 * i, w)])
      (m.putAll (s.takeWords (0x1000 + 128 * i) seq ++ [(0x1000 + 128 * i, w)])) := by
  refine Memory.putAll_stored_at [0x24, 0x28, 0x2A, 0x2C, 0] rfl (by decide) (fun d hd => ?_) m
  have hin : ∀ d ∈ [0x24, 0x28, 0x2A, 0x2C, 0], d ≤ 44 := by decide
  have := hin d hd
  simp only [memBytes]
  omega

/-- A valid plan goes on to the pair (R37). -/
theorem State.takeEntries_valid {u : Setup} {v : LatchView} {s : State} {cyl : Nat} {notify : Bool} {l : List Word}
    (h : planValid u.profiles.length (rawEntries l) = true) : s.takeEntries u v cyl notify (some l) =
      (s.writeTakeFields s.latch.takePos v.seq).takePair v cyl notify ((rawEntries l).filterMap RawEntry.entry) :=
  if_pos h

/-! ## A host write that arrives in the course of the take -/

/-- The memory after `t` accesses of the part, with one host write of the STATE word at `o` to arrive after `j` of them: the
first 34 bytes of the record as they were, but for the STATE byte once the write has been served (R163). -/
structure Met (m0 : Memory) (o : Nat) (addr : BitVec 13) (w : Word) (j t : Nat) (m : Memory) : Prop where
  port : ∃ p, m.port = some p ∧ p.stopped = false ∧ p.even = false
    ∧ p.arrivals = if t ≤ j then [⟨j - t, .hostWrite addr w⟩] else []
  state : m.readByte o = if t ≤ j then m0.readByte o else w.extractLsb' 0 8
  rest : ∀ c, o + 1 ≤ c → c < o + 34 → m.readByte c = m0.readByte c
  good : ∀ c, o ≤ c → c < o + 34 → m.byteBad c = false

section
variable {m0 m : Memory} {o j t : Nat} {addr : BitVec 13} {w : Word}

theorem Met.turn (h : Met m0 o addr w j t m) (ha : 2 * addr.toNat = o) (hin : o + 34 ≤ memBytes)
    (hw : w.extractLsb' 8 8 = m0.readByte (o + 1)) : Met m0 o addr w j (t + 1) m.turn := by
  obtain ⟨⟨p, hp, hs, he, hl⟩, hst, hr, hg⟩ := h
  have hoff : byteOffset addr = o := ha
  unfold Memory.turn
  rw [hp]
  dsimp only
  rw [hl]
  by_cases hlt : t < j
  · rw [if_pos (by omega)]
    have hserve : Memory.serve [⟨j - t, .hostWrite addr w⟩] p m =
        { m with port := some { p with arrivals := [⟨j - t - 1, .hostWrite addr w⟩] } } := if_neg (show j - t ≠ 0 by omega)
    rw [hserve]
    refine ⟨⟨_, rfl, hs, he, ?_⟩, ?_, hr, hg⟩
    · rw [if_pos (by omega), show j - (t + 1) = j - t - 1 by omega]
    · rw [if_pos (by omega)]
      rwa [if_pos (by omega)] at hst
  · by_cases heq : t = j
    · subst heq
      have hserve : Memory.serve [⟨t - t, .hostWrite addr w⟩] p m =
          { m.writeWord o w false with port := some { p.readFirst m with arrivals := [] } } := by
        rw [Nat.sub_self, ← hoff, ← he]
        rfl
      rw [if_pos (Nat.le_refl t), hserve]
      refine ⟨⟨_, rfl, hs, he, (if_neg (by omega)).symm⟩, ?_, fun c h1 h2 => ?_, fun c h1 h2 => ?_⟩
      · rw [if_neg (by omega)]
        exact Memory.readByte_writeWord_low m w false (by omega)
      · show (m.writeWord o w false).readByte c = _
        by_cases hc : c = o + 1
        · rw [hc, Memory.readByte_writeWord_high m w false (by omega), hw]
        · rw [Memory.readByte_writeWord_ne m w false (by omega) hc]
          exact hr c h1 h2
      · show (m.writeWord o w false).byteBad c = false
        have hbad := Memory.wordBad_writeWord_same m w false (show o + 1 < memBytes by omega)
        by_cases hc : c = o ∨ c = o + 1
        · rw [Memory.wordBad, Bool.or_eq_false_iff] at hbad
          rcases hc with rfl | rfl
          · exact hbad.1
          · exact hbad.2
        · rw [Memory.byteBad_writeWord_ne m w false (by omega) (by omega)]
          exact hg c h1 h2
    · rw [if_neg (by omega)]
      refine ⟨⟨_, rfl, hs, he, (if_neg (by omega)).symm⟩, ?_, hr, hg⟩
      rw [if_neg (by omega)]
      rwa [if_neg (by omega)] at hst

/-- A word of the part beyond the entries. -/
theorem Met.putPart (h : Met m0 o addr w j t m) {off : Nat} (ho : o + 34 ≤ off) (x : Word) :
    Met m0 o addr w j t (m.putPart off x) := by
  obtain ⟨⟨p, hp, hs, he, hl⟩, hst, hr, hg⟩ := h
  have hput : m.putPart off x = m.writeWord off x false := if_neg (by simp [Memory.stopped, hp, hs])
  rw [hput]
  refine ⟨⟨p, by rw [Memory.writeWord_port, hp], hs, he, hl⟩, ?_, fun c h1 h2 => ?_, fun c h1 h2 => ?_⟩
  · rw [Memory.readByte_writeWord_ne m x false (by omega) (by omega), hst]
  · rw [Memory.readByte_writeWord_ne m x false (by omega) (by omega), hr c h1 h2]
  · rw [Memory.byteBad_writeWord_ne m x false (by omega) (by omega), hg c h1 h2]

/-- A word of the entries, read in the course of the take. -/
theorem Met.word (h : Met m0 o addr w j t m) {off : Nat} (h1 : o + 1 ≤ off) (h2 : off + 1 < o + 34) :
    m.readWord off = m0.readWord off ∧ m.wordBad off = false := by
  unfold Memory.readWord Memory.wordBad
  rw [h.rest off h1 (by omega), h.rest (off + 1) (by omega) h2, h.good off (by omega) (by omega), h.good (off + 1) (by omega) h2]
  exact ⟨rfl, rfl⟩

/-- The entries read one after another, each by an access of its own (R163). -/
theorem Met.fetchWords (ha : 2 * addr.toNat = o) (hin : o + 34 ≤ memBytes) (hw : w.extractLsb' 8 8 = m0.readByte (o + 1))
    (l : List Nat) (hl : ∀ off ∈ l, o + 1 ≤ off ∧ off + 1 < o + 34) : ∀ {s : State} {t : Nat}, Met m0 o addr w j t s.mem →
    ∃ m, State.fetchWords l s = (some (l.map m0.readWord), s.setMem m) ∧ Met m0 o addr w j (t + l.length) m := by
  induction l with
  | nil => exact fun h => ⟨_, rfl, h⟩
  | cons off rest ih =>
    intro s t h
    have hturn := h.turn ha hin hw
    obtain ⟨hword, hgood⟩ := hturn.word (hl off (.head _)).1 (hl off (.head _)).2
    obtain ⟨m, hfetch, hm⟩ := ih (fun x hx => hl x (.tail _ hx)) (s := s.turn) hturn
    refine ⟨m, ?_, by rw [List.length_cons, show t + (rest.length + 1) = t + 1 + rest.length by omega]; exact hm⟩
    unfold State.fetchWords
    rw [if_neg (by rw [State.turn_mem, hgood]; decide), hfetch, State.turn_mem, hword]
    rfl

/-- EVENT_SEQ, TAKE_TIME and TAKE_ANGLE, each by an access of its own. -/
theorem Met.takeFields {s : State} (h : Met m0 o addr w j t s.mem) (ha : 2 * addr.toNat = o) (hin : o + 34 ≤ memBytes)
    (hw : w.extractLsb' 8 8 = m0.readByte (o + 1)) (seq : Word) : Met m0 o addr w j (t + 4) (s.mem.putAll (s.takeWords o seq)) := by
  have hone : ∀ {t m} (d : Nat) (x : Word), 34 ≤ d → Met m0 o addr w j t m → Met m0 o addr w j (t + 1) (m.turn.putPart (o + d) x) :=
    fun d x hd h => (h.turn ha hin hw).putPart (by omega) x
  exact hone 0x2C _ (by decide) (hone 0x2A _ (by decide) (hone 0x28 _ (by decide) (hone 0x24 _ (by decide) h)))

end

/-! ## The take -/

/-- The pair after the write has been served, or before it (R163). -/
theorem Met.pair {m0 : Memory} {j : Nat} {addr : BitVec 13} {w : Word} {s : State} {v : LatchView} {cyl : Nat} {notify : Bool}
    {plan : List PulseEntry} {x : State × TakeResult} (h : Met m0 (0x1000 + 128 * s.latch.takePos) addr w j 22 s.mem)
    (h1 : m0.readByte (0x1000 + 128 * s.latch.takePos) = 1) (hx : x = s.pairServed v cyl notify plan) :
    (j < 22 → w.extractLsb' 0 8 = 4 → x.2 = .closed .aborted notify)
      ∧ (j < 22 → w.extractLsb' 0 8 ≠ 4 → w.extractLsb' 0 8 ≠ 1 → x.2 = .fallback ∧ x.1.latch = s.latch)
      ∧ (22 ≤ j → ∃ e, x.2 = .taken e) := by
  have hgood : s.mem.wordBad (0x1000 + 128 * s.latch.takePos) = false := by
    rw [Memory.wordBad, h.good _ (Nat.le_refl _) (by omega), h.good _ (Nat.le_add_right _ 1) (by omega)]
    rfl
  subst hx
  refine ⟨fun hj h4 => ?_, fun hj h4 h1' => ?_, fun hj => ?_⟩
  · rw [State.pairServed_abort hgood (by rw [h.state, if_neg (by omega), h4])]
  · have hst := h.state
    rw [if_neg (by omega)] at hst
    rw [State.pairServed_other hgood (hst ▸ h1') (hst ▸ h4)]
    exact ⟨rfl, rfl⟩
  · rw [State.pairServed_ready hgood (by rw [h.state, if_pos hj, h1])]
    exact ⟨_, rfl⟩

/-- A record's first two words, met in the course of its take, and what they decide (R30, R33). -/
theorem Met.opened {m0 : Memory} {j : Nat} {addr : BitVec 13} {w : Word} {u : Setup} {s : State} {v : LatchView} {t : Nat}
    (h : Met m0 (0x1000 + 128 * s.latch.takePos) addr w j t s.mem)
    (hcyl : (m0.readByte (0x1000 + 128 * s.latch.takePos + 1)).toNat = v.cyl.number) (hn : v.cyl.number ≤ u.cylCount)
    (htag : m0.readByte (0x1000 + 128 * s.latch.takePos + 2) = v.target.extractLsb' 0 8) :
    (s.mem.readByte (0x1000 + 128 * s.latch.takePos) = 1 → s.openRecord u = .opened 1 v.cyl.number v.cyl)
      ∧ (s.mem.readByte (0x1000 + 128 * s.latch.takePos) = 4 → s.openRecord u = .opened 4 v.cyl.number v.cyl)
      ∧ (s.mem.readByte (0x1000 + 128 * s.latch.takePos) ≠ 1 → s.mem.readByte (0x1000 + 128 * s.latch.takePos) ≠ 4 →
        s.openRecord u = .notReady)
      ∧ s.placeRecord u v v.cyl = .placed .matching
        ((m0.readByte (0x1000 + 128 * s.latch.takePos + 3)).toNat % 2 == 1) := by
  have hgood : s.mem.wordBad (0x1000 + 128 * s.latch.takePos) = false := by
    rw [Memory.wordBad, h.good _ (Nat.le_refl _) (by omega), h.good _ (Nat.le_add_right _ 1) (by omega)]
    rfl
  have hc : (s.mem.readByte (0x1000 + 128 * s.latch.takePos + 1)).toNat = v.cyl.number := by
    rw [h.rest _ (Nat.le_refl _) (by omega), hcyl]
  refine ⟨fun h1 => State.openRecord_ready hgood h1 hc hn, fun h4 => State.openRecord_abort hgood h4 hc hn,
    fun h1 h4 => State.openRecord_notReady hgood h1 h4, ?_⟩
  rw [State.placeRecord_placed v.cyl (h.word (by omega) (by omega)).2, h.rest _ (by omega) (by omega),
    h.rest (_ + 3) (by omega) (by omega), htag, place_self]

/-- The entries and the fields of a matching READY record, up to the pair (R30, R36, R37): its part of the take's accesses. -/
theorem Met.takeReady {m0 : Memory} {j : Nat} {addr : BitVec 13} {w : Word} {u : Setup} {s : State} {v : LatchView} {cyl : Nat}
    {notify : Bool} (h : Met m0 (0x1000 + 128 * s.latch.takePos) addr w j 2 s.mem)
    (ha : 2 * addr.toNat = 0x1000 + 128 * s.latch.takePos) (hi : s.latch.takePos < 64)
    (hw : w.extractLsb' 8 8 = m0.readByte (0x1000 + 128 * s.latch.takePos + 1))
    (hval : planValid u.profiles.length (rawEntries ((entryWords s.latch.takePos).map m0.readWord)) = true) :
    ∃ (z : State) (plan : List PulseEntry), z.latch = s.latch ∧ Met m0 (0x1000 + 128 * s.latch.takePos) addr w j 22 z.mem
      ∧ s.takeReady u v cyl notify = z.pairServed v cyl notify plan := by
  have hin : 0x1000 + 128 * s.latch.takePos + 34 ≤ memBytes := by
    unfold memBytes
    omega
  have hentries : ∀ off ∈ entryWords s.latch.takePos,
      0x1000 + 128 * s.latch.takePos + 1 ≤ off ∧ off + 1 < 0x1000 + 128 * s.latch.takePos + 34 := fun off hoff => by
    obtain ⟨i, hi, rfl⟩ := List.mem_map.1 hoff
    have := List.mem_range.1 hi
    unfold recordOffset
    omega
  obtain ⟨m, hfetch, hm⟩ := h.fetchWords ha hin hw (entryWords s.latch.takePos) hentries
  have hlen : (entryWords s.latch.takePos).length = 15 := by simp [entryWords]
  rw [hlen] at hm
  have hfields := (Met.takeFields (s := s.setMem m) hm ha hin hw v.seq).turn ha hin hw
  refine ⟨((s.setMem m).writeTakeFields s.latch.takePos v.seq).turn,
    (rawEntries ((entryWords s.latch.takePos).map m0.readWord)).filterMap RawEntry.entry, ?_, ?_, ?_⟩
  · rw [State.turn_latch, State.writeTakeFields_putAll, State.setMem_latch, State.setMem_latch]
  · rw [State.writeTakeFields_putAll]
    exact hfields
  · unfold State.takeReady
    rw [hfetch]
    exact State.takeEntries_valid hval

/-- Settles O29. -/
theorem takeRecord : Obligations.TakeRecord := by
  intro u s v n o raw hu hm hi ho hgood h1 hcyl hn htag hcut hraw hval
  subst ho
  have hgood0 : s.mem.wordBad (0x1000 + 128 * s.latch.takePos) = false := hgood 0 (by decide)
  have hgood2 : s.mem.wordBad (0x1000 + 128 * s.latch.takePos + 2) = false := hgood 1 (by decide)
  have hentries := rawEntries_eq (m := s.mem) rfl hraw
  have hvalid : planValid u.profiles.length (rawEntries ((entryWords s.latch.takePos).map s.mem.readWord)) = true := hentries ▸ hval
  have hring : s.ringLen = u.ringLen := by simp [State.ringLen, hu]
  constructor
  · have hany : ¬ (entryWords s.latch.takePos).any s.mem.wordBad = true := fun h => by
      obtain ⟨j, hj, hb⟩ := (entryWords_any _ _).1 h
      have := hgood (j + 2) (by omega)
      rw [show 0x1000 + 128 * s.latch.takePos + 2 * (j + 2) = 0x1000 + 128 * s.latch.takePos + 4 + 2 * j by omega, hb] at this
      cases this
    have hopen := State.openRecord_ready (u := u) hgood0 h1 hcyl hn
    have hplace := State.placeRecord_placed (u := u) (v := v) v.cyl hgood2
    rw [htag, place_self] at hplace
    refine ⟨_, s.mem.putAll (s.takeWords (0x1000 + 128 * s.latch.takePos) v.seq
      ++ [(0x1000 + 128 * s.latch.takePos, bytePair 2 v.cyl.number)]), ?_, rfl, ?_⟩
    · rw [State.take_matching hm hopen hplace, State.takeMatching_ready hm hcut, if_neg hany, State.takeEntries_valid hvalid,
        State.takePair_taken hm hgood0 h1, hentries, hring]
      rfl
    · have hlast : bytePair 2 v.cyl.number = BitVec.ofNat 16 (2 + 256 * v.cyl.number) := by cases v.cyl <;> rfl
      rw [← hlast]
      exact State.takenWords_stored s hi _ _ _
  · intro j addr w x haddr heven hw hx
    have hmet : Met s.mem (0x1000 + 128 * s.latch.takePos) addr w j 0 (s.openPort [⟨j, .hostWrite addr w⟩]).mem :=
      ⟨⟨_, rfl, rfl, heven, rfl⟩, rfl, fun _ _ _ => rfl, fun c hc hc' => byteBad_of_words hgood hc (by omega)⟩
    have hin : 0x1000 + 128 * s.latch.takePos + 34 ≤ memBytes := by
      unfold memBytes
      omega
    generalize hs' : s.openPort [⟨j, .hostWrite addr w⟩] = s' at hmet hx
    have hlatch : s'.latch = s.latch := by rw [← hs']; rfl
    rw [← hlatch] at hmet haddr hi hw hcyl htag h1 hvalid hin ⊢
    have hmet1 := hmet.turn haddr hin hw
    obtain ⟨hready, habort, hother, -⟩ := Met.opened (u := u) (v := v) (s := s'.turn) hmet1 hcyl hn htag
    obtain ⟨-, -, -, hplace⟩ := Met.opened (u := u) (v := v) (s := s'.turn.turn) (hmet1.turn haddr hin hw) hcyl hn htag
    have hstate := hmet1.state
    by_cases hj : j = 0
    · subst hj
      rw [if_neg (by decide)] at hstate
      refine ⟨fun _ h4 => ?_, fun _ h4 h1' => ?_, fun h => absurd h (by decide)⟩
      · rw [hx, State.take_opened (habort (hstate.trans h4)) hplace, State.takeMatching_aborted]
        rfl
      · have htake : State.take u v (n + 1) s' = (s'.turn, .fallback) := by
          unfold State.take
          rw [hother (hstate.trans_ne h1') (hstate.trans_ne h4)]
        rw [hx, htake]
        exact ⟨rfl, rfl⟩
    · rw [if_pos (by omega), h1] at hstate
      obtain ⟨z, plan, hz, hzmet, htake⟩ := Met.takeReady (u := u) (v := v) (s := s'.turn.turn) (cyl := v.cyl.number)
        (notify := (s.mem.readByte (0x1000 + 128 * s'.latch.takePos + 3)).toNat % 2 == 1) (hmet1.turn haddr hin hw) haddr hi hw hvalid
      have hz' : z.latch = s'.latch := hz
      rw [State.take_opened (hready hstate) hplace, State.takeMatching_none hcut] at hx
      replace hx := hx.trans htake
      rw [← hz] at hzmet
      rw [← hz'] at h1 hx ⊢
      exact Met.pair hzmet h1 hx

end Sys2Proof.Machine

/-! # Events that enter the table: fallbacks and taken records -/

namespace Sys2Proof.Machine

/-! ## The steps of a fallback and of a taken record -/

theorem State.countMiss_eq (k : CylId) (s : State) : s.countMiss k =
    { s with
      cyls := s.cyls.set k { s.cyl k with misses := satCount (s.cyl k).misses }
      ev := { s.ev with sticky := s.ev.sticky ||| 0x0004 }
      mem := s.mem.mirror s.sb.live [(0x1C0 + 16 * (k.number - 1) + 12, satCount (s.cyl k).misses)] } := by
  unfold State.countMiss
  simp only [State.statusAll_eq]
  rfl

theorem State.setHold_eq (k : CylId) (n : Nat) (s : State) : s.setHold k n =
    { s with
      cyls := s.cyls.set k { s.cyl k with holdCount := n }
      mem := s.mem.mirror s.sb.live [(0x1C0 + 16 * (k.number - 1) + 6, lowByte n)] } := by
  unfold State.setHold
  simp only [State.statusAll_eq]
  rfl

/-- The HOLD_COUNT word is written where the count changes (R51). -/
theorem State.holdTo_eq (k : CylId) (n : Nat) (s : State) : s.holdTo k n =
    { s with
      cyls := s.cyls.set k { s.cyl k with holdCount := n }
      mem := s.mem.mirror s.sb.live
        (if (s.cyl k).holdCount = n then [] else [(0x1C0 + 16 * (k.number - 1) + 6, lowByte n)]) } := by
  unfold State.holdTo
  split
  · rename_i h
    have hsame : s.cyls.set k { s.cyl k with holdCount := n } = s.cyls := by
      rw [← h]
      exact Eight.set_get _ _
    rw [hsame, Memory.mirror_nil]
  · exact State.setHold_eq k n s

/-- A fall from PLAN or HELD to the limp plan or to no fuel raises LIMP (R57). -/
theorem State.enterFuel_eq (k : CylId) (src : Source) (s : State) : s.enterFuel k src =
    { s with
      cyls := s.cyls.set k { s.cyl k with fuel := src }
      ev := { s.ev with sticky := if fallsToLimp (s.cyl k).fuel src then s.ev.sticky ||| 0x0008 else s.ev.sticky } } := by
  unfold State.enterFuel
  split <;> rfl

/-! ## The pulses of a new event placed -/

/-- A pulse that lies behind the edge at its latch (R65). -/
def Pulse.missed (p : Pulse) : Pulse := { p with cond := .resolved, outcome := some .missedAngle }

theorem foldl_missed (l : List PulseEntry) : ∀ ps : List Pulse, l.foldl (fun ps p => modPulses p.index Pulse.missed ps) ps =
    ps.map fun q => if q.plan.index ∈ l.map PulseEntry.index then q.missed else q := by
  induction l with
  | nil => exact fun ps => by simp
  | cons p rest ih =>
    intro ps
    rw [List.foldl_cons, ih, modPulses, List.map_map]
    refine List.map_congr_left fun q _ => ?_
    have htwice : q.missed.missed = q.missed := rfl
    have hplan : q.missed.plan = q.plan := rfl
    by_cases hp : q.plan.index = p.index
    · simp [hp, hplan, htwice]
    · simp [hp]

/-- Every pulse of a new event is missed where all its entries are. -/
theorem foldl_missed_all (plan : List PulseEntry) :
    plan.foldl (fun ps p => modPulses p.index Pulse.missed ps) (plan.map PulseEntry.pulse) =
      plan.map fun p => p.pulse.missed := by
  rw [foldl_missed, List.map_map]
  refine List.map_congr_left fun p hp => if_pos ?_
  exact List.mem_map_of_mem hp

/-- An event none of whose pulses was placed gives no fuel (R45). -/
theorem eventOutcome_missed {plan : List PulseEntry} (hne : plan ≠ []) :
    eventOutcome (plan.map fun p : PulseEntry => p.pulse.missed) = .noneFired := by
  have hfired : ¬ ∀ q ∈ plan.map (fun p : PulseEntry => p.pulse.missed), q.outcome = some .fired := by
    obtain ⟨p, hp⟩ := List.exists_mem_of_ne_nil plan hne
    exact fun h => by cases h _ (List.mem_map_of_mem hp)
  rw [eventOutcome_any, if_neg (by simpa using hfired), if_neg]
  simp [Pulse.missed, PulseOutcome.delivered]

/-- The signed distance of a pulse of an event from an edge (R63, R64). -/
def EdgeView.distance (x : EdgeView) (u : Setup) (k : CylId) (e : Event) (p : PulseEntry) : Int :=
  signedDistance (armEntryOf u k e p).target (armEntryOf u k e p).offset x.cycle x.angle

section
variable {u : Setup} {x : EdgeView} {k : CylId} {e : Event}

/-- Pulses that all lie behind the edge (R65). -/
theorem State.placeFold_behind (l : List PulseEntry) (hl : ∀ p ∈ l, x.distance u k e p < 0) :
    ∀ {s : State} {d : Event}, (s.cyl k).event = some d → d.seq = e.seq → l.foldl (State.placePulse u x k e) s =
      s.setCyl k { s.cyl k with
        event := some { d with pulses := l.foldl (fun ps p => modPulses p.index Pulse.missed ps) d.pulses } } := by
  induction l with
  | nil =>
    intro s d hd _
    have hself : { s.cyl k with event := some d } = s.cyl k := by rw [← hd]
    have hcyls : s.cyls.set k (s.cyl k) = s.cyls := Eight.set_get _ _
    exact ((congrArg (s.setCyl k) hself).trans (congrArg s.setCyls hcyls)).symm
  | cons p rest ih =>
    intro s d hd hq
    have hplace : s.placePulse u x k e p = s.setCyl k { s.cyl k with
        event := some { d with pulses := modPulses p.index Pulse.missed d.pulses } } :=
      (if_pos (hl p (.head _))).trans (State.modPulse_of hd hq _ _)
    rw [List.foldl_cons, hplace,
      ih (fun q hq => hl q (.tail _ hq)) (d := { d with pulses := modPulses p.index Pulse.missed d.pulses })
        (by rw [State.cyl_setCyl]) hq]
    simp [State.setCyl, State.setCyls, State.cyl]

/-- The pending list with the pulses of an event (R62). -/
def pendingWith (u : Setup) (k : CylId) (e : Event) (l : List PulseEntry) (pending : List ArmEntry) : List ArmEntry :=
  l.foldl (fun a p => insertBy ArmEntry.before (armEntryOf u k e p) a) pending

theorem mem_pendingWith (l : List PulseEntry) : ∀ {pending : List ArmEntry} {q : ArmEntry},
    q ∈ pendingWith u k e l pending ↔ q ∈ pending ∨ ∃ p ∈ l, q = armEntryOf u k e p := by
  induction l with
  | nil => exact fun {_ _} => by simp [pendingWith]
  | cons p rest ih =>
    intro pending q
    have hcons : pendingWith u k e (p :: rest) pending =
        pendingWith u k e rest (insertBy ArmEntry.before (armEntryOf u k e p) pending) := rfl
    rw [hcons, ih, mem_insertBy, List.exists_mem_cons_iff]
    tauto

/-- Pulses that all lie at the edge or ahead of it (R65). -/
theorem State.placeFold_ahead (l : List PulseEntry) (hl : ∀ p ∈ l, 0 ≤ x.distance u k e p) : ∀ s : State,
    l.foldl (State.placePulse u x k e) s =
      s.setArm { s.arm with pendingList := pendingWith u k e l s.arm.pendingList } := by
  induction l with
  | nil => exact fun _ => rfl
  | cons p rest ih =>
    intro s
    have hplace : s.placePulse u x k e p = s.setArm { s.arm with
        pendingList := insertBy ArmEntry.before (armEntryOf u k e p) s.arm.pendingList } :=
      if_neg (Int.not_lt.2 (hl p (.head _)))
    rw [List.foldl_cons, hplace, ih fun q hq => hl q (.tail _ hq)]
    rfl

variable {s : State} {plan : List PulseEntry}

/-- An event without used pulses completes at once (R28 step 7). -/
theorem State.enterEvent_empty (he : e.pulses = []) : s.enterEvent u x k e = s.report k e := by
  unfold State.enterEvent
  rw [he]
  rfl

theorem pulses_plans (plan : List PulseEntry) : (plan.map PulseEntry.pulse).map Pulse.plan = plan := by
  rw [List.map_map]
  exact List.map_id _

/-- An event whose pulses all lie behind the edge completes at once (R45, R65). -/
theorem State.enterEvent_behind (he : e.pulses = plan.map PulseEntry.pulse) (hne : plan ≠ [])
    (hl : ∀ p ∈ plan, x.distance u k e p < 0) (hr : ¬ (s.ctl.run = .stopping ∧ s.ctl.stopMode.drains = true)) :
    s.enterEvent u x k e =
      { s with
        cyls := s.cyls.set k { s.cyl k with
          event := none, lastSource := e.source, lastOutcome := some .noneFired, lastSeq := e.seq }
        ev := { s.ev with sticky := if e.notify && e.source == .plan then s.ev.sticky ||| 1 else s.ev.sticky }
        mem := { e with pulses := plan.map fun p : PulseEntry => p.pulse.missed }.reportMem k s.sb.live s.mem } := by
  have hnonempty : e.pulses.isEmpty = false := by simpa [he] using hne
  have hout := eventOutcome_missed hne
  unfold State.enterEvent
  rw [if_neg (by simp [hnonempty])]
  dsimp only
  rw [he, pulses_plans, State.placeFold_behind plan hl (d := e) (by rw [State.cyl_setCyl]) rfl, he, foldl_missed_all,
    State.settle_resolved (e := { e with pulses := plan.map fun p : PulseEntry => p.pulse.missed }) (by rw [State.cyl_setCyl]) ?_ (by exact hr)]
  · simp only [State.cyl_setCyl, Cylinder.reported, hout]
    simp [State.setCyl, State.setCyls, State.cyl]
  · intro q hq
    obtain ⟨p, -, rfl⟩ := List.mem_map.1 hq
    rfl

/-- An event whose pulses all lie at the edge or ahead of it enters the table, its pulses pending (R28 step 7, R65). -/
theorem State.enterEvent_ahead (he : e.pulses = plan.map PulseEntry.pulse) (hne : plan ≠ [])
    (hl : ∀ p ∈ plan, 0 ≤ x.distance u k e p) : s.enterEvent u x k e =
      { s with
        cyls := s.cyls.set k { s.cyl k with event := some e }
        arm := { s.arm with pendingList := pendingWith u k e plan s.arm.pendingList } } := by
  have hnonempty : e.pulses.isEmpty = false := by simpa [he] using hne
  unfold State.enterEvent
  rw [if_neg (by simp [hnonempty])]
  dsimp only
  rw [he, pulses_plans, State.placeFold_ahead plan hl, State.settle_unresolved (e := e) (by simp [State.cyl, State.setCyl, State.setCyls, State.setArm])]
  · rfl
  · obtain ⟨p, hp⟩ := List.exists_mem_of_ne_nil plan hne
    exact ⟨p.pulse, he ▸ List.mem_map_of_mem hp, by simp [PulseEntry.pulse]⟩

end

theorem LatchView.distance_eq (u : Setup) (x : EdgeView) (v : LatchView) (src : Source) (i : Option Nat) (n : Bool)
    (plan : List PulseEntry) (p : PulseEntry) : x.distance u v.cyl (v.event src i n plan) p =
      (v.target - x.cycle).toInt * 23040 + (u.cyls.get v.cyl).tdc + p.relAngle - x.angle := by
  show (v.target - x.cycle).toInt * 23040 + ((u.cyls.get v.cyl).tdc + p.relAngle) - x.angle = _
  omega

/-- Latches are made in RUNNING and under mode CYCLE, where no stop waits for the table to empty (R25, R135). -/
theorem Control.notDrains {c : Control} (h : c.run = .running ∨ (c.run = .stopping ∧ c.stopMode = .cycle)) :
    ¬ (c.run = .stopping ∧ c.stopMode.drains = true) := by
  rintro ⟨hr, hd⟩
  rcases h with h | ⟨-, h⟩
  · rw [hr] at h
    cases h
  · rw [h] at hd
    cases hd

/-! ## Fallbacks -/

/-- The source of a fallback, and its plan (R53): the held plan while it is usable, else the limp plan. -/
theorem State.fallbackPlan_eq {u : Setup} {k : CylId} {s : State} {plan : List PulseEntry} {src : Source}
    (h : ((s.cyl k).held = some plan ∧ (s.cyl k).holdCount < s.su.trim.holdLimit ∧ src = .held)
      ∨ (((s.cyl k).held = none ∨ s.su.trim.holdLimit ≤ (s.cyl k).holdCount) ∧ u.limp = some plan ∧ src = .limp)) :
    s.fallbackPlan u k = (src, plan) := by
  unfold State.fallbackPlan
  rcases h with ⟨hh, hc, rfl⟩ | ⟨hh | hc, hl, rfl⟩
  · simp [hh, hc]
  · simp [hh, hl]
  · cases (s.cyl k).held with
    | none => simp [hl]
    | some p => simp [hl, Nat.not_lt.2 hc]

/-- A fallback up to its event: the miss, the hold count and the fuel level (R52, R54, R57). -/
structure FellBack (k : CylId) (src : Source) (s t : State) : Prop where
  cyls : t.cyls = s.cyls.set k { s.cyl k with
    misses := satCount (s.cyl k).misses, fuel := src
    holdCount := if src = .held then (s.cyl k).holdCount + 1 else (s.cyl k).holdCount }
  sticky : t.ev.sticky = s.ev.sticky ||| 0x0004
    ||| (if src = .limp ∧ ((s.cyl k).fuel = .plan ∨ (s.cyl k).fuel = .held) then 0x0008 else 0)
  arm : t.arm = s.arm
  ctl : t.ctl = s.ctl
  latch : t.latch = s.latch

theorem fallsToLimp_held (fuel : Source) : fallsToLimp fuel .held = false := by cases fuel <;> rfl

theorem fallsToLimp_limp (fuel : Source) : fallsToLimp fuel .limp = true ↔ fuel = .plan ∨ fuel = .held := by
  cases fuel <;> simp [fallsToLimp]

theorem State.fallBack_start (k : CylId) {src : Source} (hs : src = .held ∨ src = .limp) (s : State) :
    FellBack k src s (((s.countMiss k).useHeld k src).enterFuel k src) := by
  have hzero : ∀ w : Word, w ||| 0 = w := fun w => BitVec.or_zero
  rcases hs with rfl | rfl
  · rw [State.useHeld, if_pos rfl, State.enterFuel_eq, State.setHold_eq, State.countMiss_eq]
    constructor
    · simp only [State.cyl, Eight.get_set_same, Eight.set_set]
      rfl
    · simp [fallsToLimp_held]
    · rfl
    · rfl
    · rfl
  · rw [State.useHeld, if_neg (by decide), State.enterFuel_eq, State.countMiss_eq]
    constructor
    · simp only [State.cyl, Eight.get_set_same, Eight.set_set]
      rfl
    · simp only [State.cyl, Eight.get_set_same, fallsToLimp_limp]
      by_cases hf : (s.cyls.get k).fuel = .plan ∨ (s.cyls.get k).fuel = .held
      · rw [if_pos hf, if_pos ⟨trivial, hf⟩]
      · rw [if_neg hf, if_neg fun h => hf h.2, hzero]
    · rfl
    · rfl
    · rfl

/-- Placing pulses changes the pulses of the event that holds them, and the pending list (R65). -/
theorem State.placeFold_eq {u : Setup} {x : EdgeView} {k : CylId} {e : Event} (l : List PulseEntry) : ∀ {s : State} {d : Event},
    (s.cyl k).event = some d → ∃ ps a, l.foldl (State.placePulse u x k e) s =
      { s with cyls := s.cyls.set k { s.cyl k with event := some { d with pulses := ps } }, arm := a } := by
  induction l with
  | nil =>
    intro s d hd
    have hself : { s.cyl k with event := some { d with pulses := d.pulses } } = s.cyl k := by rw [← hd]
    have hcyls : s.cyls.set k (s.cyl k) = s.cyls := Eight.set_get _ _
    exact ⟨d.pulses, s.arm, by rw [hself, hcyls]; rfl⟩
  | cons p rest ih =>
    intro s d hd
    have hone : ∃ ps a, s.placePulse u x k e p =
        { s with cyls := s.cyls.set k { s.cyl k with event := some { d with pulses := ps } }, arm := a } := by
      have hself : { s.cyl k with event := some { d with pulses := d.pulses } } = s.cyl k := by rw [← hd]
      have hcyls : s.cyls.set k (s.cyl k) = s.cyls := Eight.set_get _ _
      unfold State.placePulse State.resolveHeld State.modPulse State.modEvent
      dsimp only
      rw [hd]
      split
      · dsimp only
        split
        · exact ⟨_, _, rfl⟩
        · exact ⟨d.pulses, s.arm, by rw [hself, hcyls]⟩
      · exact ⟨d.pulses, _, by rw [hself, hcyls]; rfl⟩
    obtain ⟨ps, a, hplace⟩ := hone
    obtain ⟨ps', a', hrest⟩ := ih (s := s.placePulse u x k e p) (d := { d with pulses := ps })
      (by rw [hplace]; exact congrArg Cylinder.event (Eight.get_set_same _ _ _))
    refine ⟨ps', a', ?_⟩
    rw [List.foldl_cons, hrest, hplace]
    simp [State.cyl]

/-- What an event that enters the table leaves: flags as they were where it has no NOTIFY; and an event in the table is the one
that stood there before, or this one (R28 step 7). -/
theorem State.enterEvent_made {u : Setup} {x : EdgeView} {k : CylId} {e : Event} {s : State} :
    (s.enterEvent u x k e).latch = s.latch
      ∧ (e.notify = false → ¬ (s.ctl.run = .stopping ∧ s.ctl.stopMode.drains = true) → (s.enterEvent u x k e).ev = s.ev)
      ∧ ∀ d, ((s.enterEvent u x k e).cyl k).event = some d → (s.cyl k).event = some d ∨ ∃ ps, d = { e with pulses := ps } := by
  unfold State.enterEvent
  split
  · rw [State.report_full]
    refine ⟨rfl, fun hn _ => by rw [hn]; rfl, fun d hd => .inl ?_⟩
    simpa [State.cyl, Cylinder.reported] using hd
  · dsimp only
    obtain ⟨ps, a, hfold⟩ := State.placeFold_eq (u := u) (x := x) (e := e) (e.pulses.map Pulse.plan)
      (s := s.setCyl k { s.cyl k with event := some e }) (d := e) (by rw [State.cyl_setCyl])
    rw [hfold]
    generalize hw : { s.setCyl k { s.cyl k with event := some e } with
      cyls := (s.setCyl k { s.cyl k with event := some e }).cyls.set k
        { (s.setCyl k { s.cyl k with event := some e }).cyl k with event := some { e with pulses := ps } }, arm := a } = w
    have hev : (w.cyl k).event = some { e with pulses := ps } := by simp [← hw, State.cyl]
    have hctl : w.ctl = s.ctl := by rw [← hw]; rfl
    have hflags : w.ev = s.ev := by rw [← hw]; rfl
    have hlatch : w.latch = s.latch := by rw [← hw]; rfl
    refine ⟨(Plays.settle (.refl w) k).latch.trans hlatch, fun hn hr => ?_, fun d hd => .inr ⟨ps, ?_⟩⟩
    · by_cases hdone : ∀ p ∈ ps, p.cond = .resolved
      · rw [State.settle_resolved hev hdone (hctl.symm ▸ hr), hn]
        exact hflags
      · rw [State.settle_unresolved hev (by simpa using hdone), hflags]
    · rw [State.cyl, State.settle_cyls, Eight.get_set_same, Cylinder.settled, hev] at hd
      dsimp only at hd
      split at hd
      · cases hd
      · rw [hev] at hd
        exact (Option.some.inj hd).symm

/-- Settles O31. -/
theorem fallbackPlans : Obligations.FallbackPlans := by
  constructor
  · intro u x v s y plan src c dist hrun hdist hsrc hy hc
    have hsrc' : src = .held ∨ src = .limp := hsrc.imp (fun h => h.2.2) fun h => h.2.2
    have hplan : (s.countMiss v.cyl).fallbackPlan u v.cyl = (src, plan) := by
      refine State.fallbackPlan_eq ?_
      rw [State.countMiss_eq]
      simpa [State.cyl] using hsrc
    obtain ⟨hcyls, hsticky, harm, hctl, -⟩ := State.fallBack_start v.cyl hsrc' s
    rw [← hc] at hcyls
    have hfall : y = (((s.countMiss v.cyl).useHeld v.cyl src).enterFuel v.cyl src).enterEvent u x v.cyl
        (v.event src none false plan) := by
      rw [hy, State.fallBack, State.fallBackNow, hplan]
      rfl
    generalize ((s.countMiss v.cyl).useHeld v.cyl src).enterFuel v.cyl src = t at hcyls hsticky harm hctl hfall
    have hcyl : t.cyl v.cyl = c := by rw [State.cyl, hcyls, Eight.get_set_same]
    have hd : ∀ p, x.distance u v.cyl (v.event src none false plan) p = dist p := fun p => by
      rw [LatchView.distance_eq, hdist]
    refine ⟨?_, fun hp => ?_, fun hp hl => ?_, fun hp hl => ?_⟩
    · rw [hfall, State.enterEvent_made.2.1 rfl (hctl ▸ Control.notDrains hrun), hsticky]
    · rw [hfall, State.enterEvent_empty (by simp [LatchView.event, hp]), State.report_full]
      refine ⟨harm, ?_⟩
      rw [hcyl, hcyls, Eight.set_set, hp]
      rfl
    · rw [hfall, State.enterEvent_behind rfl hp (fun p hpl => hd p ▸ hl p hpl) (hctl ▸ Control.notDrains hrun)]
      refine ⟨harm, ?_⟩
      rw [hcyl, hcyls, Eight.set_set]
      rfl
    · rw [hfall, State.enterEvent_ahead rfl hp (fun p hpl => hd p ▸ hl p hpl)]
      refine ⟨_, rfl, ?_, by rw [← harm], fun q => ?_⟩
      · rw [hcyl, hcyls, Eight.set_set]
        rfl
      · rw [← harm]
        exact mem_pendingWith plan
  · intro v o s
    refine ⟨s.mem.mirror s.sb.live
      ((0x1C0 + 16 * (v.cyl.number - 1) + 12, satCount (s.cyl v.cyl).misses) :: lastWords v.cyl .noFuel o v.seq), ?_, ?_⟩
    · rw [State.fallBackCut, State.countMiss_eq, State.closeEntry_eq, Memory.mirror_mirror]
      simp only [State.cyl, Eight.get_set_same, Eight.set_set]
      rfl
    · refine Memory.mirror_shown _ _ ?_ ?_
      · simp [Apart]
      · have := CylId.number_pos v.cyl
        simp [memBytes]
        omega

/-! ## Taken records -/

/-- The HOLD_COUNT word of a count cleared, where it changes (R51; assumption 27). -/
def State.clearWords (s : State) (k : CylId) : List (Nat × Word) :=
  if (s.cyl k).holdCount = 0 then [] else [(0x1C0 + 16 * (k.number - 1) + 6, 0)]

theorem State.takeEvent_eq (u : Setup) (x : EdgeView) (k : CylId) {e : Event} {plan : List PulseEntry} (s : State)
    (he : e.pulses = plan.map PulseEntry.pulse) : s.takeEvent u x k e =
      State.enterEvent u x k e
        { s with
          cyls := s.cyls.set k { s.cyl k with held := some plan, fuel := .plan, holdCount := 0 }
          mem := s.mem.mirror s.sb.live (s.clearWords k) } := by
  unfold State.takeEvent State.holdPlan
  rw [he, pulses_plans, State.holdTo_eq, State.cyl_setCyl]
  simp only [State.setCyl, State.setCyls, Eight.set_set]
  rfl

/-- One word shown. -/
theorem Memory.mirror_one {m : Memory} (hm : m.calm) {off : Nat} (w : Word) (h : off + 1 < memBytes) :
    (m.mirror true [(off, w)]).Shows off w :=
  ((Memory.mirror_again true off [] w m h).shows hm rfl).2 (off, w) (List.mem_singleton_self _)

/-- The memory after a taken record whose event has completed at once: what its readers find (R46, R51). -/
theorem Event.reportMem_closed {s : State} {k : CylId} {e : Event} {i : Nat} (hm : s.mem.calm) (hr : e.record = some i)
    (hi : i < 64) (hsrc : e.source = .plan) (hdrive : e.drive = 0) {m : Memory}
    (hmem : m = e.reportMem k s.sb.live (s.mem.mirror s.sb.live (s.clearWords k))) :
    m.Shows (0x1000 + 128 * i) (BitVec.ofNat 16 (3 + 256 * k.number))
      ∧ m.Shows (0x1000 + 128 * i + 0x26) (BitVec.ofNat 16 ((eventOutcome e.pulses).code + 256 * e.dry.toNat))
      ∧ m.Shows (0x1000 + 128 * i + 0x2E) 0
      ∧ (s.sb.live = true → m.Shows (0x1C0 + 16 * (k.number - 1) + 2) 0
        ∧ m.Shows (0x1C0 + 16 * (k.number - 1) + 4) (BitVec.ofNat 16 (eventOutcome e.pulses).code)
        ∧ m.Shows (0x1C0 + 16 * (k.number - 1) + 10) e.seq
        ∧ ((s.cyl k).holdCount ≠ 0 → m.Shows (0x1C0 + 16 * (k.number - 1) + 6) 0)) := by
  have hq := CylId.number_pos k
  have hcalm : (s.mem.mirror s.sb.live (s.clearWords k)).calm := (Memory.mirror_sameOutside _ _ _ hm).1
  obtain ⟨hout, hback, hlast⟩ := Event.reportMem_stored (k := k) hr hi s.sb.live hcalm
  rw [← hmem] at hout hback hlast
  have hdone : bytePair 3 k.number = BitVec.ofNat 16 (3 + 256 * k.number) := by cases k <;> rfl
  have hcode : bytePair (eventOutcome e.pulses).code e.dry.toNat =
      BitVec.ofNat 16 ((eventOutcome e.pulses).code + 256 * e.dry.toNat) := by
    cases eventOutcome e.pulses <;> cases e.dry <;> rfl
  have hzero : sat16 e.drive = 0 := by rw [hdrive]; rfl
  have hback : ∀ p ∈ [(0x1000 + 128 * i + 0x2E, sat16 e.drive),
      (0x1000 + 128 * i + 0x26, bytePair (eventOutcome e.pulses).code e.dry.toNat), (0x1000 + 128 * i, bytePair 3 k.number)],
      m.Shows p.1 p.2 := fun p hp => hback p (List.mem_append_right _ hp)
  simp only [lastWords, hsrc, List.forall_mem_cons] at hlast
  simp only [List.forall_mem_cons, hdone, hcode, hzero] at hback
  obtain ⟨htotal, houtcome, hstate, -⟩ := hback
  refine ⟨hstate, houtcome, htotal, fun hlive => ?_⟩
  obtain ⟨hs, ho, hn, -⟩ := hlast hlive
  refine ⟨hs, ho, hn, fun hne => ?_⟩
  rw [hlive] at hout hcalm
  have hclear : (s.mem.mirror true (s.clearWords k)).Shows (0x1C0 + 16 * (k.number - 1) + 6) 0 := by
    have hinside : 0x1C0 + 16 * (k.number - 1) + 6 + 1 < memBytes := by
      unfold memBytes
      omega
    rw [State.clearWords, if_neg hne]
    exact Memory.mirror_one hm 0 hinside
  refine hout.shows hcalm (fun off hoff => ?_) hclear
  rcases List.mem_append.1 hoff with hoff | hoff
  · rw [Event.backWords_offsets] at hoff
    obtain ⟨d, -, rfl⟩ := List.mem_map.1 hoff
    omega
  · simp [lastWords] at hoff
    omega

/-- A matching record finalised at take, up to the status entry (R51, R57). -/
theorem State.closedEvent_eq (v : LatchView) (o : EventOutcome) (notify : Bool) (s : State) : s.closedEvent v o notify =
    { s with
      cyls := s.cyls.set v.cyl { s.cyl v.cyl with
        holdCount := if o = .aborted then 0 else (s.cyl v.cyl).holdCount
        fuel := if v.cut = none then .plan else (s.cyl v.cyl).fuel
        lastSource := .plan, lastOutcome := some o, lastSeq := v.seq }
      ev := { s.ev with sticky := if notify then s.ev.sticky ||| 1 else s.ev.sticky }
      mem := s.mem.mirror s.sb.live ((if o = .aborted then s.clearWords v.cyl else []) ++ lastWords v.cyl .plan o v.seq) } := by
  have hclear : s.clearHold v.cyl o =
      { s with
        cyls := s.cyls.set v.cyl { s.cyl v.cyl with holdCount := if o = .aborted then 0 else (s.cyl v.cyl).holdCount }
        mem := s.mem.mirror s.sb.live (if o = .aborted then s.clearWords v.cyl else []) } := by
    unfold State.clearHold
    split
    · exact State.holdTo_eq v.cyl 0 s
    · have hsame : s.cyls.set v.cyl (s.cyl v.cyl) = s.cyls := Eight.set_get _ _
      rw [Memory.mirror_nil]
      exact congrArg s.setCyls hsame.symm
  have hfuel : ∀ t : State, t.planFuel v =
      { t with cyls := t.cyls.set v.cyl { t.cyl v.cyl with fuel := if v.cut = none then .plan else (t.cyl v.cyl).fuel } } := fun t => by
    unfold State.planFuel
    cases v.cut with
    | none => rfl
    | some o => exact congrArg t.setCyls (Eight.set_get t.cyls v.cyl).symm
  unfold State.closedEvent
  rw [State.notifyDone_eq, State.closeEntry_eq, hfuel, hclear, ← Memory.mirror_mirror]
  simp only [State.cyl, Eight.get_set_same, Eight.set_set]

/-- Settles O32. -/
theorem takeServed : Obligations.TakeServed := by
  intro u x v s y c q notify dist hm hnone hq hdist
  refine ⟨fun e plan i o hi ho hrun he hc hy => ?_, fun o hy hc => ?_, fun hcut => ?_, fun o hcut => ?_⟩
  · have hpulses : e.pulses = plan.map PulseEntry.pulse := by rw [he]
    have hd : ∀ p, x.distance u v.cyl e p = dist p := fun p => by
      rw [he, hdist]
      exact LatchView.distance_eq u x v .plan (some i) notify plan p
    have hstart : y = State.enterEvent u x v.cyl e
        { s with cyls := s.cyls.set v.cyl c, mem := s.mem.mirror s.sb.live (s.clearWords v.cyl) } := by
      rw [hy, hc]
      exact State.takeEvent_eq u x v.cyl s hpulses
    have hcnone : c.event = none := by rw [hc]; exact hnone
    refine ⟨fun out code hcase => ?_, fun hp hl => ?_⟩
    · have hout : eventOutcome (plan.map fun p : PulseEntry => p.pulse.missed) = out ∧ out.code = code := by
        rcases hcase with ⟨rfl, rfl, rfl⟩ | ⟨hp, -, rfl, rfl⟩
        · exact ⟨rfl, rfl⟩
        · exact ⟨eventOutcome_missed hp, rfl⟩
      have hend : y = { s with
          cyls := s.cyls.set v.cyl { c with lastSource := .plan, lastOutcome := some out, lastSeq := v.seq }
          ev := { s.ev with sticky := if notify then s.ev.sticky ||| 1 else s.ev.sticky }
          mem := { e with pulses := plan.map fun p : PulseEntry => p.pulse.missed }.reportMem v.cyl s.sb.live
            (s.mem.mirror s.sb.live (s.clearWords v.cyl)) } := by
        have hnotify : (notify && Source.plan == .plan) = notify := Bool.and_true notify
        rcases hcase with ⟨hp, rfl, -⟩ | ⟨hp, hl, rfl, -⟩
        · have hempty : e.pulses = [] := by rw [hpulses, hp]; rfl
          rw [hstart, State.enterEvent_empty hempty, State.report_full]
          subst he hp
          simp only [State.cyl, Eight.get_set_same, Eight.set_set, Cylinder.reported, hnotify]
          rfl
        · rw [hstart, State.enterEvent_behind hpulses hp (fun p hpl => hd p ▸ hl p hpl) (by exact Control.notDrains hrun)]
          subst he
          simp only [State.cyl, Eight.get_set_same, Eight.set_set, hnotify, ← hcnone]
      obtain ⟨hdone, houtcome, htotal, hstatus⟩ := Event.reportMem_closed (s := s) (k := v.cyl)
        (e := { e with pulses := plan.map fun p : PulseEntry => p.pulse.missed }) hm (by rw [he]) hi (by rw [he]) (by rw [he])
        (m := y.mem) (by rw [hend])
      rw [hout.1, hout.2] at houtcome hstatus
      have hdry : e.dry = v.dry := by rw [he]
      have hseq : e.seq = v.seq := by rw [he]
      subst ho hq
      exact ⟨by rw [hend], hdone, hdry ▸ houtcome, htotal, hseq ▸ hstatus⟩
    · rw [State.enterEvent_ahead hpulses hp fun p hpl => hd p ▸ hl p hpl] at hstart
      have hmem : y.mem = s.mem.mirror s.sb.live (s.clearWords v.cyl) := by rw [hstart]
      refine ⟨?_, fun r => ?_, fun hz => ?_, fun hz => ?_⟩
      · rw [hstart]
        simp [State.cyl]
      · rw [hstart]
        exact mem_pendingWith plan
      · rw [hmem, State.clearWords, if_pos hz, Memory.mirror_nil]
      · have := CylId.number_pos v.cyl
        rw [hmem, State.clearWords, if_neg hz, hq]
        refine Memory.mirror_again s.sb.live _ [] 0 s.mem ?_
        unfold memBytes
        omega
  · have hy : y = s.closedEvent v o notify := hy
    rw [State.closedEvent_eq, ← hc] at hy
    have := CylId.number_pos v.cyl
    refine ⟨by rw [hy], ?_⟩
    have hwords : (if o = .aborted then s.clearWords v.cyl else []) ++ lastWords v.cyl .plan o v.seq =
        (if o = .aborted ∧ (s.cyl v.cyl).holdCount ≠ 0 then [(q + 6, 0)] else [])
          ++ [(q + 2, 0), (q + 4, BitVec.ofNat 16 (outcomeCode (some o))), (q + 10, v.seq)] := by
      rw [hq, State.clearWords]
      by_cases ho : o = .aborted <;> by_cases hz : (s.cyl v.cyl).holdCount = 0 <;> simp [ho, hz, lastWords, Source.code, outcomeCode]
    rw [hy, hwords]
    refine Memory.mirror_shown s.sb.live s.mem ?_ ?_
    · split <;> simp [Apart]
    · subst hq
      unfold memBytes
      split <;> simp <;> omega
  · simp [State.served, hcut]
  · simp [State.served, hcut]

end Sys2Proof.Machine

/-! # A latch of a cylinder with no event left in the table -/

namespace Sys2Proof.Machine

/-! ## What a take leaves -/

theorem State.finaliseRecord_nextSeq (i cyl : Nat) (o : EventOutcome) (seq : Word) (s : State) :
    (s.finaliseRecord i cyl o seq).latch.nextSeq = s.latch.nextSeq := by
  unfold State.finaliseRecord State.writeResults
  dsimp only
  rw [State.writeTakeFields_putAll, State.writeWords_putAll]
  rfl

theorem State.closeRecord_nextSeq (v : LatchView) (cyl : Nat) (o : EventOutcome) (notify : Bool) (s : State) :
    (s.closeRecord v cyl o notify).latch.nextSeq = s.latch.nextSeq := by
  unfold State.closeRecord
  rw [State.notifyDone_eq]
  show (s.finaliseRecord s.latch.takePos cyl o v.seq).latch.nextSeq = _
  rw [State.finaliseRecord_nextSeq]

/-- What a take with its result leaves: the sequence counter, and a taken event is the latch's own (R28, R37, R40). -/
structure TakeMade (v : LatchView) (s : State) (r : State × TakeResult) : Prop where
  nextSeq : r.1.latch.nextSeq = s.latch.nextSeq
  taken : ∀ e, r.2 = .taken e → ∃ i n plan, e = v.event .plan i n plan

section
variable {u : Setup} {v : LatchView} {s t : State} {cyl : Nat} {notify : Bool}

theorem TakeMade.closed (h : t.latch.nextSeq = s.latch.nextSeq) {r : TakeResult} (hr : ∀ e, r ≠ .taken e) : TakeMade v s (t, r) :=
  ⟨h, fun e he => absurd he (hr e)⟩

theorem TakeMade.closeRecord (h : t.latch.nextSeq = s.latch.nextSeq) (cyl : Nat) (o : EventOutcome) (notify : Bool) :
    TakeMade v s (t.closeRecord v cyl o notify, .fallback) :=
  .closed ((State.closeRecord_nextSeq _ _ _ _ _).trans h) nofun

theorem TakeMade.finaliseRecord (h : t.latch.nextSeq = s.latch.nextSeq) (i cyl : Nat) (o : EventOutcome) (n : Bool) :
    TakeMade v s (t.finaliseRecord i cyl o v.seq, .closed o n) :=
  .closed ((State.finaliseRecord_nextSeq _ _ _ _ _).trans h) nofun

theorem TakeMade.pairServed (h : t.latch.nextSeq = s.latch.nextSeq) (cyl : Nat) (notify : Bool) (plan : List PulseEntry) :
    TakeMade v s (t.pairServed v cyl notify plan) := by
  unfold State.pairServed
  dsimp only
  split
  · exact .closeRecord h _ _ _
  · split
    · exact ⟨h, fun e he => ⟨_, _, _, (TakeResult.taken.inj he).symm⟩⟩
    · split
      · exact .finaliseRecord h _ _ _ _
      · exact .closed h nofun

theorem TakeMade.takeEntries (h : t.latch.nextSeq = s.latch.nextSeq) (words : Option (List Word)) :
    TakeMade v s (t.takeEntries u v cyl notify words) := by
  unfold State.takeEntries
  split
  · exact .closeRecord h _ _ _
  · split
    · unfold State.takePair
      rw [State.writeTakeFields_putAll]
      exact .pairServed (by exact h) _ _ _
    · exact .closeRecord h _ _ _

theorem State.fetchWords_latch (l : List Nat) : ∀ s : State, (State.fetchWords l s).2.latch = s.latch := by
  induction l with
  | nil => exact fun _ => rfl
  | cons off rest ih =>
    intro s
    unfold State.fetchWords
    split
    · rfl
    · exact ih s.turn

theorem TakeMade.takeMatching (h : t.latch.nextSeq = s.latch.nextSeq) (st : Nat) :
    TakeMade v s (t.takeMatching u v st cyl notify) := by
  unfold State.takeMatching
  split
  · exact .finaliseRecord h _ _ _ _
  · split
    · exact .finaliseRecord h _ _ _ _
    · exact .takeEntries ((congrArg Latch.nextSeq (State.fetchWords_latch _ _)).trans h) _

theorem TakeMade.take (n : Nat) : ∀ {t : State}, t.latch.nextSeq = s.latch.nextSeq → TakeMade v s (State.take u v n t) := by
  induction n with
  | zero => exact fun h => .closed h nofun
  | succ n ih =>
    intro t h
    have h1 : t.turn.latch.nextSeq = s.latch.nextSeq := h
    have h2 : t.turn.turn.latch.nextSeq = s.latch.nextSeq := h
    rw [State.take]
    split
    · exact .closeRecord h1 _ _ _
    · exact .closed h1 nofun
    · exact .closeRecord h1 _ _ _
    · split
      · exact .closeRecord h2 _ _ _
      · exact .closed h2 nofun
      · exact ih ((State.closeRecord_nextSeq _ _ _ _ _).trans h2)
      · exact .takeMatching h2 _

end

/-! ## What follows a take -/

/-- What a latch leaves of the event latch, and of its cylinder's place in the table (R28 steps 6 and 7). -/
structure ServeMade (v : LatchView) (s t : State) : Prop where
  latch : t.latch = s.latch
  event : ∀ d, (t.cyl v.cyl).event = some d → (s.cyl v.cyl).event = some d ∨ ∃ src i n plan ps, d = { v.event src i n plan with pulses := ps }

theorem ServeMade.enterEvent {v : LatchView} {s t : State} (hl : t.latch = s.latch)
    (he : (t.cyl v.cyl).event = (s.cyl v.cyl).event) (u : Setup) (x : EdgeView) (src : Source) (i : Option Nat) (n : Bool)
    (plan : List PulseEntry) : ServeMade v s (t.enterEvent u x v.cyl (v.event src i n plan)) := by
  obtain ⟨hlatch, -, hevent⟩ := State.enterEvent_made (u := u) (x := x) (k := v.cyl) (e := v.event src i n plan) (s := t)
  refine ⟨hlatch.trans hl, fun d hd => (hevent d hd).imp (fun h => he ▸ h) fun ⟨ps, hps⟩ => ⟨_, _, _, _, ps, hps⟩⟩

/-- A fallback from the held plan, the limp plan or no plan, up to its event. -/
theorem State.fallBack_latch (k : CylId) (src : Source) (s : State) :
    (((s.countMiss k).useHeld k src).enterFuel k src).latch = s.latch
      ∧ ((((s.countMiss k).useHeld k src).enterFuel k src).cyl k).event = (s.cyl k).event := by
  have hheld : ((s.countMiss k).useHeld k src).latch = s.latch
      ∧ (((s.countMiss k).useHeld k src).cyl k).event = (s.cyl k).event := by
    unfold State.useHeld
    split
    · rw [State.setHold_eq, State.countMiss_eq]
      simp [State.cyl]
    · rw [State.countMiss_eq]
      simp [State.cyl]
  rw [State.enterFuel_eq]
  refine ⟨hheld.1, ?_⟩
  rw [← hheld.2]
  simp [State.cyl]

theorem ServeMade.served {u : Setup} {x : EdgeView} {v : LatchView} {s : State} {out : TakeResult}
    (h : ∀ e, out = .taken e → ∃ i n plan, e = v.event .plan i n plan) : ServeMade v s (s.served u x v out) := by
  cases out with
  | taken e =>
    obtain ⟨i, n, plan, rfl⟩ := h e rfl
    rw [State.served, State.takeEvent_eq u x v.cyl s rfl]
    refine .enterEvent (by rfl) ?_ _ _ _ _ _ _
    simp [State.cyl]
  | closed o notify =>
    rw [State.served, State.closedEvent_eq]
    exact ⟨rfl, fun d hd => .inl (by simpa [State.cyl] using hd)⟩
  | fallback =>
    rw [State.served]
    cases v.cut with
    | some o =>
      dsimp only
      rw [State.fallBackCut, State.countMiss_eq, State.closeEntry_eq]
      exact ⟨rfl, fun d hd => .inl (by simpa [State.cyl] using hd)⟩
    | none =>
      obtain ⟨hl, he⟩ := State.fallBack_latch v.cyl ((s.countMiss v.cyl).fallbackPlan u v.cyl).1 s
      exact .enterEvent hl he u x _ _ _ _

/-! ## The latch -/

/-- What the part itself writes keeps a memory that stands still (R163). -/
theorem Downstream.calm {s t : State} (h : Downstream s t) (hm : s.mem.calm) : t.mem.calm := (h.toKeeps.hostBytes hm).1

/-- Steps 2 to 7 of R28 for a cylinder with no event in the table. -/
theorem State.serveNext_made (u : Setup) (x : EdgeView) (k : CylId) (target : Word) {s : State} (hnone : (s.cyl k).event = none) :
    (s.serveNext u x k target).latch.nextSeq = s.latch.nextSeq + 1
      ∧ ∀ e, ((s.serveNext u x k target).cyl k).event = some e →
        ∃ src i n plan ps, e = { (s.latchView k target).event src i n plan with pulses := ps } := by
  have htake := TakeMade.take (u := u) (v := s.latchView k target) u.cylCount
    (rfl : (s.modLatch fun l => { l with nextSeq := l.nextSeq + 1 }).latch.nextSeq = _)
  have hring := RingOnly.take u (s.latchView k target) u.cylCount (.refl (s.modLatch fun l => { l with nextSeq := l.nextSeq + 1 }))
  have hserve := ServeMade.served (u := u) (x := x) (s := (State.take u (s.latchView k target) u.cylCount
    (s.modLatch fun l => { l with nextSeq := l.nextSeq + 1 })).1) htake.taken
  refine ⟨(congrArg Latch.nextSeq hserve.latch).trans htake.nextSeq, fun e he => (hserve.event e he).resolve_left fun h => ?_⟩
  rw [hring] at h
  have h : (s.cyl k).event = some e := h
  rw [hnone] at h
  cases h

/-- The record of the look-ahead is READY with good parity, or PLAN_LOW is set (R48). -/
theorem State.judgeAhead_planLow {u : Setup} {s : State} (hu : s.su.setup = some u) : s.judgeAhead.latch.planLow = true ↔
    s.mem.wordBad (0x1000 + 128 * ((s.latch.takePos + s.su.trim.planLowAhead) % u.ringLen)) = true
      ∨ s.mem.readByte (0x1000 + 128 * ((s.latch.takePos + s.su.trim.planLowAhead) % u.ringLen)) ≠ 1 := by
  have hring : s.ringLen = u.ringLen := by simp [State.ringLen, hu]
  unfold State.judgeAhead recordOffset
  dsimp only
  rw [hring, loByte_readWord]
  simp only [State.setLatch_latch, Bool.or_eq_true, bne_iff_ne, ne_eq]
  exact or_congr_right (not_congr ⟨fun h => BitVec.eq_of_toNat_eq h, fun h => by rw [h]; rfl⟩)

/-- The end of a latch: TAKE_POSITION and EVENT_SEQ shown, and the entry on its next cycle (R26, R28 step 9). -/
theorem State.closeLatch_eq (k : CylId) (target : Word) (s : State) : s.closeLatch k target =
    { s with
      cyls := s.cyls.set k { s.cyl k with nextEvent := some (target + 1) }
      mem := s.mem.mirror s.sb.live [(0x180, BitVec.ofNat 16 s.latch.takePos), (0x182, s.latch.nextSeq)] } := by
  unfold State.closeLatch
  rw [State.statusAll_eq]
  rfl

/-- Settles O25. -/
theorem latchMade : Obligations.LatchMade := by
  intro u v s y k target o hu hm hnone hy ho
  have hover : s.overrun k = s := by
    unfold State.overrun
    rw [hnone]
  have hdown : Downstream s (s.serveNext u v k target) := (Downstream.refl s).serveNext u v k target
  obtain ⟨hseq, hevent⟩ := State.serveNext_made u v k target hnone
  generalize hz : s.serveNext u v k target = z at hdown hseq hevent
  have hcalm := hdown.calm hm
  have hlatch : y = z.judgeAhead.closeLatch k target := by
    rw [hy, State.latchCylinder, hover, hz, State.lookAhead_calm hcalm]
  rw [State.closeLatch_eq] at hlatch
  have hmem : y.mem = z.mem.mirror z.sb.live [(0x180, BitVec.ofNat 16 y.latch.takePos), (0x182, y.latch.nextSeq)] := by
    rw [hlatch]
    rfl
  have hshown : Memory.Shown z.sb.live [(0x180, BitVec.ofNat 16 y.latch.takePos), (0x182, y.latch.nextSeq)] z.mem y.mem := by
    rw [hmem]
    exact Memory.mirror_shown _ _ (by simp [Apart]) (by simp [memBytes])
  refine ⟨?_, ?_, fun e he => ?_, rfl, ?_, fun hlive => ?_⟩
  · rw [hlatch]
    exact hseq
  · rw [hlatch]
    exact congrArg Cylinder.nextEvent (Eight.get_set_same _ _ _)
  · rw [hlatch] at he
    have he : (z.cyl k).event = some e := by simpa [State.cyl, State.judgeAhead] using he
    obtain ⟨src, i, n, plan, ps, rfl⟩ := hevent e he
    exact ⟨rfl, rfl, rfl, rfl, rfl⟩
  · have hplan : y.latch.planLow = z.judgeAhead.latch.planLow := by rw [hlatch]
    have hpos : y.latch.takePos = z.latch.takePos := by rw [hlatch]; rfl
    obtain ⟨hword, hbad⟩ := hshown.word hcalm (c := o) (by simp; omega)
    have hbyte : y.mem.readByte o = z.mem.readByte o := by rw [← Memory.readWord_low, hword, Memory.readWord_low]
    rw [hplan, State.judgeAhead_planLow (hdown.setup.trans hu), hbad, hbyte, ho, hpos, hdown.su]
  · have hshows := (hshown.shows hcalm (hdown.live.trans hlive)).2
    exact ⟨hshows (0x180, _) (.head _), hshows (0x182, _) (List.mem_cons_of_mem _ (List.mem_singleton_self _))⟩

end Sys2Proof.Machine

/-! # The arming step, and the orders of the arming unit -/

namespace Sys2Proof.Machine

/-! ## The orders -/

theorem insertBy_split {α : Type} (before : α → α → Bool) (x : α) (l : List α) : ∃ front back, l = front ++ back
    ∧ insertBy before x l = front ++ x :: back ∧ (∀ y ∈ front, before x y = false) ∧ ∀ y, back.head? = some y → before x y = true := by
  induction l with
  | nil => exact ⟨[], [], rfl, rfl, nofun, nofun⟩
  | cons y rest ih =>
    unfold insertBy
    split
    · rename_i hb
      exact ⟨[], y :: rest, rfl, rfl, nofun, fun z hz => by cases hz; exact hb⟩
    · rename_i hb
      obtain ⟨front, back, hl, hins, hfront, hback⟩ := ih
      refine ⟨y :: front, back, by rw [hl]; rfl, by rw [hins]; rfl, fun z hz => ?_, hback⟩
      rcases List.mem_cons.1 hz with rfl | hz
      · simpa using hb
      · exact hfront z hz

theorem ArmEntry.before_iff (x y : ArmEntry) : ArmEntry.before x y = true ↔
    (x.target ≠ y.target ∧ (x.target - y.target).toInt < 0)
      ∨ (x.target = y.target ∧ (x.offset < y.offset ∨ (x.offset = y.offset
        ∧ ((x.seq ≠ y.seq ∧ (x.seq - y.seq).toInt < 0) ∨ (x.seq = y.seq ∧ x.index < y.index))))) := by
  unfold ArmEntry.before wordDiff
  by_cases ht : x.target = y.target
  · by_cases ho : x.offset = y.offset
    · by_cases hs : x.seq = y.seq <;> simp [ht, ho, hs]
    · simp [ht, ho]
  · simp [ht]

/-- The order of R73 and R87, field by field. -/
theorem ranksBefore_iff {k1 k2 : Kind} (t1 t2 : Time) (q1 q2 : Word) (i1 i2 : Nat) : ranksBefore k1 k2 t1 t2 q1 q2 i1 i2 = true ↔
    k1.rank < k2.rank ∨ (k1 = k2 ∧ ((t1 ≠ t2 ∧ 0 < (t2 - t1).toInt) ∨ (t1 = t2
      ∧ ((q1 ≠ q2 ∧ (q1 - q2).toInt < 0) ∨ (q1 = q2 ∧ i1 < i2))))) := by
  have hkind : k1.rank = k2.rank ↔ k1 = k2 := ⟨by cases k1 <;> cases k2 <;> decide, congrArg _⟩
  unfold ranksBefore wordDiff Time.later Time.diff
  by_cases hk : k1 = k2
  · subst hk
    by_cases ht : t1 = t2
    · by_cases hq : q1 = q2 <;> simp [ht, hq]
    · simp [ht]
  · have hr : k1.rank ≠ k2.rank := fun h => hk (hkind.1 h)
    simp [hk, hr]

theorem Kind.rank_eq {rank : Kind → Nat} (hm : rank .main = 0) (hp : rank .pilot = 1) (ho : rank .post = 2) : rank = Kind.rank := by
  funext k
  cases k with
  | pilot => exact hp
  | main => exact hm
  | post => exact ho

theorem ArmedEntry.before_iff (x y : ArmedEntry) : ArmedEntry.before x y = true ↔ (x.start ≠ y.start ∧ 0 < (y.start - x.start).toInt)
    ∨ (x.start = y.start ∧ ArmedEntry.presentBefore x y = true) := by
  unfold ArmedEntry.before Time.later Time.diff
  by_cases h : x.start = y.start <;> simp [h]

/-! ## The late requests of one edge -/

theorem toInt_sub_of_lt {n : Nat} {x y : BitVec (n + 1)} (hx : x.toNat < 2 ^ n) (hy : y.toNat < 2 ^ n) :
    (x - y).toInt = (x.toNat : Int) - y.toNat := by
  have hpow : 2 ^ (n + 1) = 2 * 2 ^ n := by rw [Nat.pow_succ, Nat.mul_comm]
  rw [BitVec.toInt_sub, BitVec.toInt_eq_toNat_of_lt (by omega), BitVec.toInt_eq_toNat_of_lt (by omega),
    Int.bmod_eq_of_le (by omega) (by omega)]

/-- The order of R73 where starts lie within half their range before an edge, and sequences within half theirs. -/
theorem presentBefore_iff {t : Time} {first : Word} {x y : ArmedEntry} (hx : (t - x.start).toNat < 2 ^ 31)
    (hy : (t - y.start).toNat < 2 ^ 31) (hx' : (x.entry.seq - first).toNat < 2 ^ 15) (hy' : (y.entry.seq - first).toNat < 2 ^ 15) :
    ArmedEntry.presentBefore x y = true ↔ x.entry.kind.rank < y.entry.kind.rank ∨ (x.entry.kind.rank = y.entry.kind.rank
      ∧ ((t - y.start).toNat < (t - x.start).toNat ∨ ((t - x.start).toNat = (t - y.start).toNat
        ∧ ((x.entry.seq - first).toNat < (y.entry.seq - first).toNat
          ∨ ((x.entry.seq - first).toNat = (y.entry.seq - first).toNat ∧ x.entry.index < y.entry.index))))) := by
  have hkind : x.entry.kind = y.entry.kind ↔ x.entry.kind.rank = y.entry.kind.rank :=
    ⟨congrArg _, by cases x.entry.kind <;> cases y.entry.kind <;> decide⟩
  have hstart : (y.start - x.start).toInt = ((t - x.start).toNat : Int) - (t - y.start).toNat := by
    rw [← toInt_sub_of_lt (n := 31) hx hy]
    congr 1
    bv_omega
  have hseq : (x.entry.seq - y.entry.seq).toInt = ((x.entry.seq - first).toNat : Int) - (y.entry.seq - first).toNat := by
    rw [← toInt_sub_of_lt (n := 15) hx' hy']
    congr 1
    bv_omega
  have hstarts : x.start = y.start ↔ (t - x.start).toNat = (t - y.start).toNat :=
    ⟨fun h => by rw [h], fun h => by bv_omega⟩
  have hseqs : x.entry.seq = y.entry.seq ↔ (x.entry.seq - first).toNat = (y.entry.seq - first).toNat :=
    ⟨fun h => by rw [h], fun h => by bv_omega⟩
  unfold ArmedEntry.presentBefore
  rw [ranksBefore_iff, hkind, hstart, hseq, ne_eq, ne_eq, hstarts, hseqs]
  omega

theorem presentBefore_ranks (t : Time) (first : Word) : Ranks ArmedEntry.presentBefore fun a =>
    (t - a.start).toNat < 2 ^ 31 ∧ (a.entry.seq - first).toNat < 2 ^ 15 where
  asymm := fun x y hx hy h => by
    rw [presentBefore_iff hx.1 hy.1 hx.2 hy.2] at h
    rw [Bool.eq_false_iff, ne_eq, presentBefore_iff hy.1 hx.1 hy.2 hx.2]
    omega
  trans := fun x y z hx hy hz h g => by
    rw [Bool.eq_false_iff, ne_eq, presentBefore_iff hy.1 hx.1 hy.2 hx.2] at h
    rw [Bool.eq_false_iff, ne_eq, presentBefore_iff hz.1 hy.1 hz.2 hy.2] at g
    rw [Bool.eq_false_iff, ne_eq, presentBefore_iff hz.1 hx.1 hz.2 hx.2]
    omega

/-! ## Requests -/

section
variable {u : Setup} {s : State} {a : ArmedEntry} {e : Event} {p : Pulse}

theorem State.pulseOf_eq (he : (s.cyl a.entry.cyl).event = some e) (hq : e.seq = a.entry.seq)
    (hp : e.pulses.find? (fun q => q.plan.index == a.entry.index) = some p) :
    s.pulseOf a.entry.cyl a.entry.seq a.entry.index = some p := by
  simp [State.pulseOf, State.eventOf, he, hq, hp]

/-- A pulse resolved meanwhile, or granted, makes no request. -/
theorem State.present_gone (he : (s.cyl a.entry.cyl).event = some e) (hq : e.seq = a.entry.seq)
    (hp : e.pulses.find? (fun q => q.plan.index == a.entry.index) = some p) (hc : p.cond.droppable = false) : s.present a = s := by
  unfold State.present
  rw [State.pulseOf_eq he hq hp]
  dsimp only
  rw [if_neg (by simp [hc])]

/-- The request of a pulse still ungranted (R74). -/
theorem State.present_request {f : Profile} (hu : s.su.setup = some u) (he : (s.cyl a.entry.cyl).event = some e)
    (hq : e.seq = a.entry.seq) (hp : e.pulses.find? (fun q => q.plan.index == a.entry.index) = some p)
    (hc : p.cond.droppable = true) (hf : u.profiles[p.plan.profile]? = some f) :
    s.present a = s.request (u.cyls.get a.entry.cyl).bank
      { seq := e.seq, index := a.entry.index, cyl := a.entry.cyl, kind := a.entry.kind, start := a.start
        deadline := Time.add a.start a.entry.slipLimit, boost := f.boostMark, minDwell := s.su.trim.minDwell
        recharge := s.su.trim.rechargeGuard, profile := p.plan.profile, duration := p.plan.duration
        late := p.late, dry := e.dry } := by
  have hbank : s.bankOf a.entry.cyl = (u.cyls.get a.entry.cyl).bank := by simp [State.bankOf, hu]
  have hevent : s.eventOf a.entry.cyl a.entry.seq = some e := by simp [State.eventOf, he, hq]
  unfold State.present
  rw [State.pulseOf_eq he hq hp]
  dsimp only
  rw [if_pos hc]
  unfold State.requestFor
  rw [State.pulseOf_eq he hq hp, hevent, hu]
  dsimp only
  rw [hf, hbank, hq]

end

/-- Two changes of a pulse, one after the other. -/
theorem State.modPulse_modPulse {s : State} {k : CylId} {e : Event} {seq : Word} (he : (s.cyl k).event = some e) (hq : e.seq = seq)
    (i : Nat) {f : Pulse → Pulse} (hf : ∀ p, (f p).plan = p.plan) (g : Pulse → Pulse) :
    (s.modPulse k seq i f).modPulse k seq i g = s.setCyl k { s.cyl k with
      event := some { e with pulses := modPulses i (fun p => g (f p)) e.pulses } } := by
  rw [State.modPulse_of he hq, State.modPulse_of (e := { e with pulses := modPulses i f e.pulses }) (by rw [State.cyl_setCyl]) hq,
    modPulses_modPulses hf]
  simp [State.setCyl, State.setCyls, State.cyl]

/-! ## The arming step -/

section
variable {u : Setup} {v : EdgeView} {s : State} {held : List ArmedEntry} {q : ArmEntry} {e : Event} {start : Time}

/-- The armed start of a pending pulse at a distance `d` from the edge (R68). -/
theorem EdgeView.startOf_eq {d : Nat} (hn : 24 ≤ u.n) (hn' : u.n ≤ 72)
    (hd : (d : Int) = (q.target - v.cycle).toInt * 23040 + q.offset - v.angle) (hd' : d ≤ 2399) (ht : v.tPred ≤ 16777215) :
    v.startOf u q = v.time + BitVec.ofNat 32 ((d * v.tPred + 11520 / u.n / 2) / (11520 / u.n)) - BitVec.ofNat 32 q.lead := by
  have hlo : 160 ≤ 11520 / u.n := (Nat.le_div_iff_mul_le (by omega)).2 (by omega)
  have hhi : 11520 / u.n ≤ 480 := (Nat.div_le_iff_le_mul_add_pred (by omega)).2 (by omega)
  have hdist : signedDistance q.target q.offset v.cycle v.angle = d := hd.symm
  have hangle : (angleToTime d v.tPred (11520 / u.n)).truncate 32 =
      BitVec.ofNat 32 ((d * v.tPred + 11520 / u.n / 2) / (11520 / u.n)) := by
    rw [← (angleToTime_toNat hd' ht hlo hhi).1]
    exact BitVec.eq_of_toNat_eq (by simp)
  unfold EdgeView.startOf armedStart Setup.pitch revSteps
  rw [hdist, hangle]

/-- A pulse that passes, with no abort found, in a memory that stands still (R67). -/
theorem State.armStep_passes (hp : v.passes q = true) (hm : s.mem.calm) :
    State.armStep u v (s, held) q = State.armRead u v q (s.unlist q, held) := by
  unfold State.armStep State.armNow
  rw [if_pos hp]
  dsimp only
  rw [State.reread_calm (by exact hm)]

theorem State.armRead_abort (ha : s.abortMet q.cyl q.seq = true) (he : (s.cyl q.cyl).event = some e) (hq : e.seq = q.seq)
    (ho : e.others q.index) : State.armRead u v q (s, held) = (s.setCyl q.cyl { s.cyl q.cyl with
      event := some { e with pulses := modPulses q.index (fun p => { p with cond := .resolved, outcome := some .abortDrop }) e.pulses } },
      held) := by
  unfold State.armRead
  rw [if_pos ha, State.resolveHeld_others he hq ho]

theorem State.armRead_armed (ha : s.abortMet q.cyl q.seq = false) (hl : Time.later (v.startOf u q) v.time = true)
    (he : (s.cyl q.cyl).event = some e) (hq : e.seq = q.seq) : State.armRead u v q (s, held) =
      ({ s with
        arm := { s.arm with armedSet := insertBy ArmedEntry.before ⟨q, v.startOf u q⟩ s.arm.armedSet }
        cyls := s.cyls.set q.cyl { s.cyl q.cyl with
          event := some { e with
            pulses := modPulses q.index (fun p => { p with cond := .armed, start := some (v.startOf u q) }) e.pulses } } }, held) := by
  unfold State.armRead State.armPulse
  dsimp only
  rw [if_neg (by simp [ha]), if_pos hl, State.modPulse_of (by exact he) hq]
  rfl

theorem State.armRead_late (ha : s.abortMet q.cyl q.seq = false) (hl : Time.later (v.startOf u q) v.time = false)
    (hs : Time.since v.time (v.startOf u q) ≤ q.slipLimit) (he : (s.cyl q.cyl).event = some e) (hq : e.seq = q.seq) :
    State.armRead u v q (s, held) =
      ({ s with
        cyls := s.cyls.set q.cyl { s.cyl q.cyl with
          event := some { e with
            pulses := modPulses q.index (fun p => { p with late := true, start := some (v.startOf u q) }) e.pulses } } },
        held ++ [⟨q, v.startOf u q⟩]) := by
  unfold State.armRead State.lateAt State.markLate
  dsimp only
  rw [if_neg (by simp [ha]), if_neg (by simp [hl]), if_pos hs, State.modPulse_of he hq]
  rfl

theorem State.armRead_slipped (ha : s.abortMet q.cyl q.seq = false) (hl : Time.later (v.startOf u q) v.time = false)
    (hs : q.slipLimit < Time.since v.time (v.startOf u q)) (he : (s.cyl q.cyl).event = some e) (hq : e.seq = q.seq)
    (ho : e.others q.index) {bk : BankId} (hb : s.bankOf q.cyl = bk) : State.armRead u v q (s, held) =
      ({ s with
        cyls := s.cyls.set q.cyl { s.cyl q.cyl with
          event := some { e with
            pulses := modPulses q.index (fun p =>
              { p with late := true, start := some (v.startOf u q), cond := .resolved, outcome := some .slipDrop }) e.pulses } }
        banks := s.banks.set bk { s.bank bk with conflicts := satCount (s.bank bk).conflicts }
        ev := { s.ev with sticky := s.ev.sticky ||| 0x0200 }
        mem := s.mem.mirror s.sb.live [(0x240 + 8 * bk.index + 2, satCount (s.bank bk).conflicts)] }, held) := by
  have hmark : (s.markLate ⟨q, v.startOf u q⟩).resolveHeld q.cyl q.seq q.index .slipDrop = s.setCyl q.cyl { s.cyl q.cyl with
      event := some { e with
        pulses := modPulses q.index (fun p =>
          { p with late := true, start := some (v.startOf u q), cond := .resolved, outcome := some .slipDrop }) e.pulses } } :=
    State.modPulse_modPulse he hq q.index (f := fun p => { p with late := true, start := some (v.startOf u q) }) (fun _ => rfl) _
  unfold State.armRead State.lateAt
  dsimp only
  rw [if_neg (by simp [ha]), if_neg (by simp [hl]), if_neg (Nat.not_le.2 hs), hmark, hb, State.conflict_eq, State.settle_unresolved
    (e := { e with
        pulses := modPulses q.index (fun p =>
          { p with late := true, start := some (v.startOf u q), cond := .resolved, outcome := some .slipDrop }) e.pulses })
    (by simp [State.cyl, State.setCyl, State.setCyls]) (ho.modPulses _)]
  rfl

end

theorem EdgeView.distance_eq (u : Setup) (x : EdgeView) (k : CylId) (e : Event) (p : PulseEntry) :
    signedDistance (armEntryOf u k e p).target (armEntryOf u k e p).offset x.cycle x.angle =
      (e.target - x.cycle).toInt * 23040 + (u.cyls.get k).tdc + p.relAngle - x.angle := by
  show (e.target - x.cycle).toInt * 23040 + ((u.cyls.get k).tdc + p.relAngle) - x.angle = _
  omega

/-- Settles O35. -/
theorem armingStep : Obligations.ArmingStep := by
  refine ⟨fun u k e p => ?_, fun α before x l => insertBy_split before x l, fun u x s k e p d he hd => ⟨fun h => ?_, fun h => ?_⟩,
    ArmEntry.before_iff, fun x y rank hm hp ho => ?_, ArmedEntry.before_iff, fun u v s held first => ⟨rfl, fun h => ?_⟩,
    fun u s a e p f hu he hq hp hf => ⟨fun hc => ?_, fun hc => ?_⟩, ?_⟩
  · unfold armEntryOf Snapshot.slipLimit
    cases p.kind <;> rfl
  · exact (if_pos ((EdgeView.distance_eq u x k e p).trans hd.symm ▸ h)).trans (State.modPulse_of he rfl _ _)
  · exact if_neg (Int.not_lt.2 ((EdgeView.distance_eq u x k e p).trans hd.symm ▸ h))
  · rw [Kind.rank_eq hm hp ho]
    exact ranksBefore_iff _ _ _ _ _ _
  · exact ⟨_, sortBy_perm _ held, sortBy_inOrder (presentBefore_ranks v.time first) held h, rfl⟩
  · exact State.present_gone he hq hp (by rcases hc with hc | hc | hc <;> rw [hc] <;> rfl)
  · exact State.present_request hu he hq hp (by rcases hc with hc | hc | hc <;> rw [hc] <;> rfl) hf
  · intro u v s z held q e d tPred n start g hu hn hn' ht hd hpitch hstart hd' ht' he hq ho hm hz hg
    have hstartOf : v.startOf u q = start := by
      rw [hstart, hpitch, ht]
      exact EdgeView.startOf_eq hn hn' hd hd' (ht ▸ ht')
    have hdist : signedDistance q.target q.offset v.cycle v.angle = d := hd.symm
    have hunlist : s.unlist q = z := hz.symm
    have hcyl : (z.cyl q.cyl).event = some e := by rw [hz]; exact he
    refine ⟨fun h => ?_, fun h => ⟨fun i hi ha => ?_, fun hno => ?_⟩⟩
    · have hpass : v.passes q = false := by
        unfold EdgeView.passes
        rw [hdist]
        exact decide_eq_false (by omega)
      unfold State.armStep
      rw [hpass]
      rfl
    all_goals
      have hpass : v.passes q = true := by
        unfold EdgeView.passes
        rw [hdist]
        exact decide_eq_true (by omega)
      rw [State.armStep_passes hpass hm, hunlist]
    · rw [State.armRead_abort (State.abortMet_of_abort hcyl hq hi (by rw [hz]; exact ha)) hcyl hq ho, hg, hz]
      rfl
    · have ha : z.abortMet q.cyl q.seq = false := State.abortMet_of_noAbort hno hcyl (by rw [hz])
      have hlater : ∀ b, Time.later (v.startOf u q) v.time = b ↔ decide (0 < (start - v.time).toInt) = b := fun b => by
        rw [hstartOf]
        rfl
      refine ⟨fun hl => ?_, fun hl hs => ?_, fun hl hs => ⟨s.mem.mirror s.sb.live
        [(0x240 + 8 * (u.cyls.get q.cyl).bank.index + 2, satCount (s.bank (u.cyls.get q.cyl).bank).conflicts)], _, rfl, ?_, ?_⟩⟩
      · rw [State.armRead_armed ha ((hlater true).2 (by simpa using hl)) hcyl hq, hg, hstartOf, hz]
        rfl
      · rw [State.armRead_late ha ((hlater false).2 (by simpa using hl)) (hstartOf ▸ hs) hcyl hq, hg, hstartOf, hz]
        rfl
      · rw [State.armRead_slipped ha ((hlater false).2 (by simpa using hl)) (hstartOf ▸ hs) hcyl hq ho
          (bk := (u.cyls.get q.cyl).bank) (by rw [hz]; simp [State.bankOf, hu]), hg, hstartOf, hz]
        rfl
      · refine Memory.mirror_again s.sb.live _ [] _ s.mem ?_
        cases (u.cyls.get q.cyl).bank <;> decide

end Sys2Proof.Machine

/-! # An overrun -/

namespace Sys2Proof.Machine

variable {s u : State}

/-! ## An event that waits for nothing

Once an overrun has dropped the pulses of an event that waited, every pulse of it is in QUENCH or RESOLVED. No later end, release or
grant takes it back from there, or enters the cylinder in a list. -/

/-- A pulse that has ended: in QUENCH, or RESOLVED. -/
def Pulse.past (p : Pulse) : Prop := p.cond = .quench ∨ p.cond = .resolved

/-- A cylinder whose event `e` has left the table with its report, whose outcome is `o` where `o` is given; or still stands there with
every pulse past, `o` not being given. -/
def Cylinder.past (e : Event) (o : Option (Option EventOutcome)) (c : Cylinder) : Prop :=
  (c.event = none ∧ c.lastSource = e.source ∧ c.lastSeq = e.seq ∧ ∀ x, o = some x → c.lastOutcome = x)
    ∨ (o = none ∧ ∃ d, c.event = some d ∧ d.source = e.source ∧ d.seq = e.seq ∧ ∀ p ∈ d.pulses, p.past)

/-- The same, with no pulse of the cylinder left in a list. -/
structure Past (k : CylId) (e : Event) (o : Option (Option EventOutcome)) (s : State) : Prop where
  cyl : (s.cyl k).past e o
  unlisted : s.unlisted k

section
variable {e : Event} {o : Option (Option EventOutcome)}

theorem Cylinder.past.congr {c d : Cylinder} (h : c.past e o) (he : d.event = c.event) (hs : d.lastSource = c.lastSource)
    (hq : d.lastSeq = c.lastSeq) (ho : d.lastOutcome = c.lastOutcome) : d.past e o := by
  unfold Cylinder.past
  rw [he, hs, hq, ho]
  exact h

/-- The event changed, its past pulses staying past. -/
theorem Cylinder.past.change {c : Cylinder} (h : c.past e o) {x : Event → Event}
    (hx : ∀ d, (x d).source = d.source ∧ (x d).seq = d.seq ∧ ((∀ p ∈ d.pulses, p.past) → ∀ p ∈ (x d).pulses, p.past)) :
    Cylinder.past e o { c with event := c.event.map x } := by
  obtain ⟨hn, hl⟩ | ⟨ho, d, hd, hs, hq, hp⟩ := h
  · exact .inl ⟨by simp [hn], hl⟩
  · obtain ⟨hxs, hxq, hxp⟩ := hx d
    exact .inr ⟨ho, x d, by simp [hd], hxs.trans hs, hxq.trans hq, hxp hp⟩

theorem Cylinder.past.settled {c : Cylinder} (h : c.past e o) : c.settled.past e o := by
  obtain ⟨hn, hl⟩ | ⟨ho, d, hd, hs, hq, hp⟩ := h
  · simp only [Cylinder.settled, hn]
    exact .inl ⟨hn, hl⟩
  · simp only [Cylinder.settled, hd]
    split
    · exact .inl ⟨rfl, hs, hq, fun x hx => nomatch ho.symm.trans hx⟩
    · exact .inr ⟨ho, d, hd, hs, hq, hp⟩

theorem Pulse.past.drop {p : Pulse} (h : p.past) (t : Time) (x : PulseOutcome) : (p.drop t x).past := by
  unfold Pulse.drop
  split
  · exact .inr rfl
  · exact h

theorem past_modPulses {l : List Pulse} {i : Nat} {f : Pulse → Pulse} (hf : ∀ p, (f p).past) (h : ∀ p ∈ l, p.past) :
    ∀ p ∈ modPulses i f l, p.past := by
  intro p hp
  obtain ⟨q, hq, rfl⟩ := List.mem_map.1 hp
  split
  · exact hf q
  · exact h q hq

end

namespace Past

variable {k j : CylId} {bk : BankId} {e : Event} {o : Option (Option EventOutcome)}

/-! ### The state's operations -/

theorem of_same {t : State} (h : Past k e o u) (ha : t.arm = u.arm) (hb : t.banks = u.banks) (hc : t.cyls = u.cyls) :
    Past k e o t where
  cyl := by
    rw [State.cyl, hc]
    exact h.cyl
  unlisted := by
    simp only [State.unlisted, State.bank, ha, hb]
    exact h.unlisted

theorem statusAll (h : Past k e o u) (l : List (Nat × Word)) : Past k e o (u.statusAll l) := by
  rw [State.statusAll_eq]
  exact h.of_same rfl rfl rfl

theorem raise (h : Past k e o u) (f : Flag) : Past k e o (u.raise f) := h.of_same rfl rfl rfl

theorem setBank (h : Past k e o u) (bk : BankId) {x : Bank} (hx : ∀ r ∈ x.waiting, r ∈ (u.bank bk).waiting) :
    Past k e o (u.setBank bk x) where
  cyl := h.cyl
  unlisted := by
    obtain ⟨hp, ha, hw⟩ := h.unlisted
    refine ⟨hp, ha, fun i r hr => ?_⟩
    by_cases hi : i = bk
    · subst hi
      rw [State.bank_setBank] at hr
      exact hw i r (hx r hr)
    · rw [State.bank_setBank_ne _ _ hi] at hr
      exact hw i r hr

theorem setMode (h : Past k e o u) (bk : BankId) (m : BankMode) : Past k e o (u.setMode bk m) :=
  (h.setBank bk (x := { u.bank bk with mode := m }) fun _ hr => hr).statusAll _

theorem setCyl (h : Past k e o u) (j : CylId) {x : Cylinder} (hx : j = k → (u.cyl k).past e o → x.past e o) :
    Past k e o (u.setCyl j x) where
  cyl := by
    by_cases hj : k = j
    · subst hj
      rw [State.cyl_setCyl]
      exact hx rfl h.cyl
    · rw [State.cyl_setCyl_ne _ _ hj]
      exact h.cyl
  unlisted := h.unlisted

/-- A cylinder changed in its other items. -/
theorem setOther (h : Past k e o u) (j : CylId) {x : Cylinder} (he : x.event = (u.cyl j).event)
    (hs : x.lastSource = (u.cyl j).lastSource) (hq : x.lastSeq = (u.cyl j).lastSeq)
    (ho : x.lastOutcome = (u.cyl j).lastOutcome) : Past k e o (u.setCyl j x) :=
  h.setCyl j fun hj hc => by
    subst hj
    exact hc.congr he hs hq ho

theorem modEvent (h : Past k e o u) (j : CylId) (seq : Word) {f : Event → Event}
    (hf : j = k → ∀ d, (f d).source = d.source ∧ (f d).seq = d.seq ∧ ((∀ p ∈ d.pulses, p.past) → ∀ p ∈ (f d).pulses, p.past)) :
    Past k e o (u.modEvent j seq f) := by
  unfold State.modEvent
  split
  · rename_i d hd
    split
    · refine h.setCyl j fun hj hc => ?_
      subst hj
      have hch := hc.change (hf rfl)
      rwa [hd] at hch
    · exact h
  · exact h

theorem modPulse (h : Past k e o u) (j : CylId) (seq : Word) (i : Nat) {f : Pulse → Pulse} (hf : j = k → ∀ p, (f p).past) :
    Past k e o (u.modPulse j seq i f) :=
  h.modEvent j seq fun hj _ => ⟨rfl, rfl, past_modPulses (hf hj)⟩

theorem withdraw (h : Past k e o u) (reach : CylId → Bool) (x : PulseOutcome) : Past k e o (u.withdraw reach x) where
  cyl := by
    simp only [State.withdraw, State.setBanks_cyls, State.setArm_cyls, State.setCyls_cyls, State.cyl, Eight.get_map]
    split
    · refine h.cyl.change fun d => ⟨rfl, rfl, fun hp p hm => ?_⟩
      obtain ⟨q, hq, rfl⟩ := List.mem_map.1 hm
      exact (hp q hq).drop _ _
    · exact h.cyl
  unlisted := by
    obtain ⟨hp, ha, hw⟩ := h.unlisted
    refine ⟨fun q hq => hp q (List.mem_of_mem_filter hq), fun q hq => ha q (List.mem_of_mem_filter hq), fun i r hr => ?_⟩
    have hr : r ∈ ((u.banks.map fun _ y => Bank.withdraw reach y).get i).waiting := hr
    rw [Four.get_map] at hr
    exact hw i r (List.mem_of_mem_filter hr)

theorem conflict (h : Past k e o u) (bk : BankId) : Past k e o (u.conflict bk) :=
  ((h.setBank bk (x := { u.bank bk with conflicts := satCount (u.bank bk).conflicts }) fun _ hr => hr).statusAll _).raise _

theorem conflicts (bk : BankId) (n : Nat) : ∀ {u : State}, Past k e o u → Past k e o (u.conflicts bk n) := by
  induction n with
  | zero => exact fun h => h
  | succ n ih => exact fun h => ih (h.conflict bk)

theorem settle (h : Past k e o u) (j : CylId) : Past k e o (u.settle j) where
  cyl := by
    rw [State.cyl, State.settle_cyls]
    by_cases hj : k = j
    · subst hj
      rw [Eight.get_set_same]
      exact h.cyl.settled
    · rw [Eight.get_set_ne _ _ hj]
      exact h.cyl
  unlisted := by
    simp only [State.unlisted, State.bank, State.settle_arm, State.settle_banks]
    exact h.unlisted

/-! ### Faults and quarantine -/

theorem clearFaults (h : Past k e o u) (j : CylId) : Past k e o (u.clearFaults j) :=
  (h.setOther j (x := { u.cyl j with faults := 0 }) rfl rfl rfl rfl).statusAll _

theorem quarantine (h : Past k e o u) (j : CylId) : Past k e o (u.quarantine j) :=
  (((h.setOther j (x := { u.cyl j with quarantined := true }) rfl rfl rfl rfl).statusAll _).raise _).withdraw _ _

theorem quarantineTest (h : Past k e o u) (j : CylId) : Past k e o (u.quarantineTest j) := by
  unfold State.quarantineTest
  split
  · exact h.quarantine j
  · exact h

theorem countFault (h : Past k e o u) (j : CylId) : Past k e o (u.countFault j) :=
  (((h.setOther j (x := { u.cyl j with faults := (u.cyl j).faults + 1, faultTotal := satCount (u.cyl j).faultTotal }) rfl rfl rfl
    rfl).statusAll _).raise _).quarantineTest j

theorem countEnd (h : Past k e o u) (j : CylId) (x : PulseOutcome) : Past k e o (u.countEnd j x) := by
  unfold State.countEnd
  split
  · exact h.countFault j
  · exact h.clearFaults j

theorem capCheck (h : Past k e o u) (j : CylId) (seq : Word) (x : PulseOutcome) : Past k e o (u.capCheck j seq x) := by
  unfold State.capCheck
  split
  · split
    · exact Past.conflicts _ _ (h.withdraw _ _)
    · exact h
  · exact h

/-! ### The end of a pulse -/

theorem endInEvent (h : Past k e o u) (j : CylId) (seq : Word) (i : Nat) {c : PulseCond} (hc : c = .quench ∨ c = .resolved)
    (r : PulseResult) : Past k e o (u.endInEvent j seq i c r) :=
  (h.modPulse j seq i (by intro _ _; exact hc)).modEvent j seq fun _ _ => ⟨rfl, rfl, fun hp => hp⟩

theorem serviceResult (h : Past k e o u) (p : Player) : Past k e o (u.serviceResult p) := by
  unfold State.serviceResult
  split
  · rename_i r _
    exact ((h.of_same (t := u.setSb { u.sb with service := u.sb.service.ended r }) rfl rfl rfl).statusAll _).raise _
  · exact h

theorem headCheck (h : Past k e o u) (bk : BankId) : Past k e o (u.headCheck bk) := by
  unfold State.headCheck
  dsimp only
  split
  · exact h.setBank bk fun _ hr => hr
  · exact h

theorem release (h : Past k e o u) (bk : BankId) : Past k e o (u.release bk) :=
  (h.setBank bk (x := { u.bank bk with
    holder := none, releaseAt := some u.now, settleAt := (u.bank bk).settleExpiry u.su.trim u.now }) fun _ hr => hr).setMode _ _

theorem freeBank (h : Past k e o u) (bk : BankId) : Past k e o (u.freeBank bk) :=
  (h.setBank bk (x := { u.bank bk with channel := none }) fun _ hr => hr).release bk

theorem quenchOver (h : Past k e o u) (bk : BankId) : Past k e o (u.quenchOver bk) := by
  unfold State.quenchOver
  split
  · exact h
  · split
    · exact ((h.serviceResult _).freeBank bk).headCheck bk
    · exact ((h.freeBank bk).modPulse _ _ _ fun _ _ => .inr rfl).headCheck bk

theorem judge (h : Past k e o u) (p : Player) : Past k e o (u.judge p) := by
  unfold State.judge
  split
  · exact h.settle _
  · exact h

theorem startQuench (h : Past k e o u) (bk : BankId) : Past k e o (u.startQuench bk) := by
  unfold State.startQuench State.quenchStanding
  split
  · exact h
  · rename_i p _
    have hq : Past k e o _ := h.setBank bk
      (x := { u.bank bk with channel := some { p with quenchAt := some (Time.add u.now p.quenchMax) } }) fun _ hr => hr
    split
    · exact hq.quenchOver bk
    · exact hq

theorem fixEnd (h : Past k e o u) (bk : BankId) (p : Player) (x : PulseOutcome) : Past k e o (u.fixEnd bk p x) := by
  have hm : Past k e o _ := (h.setBank bk (x := { u.bank bk with
    channel := some { p with cond := .quench, phaseTimer := none, result := some (p.resultAt x u.now) }
    boostEnd := if p.cond.boostGate then some u.now else (u.bank bk).boostEnd
    capAt := none }) fun _ hr => hr).setMode bk .quench
  unfold State.fixEnd State.reportEnd
  split
  · exact hm.endInEvent _ _ _ (.inl rfl) _
  · exact hm

theorem stopPlayed (h : Past k e o u) (bk : BankId) (x : PulseOutcome) : Past k e o (u.stopPlayed bk x) := by
  unfold State.stopPlayed
  split
  · exact h
  · rename_i p _
    split
    · exact h
    · have hc : Past k e o _ := (h.fixEnd bk p x).countEnd p.cyl x
      unfold State.capPlayed
      split
      · exact (hc.capCheck _ _ _).startQuench bk
      · exact hc.startQuench bk

theorem endPlayed (h : Past k e o u) (bk : BankId) (x : PulseOutcome) : Past k e o (u.endPlayed bk x) := by
  unfold State.endPlayed
  split
  · exact h
  · dsimp only
    split
    · exact (h.stopPlayed bk x).judge _
    · exact h.stopPlayed bk x

theorem endDry (h : Past k e o u) (bk : BankId) (g : Holder) (x : PulseOutcome) : Past k e o (u.endDry bk g x) := by
  unfold State.endDry State.stopDry
  split
  · exact h
  · have hb : Past k e o _ := h.setBank bk (x := { u.bank bk with capAt := none, dryEndAt := none }) fun _ hr => hr
    exact ((((hb.endInEvent _ _ _ (.inr rfl) _).capCheck _ _ _).release bk).headCheck bk).settle _

theorem endHolder (h : Past k e o u) (bk : BankId) (x : PulseOutcome) : Past k e o (u.endHolder bk x) := by
  unfold State.endHolder
  split
  · exact h
  · split
    · split
      · exact h.endDry bk _ x
      · exact h.endPlayed bk x
    · exact h

theorem truncateOwn (h : Past k e o u) (bk : BankId) (j : CylId) (seq : Word) : Past k e o (u.truncateOwn bk j seq) := by
  unfold State.truncateOwn
  split
  · split
    · exact h.endHolder bk _
    · exact h
  · exact h

/-! ### A grant -/

theorem countBoostLow (bk : BankId) (n : Nat) : ∀ {u : State}, Past k e o u → Past k e o (u.countBoostLow bk n) := by
  induction n with
  | zero => exact fun h => h
  | succ n ih =>
    exact fun {u} h => ih ((h.setBank bk (x := { u.bank bk with boostLowCount := satCount (u.bank bk).boostLowCount })
      fun _ hr => hr).statusAll _)

theorem comeToRest (h : Past k e o u) (bk : BankId) (p : Player) (stop : PlayStop) : Past k e o (u.comeToRest bk p stop) := by
  unfold State.comeToRest
  split
  · exact (h.setBank bk (x := { u.bank bk with channel := some p }) fun _ hr => hr).endPlayed bk _
  · exact h.setBank bk fun _ hr => hr

theorem enterPhase (h : Past k e o u) (bk : BankId) (n : Nat) : Past k e o (u.enterPhase bk n) := by
  unfold State.enterPhase
  split
  · exact h
  · rename_i p _
    exact (Past.countBoostLow bk _ (h.of_same (t := u.setFreeCount (u.playPhases bk p n).1.free) rfl rfl rfl)).comeToRest bk _ _

theorem grant (h : Past k e o u) (bk : BankId) {r : Request} (hr : r.cyl ≠ k) : Past k e o (u.grant bk r) := by
  have hm : Past k e o (u.makeHolder bk r) :=
    ((h.setBank bk (x := (u.bank bk).grantedTo r (u.capExpiry r.cyl r.seq) u.now) fun _ hr => hr).setMode bk
      .active).modPulse _ _ _ fun hk => absurd hk hr
  unfold State.grant State.drivePulse State.engage
  split
  · exact hm
  · split
    · exact hm
    · rename_i x _
      exact (hm.setBank bk (x := { (u.makeHolder bk r).bank bk with
        channel := some (x.player bk _ r.cyl r.profile r.duration (u.makeHolder bk r).now) }) fun _ hr => hr).enterPhase bk 0

theorem grantCheck (h : Past k e o u) (bk : BankId) : Past k e o (u.grantCheck bk) := by
  obtain ⟨_, _, hw⟩ := h.unlisted
  unfold State.grantCheck
  dsimp only
  split
  · exact h
  · split
    · exact h.setBank bk fun _ hr => hr
    · rename_i r rest hl
      split
      · exact (h.setBank bk (x := { u.bank bk with waiting := rest }) fun q hq => hl ▸ List.mem_cons_of_mem r hq).grant bk
          (hw bk r (hl ▸ List.mem_cons_self))
      · exact h.setBank bk fun _ hr => hr

theorem recheck (h : Past k e o u) (bk : BankId) (old : Option Request) : Past k e o (u.recheck bk old) := by
  unfold State.recheck
  split
  · exact h
  · exact h.grantCheck bk

end Past

/-! ## The end of an overrun -/

/-- What the status entry of a cylinder is to say of its event, judged or yet to be judged. -/
def Cylinder.verdict (c : Cylinder) : Option EventOutcome :=
  match c.event with
  | some d => some (eventOutcome d.pulses)
  | none => c.lastOutcome

theorem Cylinder.settled_verdict (c : Cylinder) : c.settled.verdict = c.verdict := by
  unfold Cylinder.settled
  split
  · rename_i d hd
    split
    · simp [Cylinder.verdict, Cylinder.reported, hd]
    · rfl
  · rfl

/-- Every pulse of an event resolved, those in QUENCH with the outcome they have (R42). -/
def Event.resolveQuench (e : Event) : Event := { e with pulses := e.pulses.map Pulse.resolveQuench }

/-- What an overrun does once the holder has been ended: the event resolved and judged, and a new head checked (R42). -/
def State.overrunEnd (bk : BankId) (k : CylId) (seq : Word) (old : Option Request) (s : State) : State :=
  ((s.modEvent k seq Event.resolveQuench).settle k).recheck bk old

theorem State.overrun_eq {k : CylId} {e : Event} (he : (s.cyl k).event = some e) : s.overrun k =
    ((s.withdraw (· == k) .overrunDrop).truncateOwn (s.bankOf k) k e.seq).overrunEnd (s.bankOf k) k e.seq
      (s.bank (s.bankOf k)).waiting.head? := by
  unfold State.overrun
  rw [he]
  rfl

/-- The outcome of an event is that of its pulses' outcomes. -/
theorem eventOutcome_congr {l m : List Pulse} (h : l.map Pulse.outcome = m.map Pulse.outcome) :
    eventOutcome l = eventOutcome m := by
  have hout : ∀ l : List Pulse, eventOutcome l = if (l.map Pulse.outcome).all (· == some .fired) then .complete
      else if (l.map Pulse.outcome).any (·.any PulseOutcome.delivered) then .partlyFired else .noneFired := fun l => by
    rw [eventOutcome_any, List.all_map, List.any_map]
    rfl
  rw [hout, hout, h]

theorem Event.resolveQuench_outcome (e : Event) : eventOutcome e.resolveQuench.pulses = eventOutcome e.pulses := by
  refine eventOutcome_congr ?_
  unfold Event.resolveQuench
  rw [List.map_map]
  refine List.map_congr_left fun p _ => ?_
  unfold Function.comp Pulse.resolveQuench
  split <;> rfl

/-- The condition that an end leaves does not bear on the outcome. -/
theorem Event.ended_outcome (e : Event) (i : Nat) (c d : PulseCond) (r : PulseResult) :
    eventOutcome (e.ended i c r).pulses = eventOutcome (e.ended i d r).pulses := by
  refine eventOutcome_congr ?_
  unfold Event.ended modPulses
  rw [List.map_map, List.map_map]
  refine List.map_congr_left fun p _ => ?_
  unfold Function.comp
  dsimp only
  split <;> rfl

theorem Event.resolveQuench_done {e : Event} (h : ∀ p ∈ e.pulses, p.past) : e.resolveQuench.done = true := by
  refine (Event.done_iff _).2 fun p hp => ?_
  obtain ⟨q, hq, rfl⟩ := List.mem_map.1 hp
  unfold Pulse.resolveQuench
  split
  · rfl
  · exact (h q hq).resolve_left ‹_›

/-- The cylinder of a past event, once its event has been resolved and judged. -/
theorem Past.judged {k : CylId} {e : Event} (h : Past k e none s) :
    Past k e (some (s.cyl k).verdict) ((s.modEvent k e.seq Event.resolveQuench).settle k) := by
  have hp : Past k e none ((s.modEvent k e.seq Event.resolveQuench).settle k) := by
    refine (h.modEvent k e.seq (f := Event.resolveQuench) fun _ d => ⟨rfl, rfl, fun hd p hp => .inr ?_⟩).settle k
    exact (Event.done_iff _).1 (Event.resolveQuench_done hd) p hp
  refine ⟨.inl ?_, hp.unlisted⟩
  obtain ⟨hn, hs, hq, -⟩ | ⟨-, d, hd, hs, hq, hpast⟩ := h.cyl
  · have hm : s.modEvent k e.seq Event.resolveQuench = s := by simp [State.modEvent, hn]
    rw [hm, State.settle_none hn]
    exact ⟨hn, hs, hq, fun x hx => by simpa [Cylinder.verdict, hn] using hx⟩
  · rw [State.modEvent_of hd hq, State.cyl, State.settle_cyls, Eight.get_set_same, State.cyl_setCyl]
    have hverdict : (s.cyl k).verdict = some (eventOutcome d.resolveQuench.pulses) := by
      rw [Event.resolveQuench_outcome, Cylinder.verdict, hd]
    rw [hverdict]
    unfold Cylinder.settled
    dsimp only
    rw [if_pos (Event.resolveQuench_done hpast)]
    exact ⟨rfl, hs, hq, fun x hx => Option.some.inj hx⟩

/-- An overrun leaves the table without the event, whose report is its verdict. -/
theorem Past.overrunEnd {k : CylId} {e : Event} (h : Past k e none s) (bk : BankId) (old : Option Request) :
    Past k e (some (s.cyl k).verdict) (s.overrunEnd bk k e.seq old) := h.judged.recheck bk old

theorem Past.left {k : CylId} {e : Event} {x : Option EventOutcome} (h : Past k e (some x) s) :
    (s.cyl k).event = none ∧ (s.cyl k).lastSource = e.source ∧ (s.cyl k).lastSeq = e.seq ∧ (s.cyl k).lastOutcome = x := by
  obtain ⟨hn, hs, hq, ho⟩ | ⟨ho, -⟩ := h.cyl
  · exact ⟨hn, hs, hq, ho x rfl⟩
  · cases ho

/-- A bank with a holder is left as it is by the end of an overrun (R89). -/
theorem State.overrunEnd_held {bk : BankId} (h : (s.bank bk).holder.isSome = true) (k : CylId) (seq : Word)
    (old : Option Request) : (s.overrunEnd bk k seq old).bank bk = s.bank bk := by
  have hb : ((s.modEvent k seq Event.resolveQuench).settle k).bank bk = s.bank bk := by
    simp only [State.bank, State.settle_banks, State.modEvent_banks]
  unfold State.overrunEnd State.recheck
  split
  · exact hb
  · rw [State.grantCheck_held (by rw [hb]; exact h), hb]

/-! ## The drops -/

/-- The pulses that waited dropped at an overrun, with every other pulse but the ACTIVE ones past. -/
theorem Event.dropped_past (e : Event) (t : Time) (x : PulseOutcome) :
    ∀ p ∈ (e.dropped t x).pulses, p.past ∨ p.cond = .active ∧ p ∈ e.pulses := by
  intro p hp
  obtain ⟨q, hq, rfl⟩ := List.mem_map.1 hp
  unfold Pulse.dropped Pulse.past
  cases hc : q.cond <;> simp [hc, hq]

section
variable {k : CylId} {e : Event}

theorem State.withdraw_cyl (he : (s.cyl k).event = some e) (x : PulseOutcome) :
    (s.withdraw (· == k) x).cyl k = { s.cyl k with event := some (e.dropped s.now x) } := by
  simp only [State.withdraw, State.setBanks_cyls, State.setArm_cyls, State.setCyls_cyls, State.cyl, Eight.get_map,
    Cylinder.dropPulses, beq_self_eq_true, if_true]
  rw [show (s.cyls.get k).event = some e from he]
  simp [Event.dropped, funext (Pulse.drop_eq_dropped s.now x)]

theorem State.withdraw_bank (s : State) (reach : CylId → Bool) (x : PulseOutcome) (bk : BankId) :
    (s.withdraw reach x).bank bk = (s.bank bk).withdraw reach := Four.get_map _ _ _

theorem State.withdraw_unlisted (s : State) (k : CylId) (x : PulseOutcome) : (s.withdraw (· == k) x).unlisted k := by
  refine ⟨fun q hq => ?_, fun q hq => ?_, fun j r hr => ?_⟩
  · simpa using (List.mem_filter.1 hq).2
  · simpa using (List.mem_filter.1 hq).2
  · rw [State.withdraw_bank] at hr
    simpa using (List.mem_filter.1 hr).2

/-- The drop of an overrun leaves an event with no ACTIVE pulse past. -/
theorem Past.of_withdraw (he : (s.cyl k).event = some e) (h : ∀ p ∈ e.pulses, p.cond ≠ .active) :
    Past k e none (s.withdraw (· == k) .overrunDrop) where
  cyl := by
    refine .inr ⟨rfl, e.dropped s.now .overrunDrop, by rw [State.withdraw_cyl he], rfl, rfl, fun p hp => ?_⟩
    exact (e.dropped_past _ _ p hp).resolve_right fun ⟨ha, hm⟩ => h p hm ha
  unlisted := s.withdraw_unlisted k _

/-- A holder of the event that is in QUENCH runs on (R42). -/
theorem State.truncateOwn_quench {bk : BankId} {seq : Word} (h : ∀ g i kind d, (s.bank bk).holder = some g →
    g.job = .event seq i kind d → g.cyl = k → (s.bank bk).mode = .quench) : s.truncateOwn bk k seq = s := by
  unfold State.truncateOwn
  split
  · rename_i g hg
    split
    · rename_i hof
      unfold Holder.isOf at hof
      split at hof
      · rename_i q i kind d hj
        obtain ⟨hk, rfl⟩ : g.cyl = k ∧ q = seq := by simpa using hof
        unfold State.endHolder
        rw [hg, h g i kind d hg hj hk]
        rfl
      · cases hof
    · rfl
  · rfl

/-- An ACTIVE holder of the event is ended TRUNCATED (R42). -/
theorem State.truncateOwn_active {bk : BankId} {seq : Word} {g : Holder} {i : Nat} {kind : Kind} {d : Bool}
    (hg : (s.bank bk).holder = some g) (hm : (s.bank bk).mode = .active) (hj : g.job = .event seq i kind d) (hk : g.cyl = k) :
    s.truncateOwn bk k seq = if d then s.endDry bk g .truncated else s.endPlayed bk .truncated := by
  have hof : g.isOf k seq = true := by simp [Holder.isOf, hj, hk]
  have hd : g.dry = d := by simp [Holder.dry, hj]
  simp [State.truncateOwn, State.endHolder, hg, hm, hof, hd]

/-! ## The end of an ACTIVE holder -/

theorem State.endInEvent_of {seq : Word} (he : (s.cyl k).event = some e) (hq : e.seq = seq) (i : Nat) (c : PulseCond)
    (r : PulseResult) :
    s.endInEvent k seq i c r = s.setCyl k { s.cyl k with event := some (e.ended i c r) } := by
  unfold State.endInEvent
  rw [State.modPulse_of he hq]
  refine (State.modEvent_of (by rw [State.cyl_setCyl]) (by exact hq) _).trans ?_
  simp only [State.setCyl, State.setCyls, State.cyl, Eight.get_set_same, Eight.set_set]
  rfl

/-- After the drops an end makes every pulse of the event past, where it ends the only ACTIVE one. -/
theorem Event.ended_past {e : Event} {i : Nat} {c : PulseCond} (hc : c = .quench ∨ c = .resolved)
    (hi : ∀ q ∈ e.pulses, q.cond = .active → q.plan.index = i) (t : Time) (r : PulseResult) :
    ∀ p ∈ ((e.dropped t .overrunDrop).ended i c r).pulses, p.past := by
  intro p hp
  obtain ⟨q, hq, rfl⟩ := List.mem_map.1 hp
  split
  · exact hc
  · rename_i hne
    exact (e.dropped_past _ _ q hq).resolve_right fun ⟨ha, hm⟩ => hne (hi q hm ha)

/-- With no pulse left to drop, the drive cap drops none: no conflict is counted. -/
theorem Past.capCheck_same (h : Past k e none s) (seq : Word) (x : PulseOutcome) :
    (s.capCheck k seq x).cyl k = s.cyl k ∧ ∀ bk, (s.capCheck k seq x).bank bk = s.bank bk := by
  have hw : ∀ bk, (s.bank bk).withdraw (· == k) = s.bank bk := fun bk => by
    have hf : (s.bank bk).waiting.filter (fun r => !(r.cyl == k)) = (s.bank bk).waiting :=
      List.filter_eq_self.2 fun r hr => by simpa using h.unlisted.2.2 bk r hr
    simp [Bank.withdraw, hf]
  unfold State.capCheck State.eventOf
  cases hd : (s.cyl k).event with
  | none => exact ⟨rfl, fun _ => rfl⟩
  | some d =>
    obtain ⟨hn, -⟩ | ⟨-, d', hd', -, -, hpast⟩ := h.cyl
    · cases hd.symm.trans hn
    obtain rfl : d = d' := Option.some.inj (hd.symm.trans hd')
    have hnot : ∀ p ∈ d.pulses, p.cond.droppable = false := fun p hp => by
      rcases hpast p hp with hc | hc <;> rw [hc] <;> rfl
    have hzero : d.droppable = 0 := by
      simp only [Event.droppable, List.length_eq_zero_iff, List.filter_eq_nil_iff]
      exact fun p hp => by simp [hnot p hp]
    have hdrop : d.dropped s.now .capDrop = d := by
      unfold Event.dropped
      rw [← funext (Pulse.drop_eq_dropped s.now .capDrop),
        List.map_congr_left fun p hp => show p.drop s.now .capDrop = id p by simp [Pulse.drop, hnot p hp], List.map_id]
    dsimp only
    by_cases hq : d.seq = seq
    · rw [if_pos hq]
      dsimp only
      split
      · unfold State.dropCapped
        rw [hzero]
        refine ⟨?_, fun bk => (s.withdraw_bank _ _ bk).trans (hw bk)⟩
        show (s.withdraw (· == k) .capDrop).cyl k = s.cyl k
        rw [State.withdraw_cyl hd, hdrop, ← hd]
      · exact ⟨rfl, fun _ => rfl⟩
    · rw [if_neg hq]
      exact ⟨rfl, fun _ => rfl⟩

/-- A played pulse of an event, ended before its quench begins: the bank in QUENCH, the event with the results (R113). -/
theorem State.fixEnd_event {bk : BankId} {p : Player} {i : Nat} {kind : Kind} {d : Bool} (hj : p.job = .event e.seq i kind d)
    (he : (s.cyl p.cyl).event = some e) (o : PulseOutcome) :
    s.fixEnd bk p o =
      { s with
        banks := s.banks.set bk { s.bank bk with
          mode := .quench
          channel := some { p with cond := .quench, phaseTimer := none, result := some (p.resultAt o s.now) }
          boostEnd := if p.cond.boostGate then some s.now else (s.bank bk).boostEnd
          capAt := none }
        cyls := s.cyls.set p.cyl { s.cyl p.cyl with event := some (e.ended i .quench (p.resultAt o s.now)) }
        mem := s.mem.mirror s.sb.live [(0x240 + 8 * bk.index, BitVec.ofNat 16 BankMode.quench.code)] } := by
  unfold State.fixEnd State.reportEnd
  rw [hj, State.setMode_eq, State.bank_setBank]
  refine (State.endInEvent_of (by exact he) rfl _ _ _).trans ?_
  simp only [State.setBank, State.setBanks, State.setCyl, State.setCyls, State.cyl, Four.set_set]

/-- A quench that begins with its current not below QUENCH_LEVEL runs on (R115). -/
theorem State.startQuench_runs {bk : BankId} {p : Player} (hp : (s.bank bk).channel = some p)
    (hc : p.quenchLevel ≤ (s.pins.sense.get bk).current.toNat) :
    s.startQuench bk =
      s.setBank bk { s.bank bk with channel := some { p with quenchAt := some (Time.add s.now p.quenchMax) } } := by
  have hlevel : senseUnder (s.pins.sense.get bk) p.quenchLevel = false := decide_eq_false (Nat.not_lt.2 hc)
  unfold State.startQuench State.quenchStanding State.senseOf
  rw [hp]
  dsimp only
  rw [State.setBank_pins, hlevel]
  rfl

theorem Past.of_event {d : Event} (hd : (s.cyl k).event = some d) (hs : d.source = e.source) (hq : d.seq = e.seq)
    (hp : ∀ q ∈ d.pulses, q.past) (hun : s.unlisted k) : Past k e none s := ⟨.inr ⟨rfl, d, hd, hs, hq, hp⟩, hun⟩

/-- A bank changed in its other items leaves the lists. -/
theorem State.unlisted.of_set {t : State} {bk : BankId} {x : Bank} (h : s.unlisted k) (ha : t.arm = s.arm)
    (hb : t.banks = s.banks.set bk x) (hx : x.waiting = (s.bank bk).waiting) : t.unlisted k := by
  obtain ⟨hp, hq, hw⟩ := h
  refine ⟨by rwa [ha], by rwa [ha], fun j r hr => ?_⟩
  rw [State.bank, hb] at hr
  by_cases hj : j = bk
  · subst hj
    rw [Four.get_set_same, hx] at hr
    exact hw j r hr
  · rw [Four.get_set_ne _ _ hj] at hr
    exact hw j r hr

theorem State.clearFaults_event (s : State) (k : CylId) : ((s.clearFaults k).cyl k).event = (s.cyl k).event := by
  unfold State.clearFaults
  dsimp only
  rw [State.statusAll_eq]
  exact (congrArg Cylinder.event (State.cyl_setCyl s k { s.cyl k with faults := 0 })).trans rfl

/-- A played pulse of an event, the only one of it not past, ends TRUNCATED: its bank goes to QUENCH, and its event has the results
(R42, R113, R115). -/
theorem State.endPlayed_event {bk : BankId} {p : Player} {i : Nat} {kind : Kind} {d : Bool}
    (h : Playing s bk p (s.pins.sense.get bk)) (hj : p.job = .event e.seq i kind d) (he : (s.cyl p.cyl).event = some e)
    (hun : s.unlisted p.cyl) (hpast : ∀ q ∈ (e.ended i .quench (p.resultAt .truncated s.now)).pulses, q.past) :
    Past p.cyl e none (s.endPlayed bk .truncated)
      ∧ ((s.endPlayed bk .truncated).cyl p.cyl).event = some (e.ended i .quench (p.resultAt .truncated s.now))
      ∧ (s.endPlayed bk .truncated).bank bk = (s.bank bk).ended p .truncated s.now := by
  let v : State := (s.fixEnd bk p .truncated).clearFaults p.cyl
  let w : State := v.capCheck p.cyl e.seq .truncated
  have hfix := State.fixEnd_event (s := s) (bk := bk) hj he .truncated
  have hdown : Downstream s w := (((Downstream.refl s).fixEnd bk p .truncated).clearFaults p.cyl).capCheck _ _ _
  have hfe : ((s.fixEnd bk p .truncated).cyl p.cyl).event = some (e.ended i .quench (p.resultAt .truncated s.now)) := by
    rw [hfix, State.cyl, Eight.get_set_same]
  have hv : Past p.cyl e none v := by
    refine Past.clearFaults (Past.of_event (e := e) hfe rfl rfl hpast ?_) _
    exact State.unlisted.of_set hun ((congrArg State.arm hfix).trans rfl) ((congrArg State.banks hfix).trans rfl) rfl
  obtain ⟨hcyl, hbank⟩ := hv.capCheck_same e.seq .truncated
  have hvb : v.bank bk = (s.fixEnd bk p .truncated).bank bk := by simp only [State.bank, State.clearFaults_banks, v]
  have hve : (v.cyl p.cyl).event = some (e.ended i .quench (p.resultAt .truncated s.now)) :=
    (State.clearFaults_event _ _).trans hfe
  have hwb : w.bank bk =
      { s.bank bk with
        mode := .quench
        channel := some { p with cond := .quench, phaseTimer := none, result := some (p.resultAt .truncated s.now) }
        boostEnd := if p.cond.boostGate then some s.now else (s.bank bk).boostEnd
        capAt := none } := by
    rw [hbank bk, hvb, hfix, State.bank, Four.get_set_same]
  have hrun : w.startQuench bk = w.setBank bk ((s.bank bk).ended p .truncated s.now) := by
    rw [State.startQuench_runs (by rw [hwb]) (by rw [hdown.pins]; exact h.current), hwb, hdown.now]
    rfl
  have hstop : s.stopPlayed bk .truncated = w.setBank bk ((s.bank bk).ended p .truncated s.now) := by
    unfold State.stopPlayed
    rw [h.channel]
    dsimp only
    rw [if_neg h.phase, ← hrun]
    simp only [State.capPlayed, hj]
    rfl
  have hend : s.endPlayed bk .truncated = w.setBank bk ((s.bank bk).ended p .truncated s.now) := by
    unfold State.endPlayed
    rw [h.channel]
    dsimp only
    rw [hstop, if_neg (by simp [Bank.ended])]
  rw [hend]
  refine ⟨(hv.capCheck _ _ _).setBank bk fun r hr => ?_, (congrArg Cylinder.event hcyl).trans hve, State.bank_setBank _ _ _⟩
  rw [hwb]
  exact hr

/-- The dry holder of an event, its only pulse not past, ends TRUNCATED: with nobody waiting its bank releases, and its event is judged
with the results (R42, R98). -/
theorem State.endDry_event {bk : BankId} {g : Holder} {i : Nat} {kind : Kind} {d : Bool} {r : PulseResult}
    (hj : g.job = .event e.seq i kind d) (he : (s.cyl g.cyl).event = some e) (hun : s.unlisted g.cyl)
    (hw : (s.bank bk).waiting = []) (hr : r = ⟨.truncated, Time.since s.now g.grantedAt, 0, false⟩)
    (hpast : ∀ q ∈ (e.ended i .resolved r).pulses, q.past) :
    Past g.cyl e none (s.endDry bk g .truncated)
      ∧ (s.endDry bk g .truncated).cyl g.cyl = Cylinder.settled { s.cyl g.cyl with event := some (e.ended i .resolved r) }
      ∧ ∃ x : Option Time, (s.endDry bk g .truncated).bank bk = { s.bank bk with
          capAt := none, dryEndAt := none, mode := .settling, holder := none, releaseAt := some s.now, settleAt := x
          headAt := none } := by
  let b : State := s.setBank bk { s.bank bk with capAt := none, dryEndAt := none }
  let v : State := b.setCyl g.cyl { s.cyl g.cyl with event := some (e.ended i .resolved r) }
  let w : State := v.capCheck g.cyl e.seq .truncated
  have hv : Past g.cyl e none v := by
    refine Past.of_event (congrArg Cylinder.event (State.cyl_setCyl b g.cyl _)) rfl rfl hpast ?_
    exact State.unlisted.of_set hun rfl rfl rfl
  obtain ⟨hcyl, hbank⟩ := hv.capCheck_same e.seq .truncated
  have hwb : w.bank bk = { s.bank bk with capAt := none, dryEndAt := none } := by
    rw [hbank bk]
    simp [v, b, State.bank]
  have hnow : w.now = s.now := ((Downstream.refl v).capCheck g.cyl e.seq .truncated).now
  have hend : s.endDry bk g .truncated = ((w.release bk).headCheck bk).settle g.cyl := by
    unfold State.endDry State.stopDry
    rw [hj]
    dsimp only
    rw [State.endInEvent_of (s := b) (by exact he) rfl, ← hr]
    rfl
  have hfree : ((w.release bk).headCheck bk).bank bk = { s.bank bk with
      capAt := none, dryEndAt := none, mode := .settling, holder := none, releaseAt := some s.now
      settleAt := (w.bank bk).settleExpiry w.su.trim s.now, headAt := none } := by
    rw [State.headCheck_eq, State.bank_setBank, State.release, State.setMode_eq]
    simp only [State.bank_setBank]
    rw [State.bank, Four.get_set_same, hwb, hnow]
    simp only [Bank.headChecked, Bank.headTimer, hw]
    rfl
  rw [hend]
  refine ⟨(((hv.capCheck _ _ _).release bk).headCheck bk).settle _, ?_, (w.bank bk).settleExpiry w.su.trim s.now, ?_⟩
  · have hrel : ((w.release bk).headCheck bk).cyls = w.cyls := by
      rw [State.headCheck_eq, State.release, State.setMode_eq]
      rfl
    rw [State.cyl, State.settle_cyls, Eight.get_set_same, State.cyl, hrel]
    exact congrArg Cylinder.settled (hcyl.trans (State.cyl_setCyl b g.cyl _))
  · rw [State.bank, State.settle_banks]
    exact hfree

end

/-! ## The obligation -/

/-- The end of an overrun in a bank with no holder and nobody waiting: the bank's head timer at most stops, and the consecutive faults
are kept. -/
theorem State.overrunEnd_empty {bk : BankId} (hh : (s.bank bk).holder = none) (hw : (s.bank bk).waiting = []) (k : CylId)
    (seq : Word) (old : Option Request) :
    (∃ x, (s.overrunEnd bk k seq old).bank bk = { s.bank bk with headAt := x })
      ∧ ((s.overrunEnd bk k seq old).cyl k).faults = (s.cyl k).faults := by
  let v : State := (s.modEvent k seq Event.resolveQuench).settle k
  have hb : v.bank bk = s.bank bk := by simp only [v, State.bank, State.settle_banks, State.modEvent_banks]
  have hf : (v.cyl k).faults = (s.cyl k).faults := by
    have hm : ((s.modEvent k seq Event.resolveQuench).cyl k).faults = (s.cyl k).faults := by
      unfold State.modEvent
      split
      · split
        · rw [State.cyl_setCyl]
        · rfl
      · rfl
    simp only [v]
    rw [State.cyl, State.settle_cyls, Eight.get_set_same, Cylinder.settled_faults, hm]
  show (∃ x, (v.recheck bk old).bank bk = _) ∧ ((v.recheck bk old).cyl k).faults = _
  unfold State.recheck
  split
  · exact ⟨⟨(s.bank bk).headAt, hb⟩, hf⟩
  · have hg : v.grantCheck bk = v.setBank bk { v.bank bk with headAt := none } := by
      unfold State.grantCheck
      dsimp only
      rw [if_neg (by simp [hb, hh]), hb, hw]
    rw [hg, State.bank_setBank, hb]
    exact ⟨⟨none, rfl⟩, hf⟩

/-- A bank that the cylinder's requests have left keeps what holds it. -/
theorem State.withdraw_playing {bk : BankId} {p : Player} {k : CylId} {o : PulseOutcome}
    (h : Playing s bk p (s.pins.sense.get bk)) :
    Playing (s.withdraw (· == k) o) bk p ((s.withdraw (· == k) o).pins.sense.get bk) :=
  ⟨by rw [State.withdraw_bank]; exact h.channel, h.phase, h.current⟩

/-- Settles O26. After its drops the overrun event is past, or becomes so when its ACTIVE holder is ended, and past events leave the
table with their verdict (`Past.overrunEnd`). -/
theorem overrun : Obligations.Overrun := by
  intro s k e bk he hbk hok y hy
  let d : State := s.withdraw (· == k) .overrunDrop
  let old := (s.bank bk).waiting.head?
  have hy : y = (d.truncateOwn bk k e.seq).overrunEnd bk k e.seq old := by
    rw [hy, State.overrun_eq he, ← hbk]
  have hde : (d.cyl k).event = some (e.dropped s.now .overrunDrop) := by rw [State.withdraw_cyl he]
  have hdb : d.bank bk = (s.bank bk).withdraw (· == k) := s.withdraw_bank _ _ _
  have hun : d.unlisted k := s.withdraw_unlisted k _
  refine ⟨?_, fun hna hq => ?_, fun p i kind g hp hg hm hj hk hi => ?_, fun g i kind hg hm hj hk hi hw => ?_⟩
  · by_cases hna : ∃ p ∈ e.pulses, p.cond = .active
    · exact .inr hna
    · have hpast : Past k e none d := Past.of_withdraw he fun p hp hc => hna ⟨p, hp, hc⟩
      have hend := (hpast.truncateOwn bk k e.seq).overrunEnd bk old
      obtain ⟨hn, hs, hq, -⟩ := hend.left
      rw [hy]
      exact .inl ⟨hn, hend.unlisted, hs, hq⟩
  · have hown : d.truncateOwn bk k e.seq = d := State.truncateOwn_quench (by rw [hdb]; exact hq)
    have hpast : Past k e none d := Past.of_withdraw he hna
    obtain ⟨-, -, -, ho⟩ := (hpast.overrunEnd bk old).left
    rw [hy, hown]
    refine ⟨by rw [ho, Cylinder.verdict, hde], fun hh => ?_⟩
    rw [State.overrunEnd_held (by rw [hdb]; exact hh), hdb]
    exact ⟨rfl, rfl, rfl⟩
  · obtain ⟨⟨g', hg', hgk, hgj, -⟩, -⟩ := (hok bk).2.1 p hp.channel
    obtain rfl : g = g' := Option.some.inj (hg.symm.trans hg')
    have hown : d.truncateOwn bk k e.seq = d.endPlayed bk .truncated :=
      State.truncateOwn_active (d := false) (by rw [hdb]; exact hg) (by rw [hdb]; exact hm) (hgj.trans hj) (hgk.trans hk)
    subst hk
    obtain ⟨hpast, hev, hbank⟩ := State.endPlayed_event (e := e.dropped s.now .overrunDrop) (State.withdraw_playing hp) hj hde hun
      (Event.ended_past (.inl rfl) hi _ _)
    have hend := hpast.overrunEnd bk old
    obtain ⟨hn, -, hq, ho⟩ := hend.left
    rw [hy, hown]
    refine ⟨hn, hend.unlisted, ?_⟩
    rw [State.overrunEnd_held (by rw [hbank, hdb]; exact Option.isSome_iff_exists.2 ⟨g, hg⟩), hbank, hdb]
    refine ⟨rfl, hg, rfl, rfl, hq, ho.trans ?_⟩
    rw [Cylinder.verdict, hev]
    exact congrArg some (Event.ended_outcome _ _ _ _ _)
  · have hown : d.truncateOwn bk k e.seq = d.endDry bk g .truncated :=
      State.truncateOwn_active (d := true) (by rw [hdb]; exact hg) (by rw [hdb]; exact hm) hj hk
    subst hk
    have hempty : (d.bank bk).waiting = [] := by
      rw [hdb]
      exact List.filter_eq_nil_iff.2 fun r hr => by simp [hw r hr]
    obtain ⟨hpast, hcyl, x, hbank⟩ := State.endDry_event (e := e.dropped s.now .overrunDrop) hj hde hun hempty rfl
      (Event.ended_past (.inr rfl) hi _ _)
    have hend := hpast.overrunEnd bk old
    obtain ⟨hn, hs, hq, ho⟩ := hend.left
    obtain ⟨⟨z, hz⟩, hf⟩ := State.overrunEnd_empty (s := d.endDry bk g .truncated) (bk := bk) (by rw [hbank])
      (by rw [hbank]; exact hempty) g.cyl e.seq old
    rw [hy, hown]
    refine ⟨hn, hend.unlisted, ?_⟩
    rw [hz, hbank, hdb, hf, hcyl]
    refine ⟨rfl, rfl, rfl, rfl, rfl, ?_, hs, hq, ho.trans ?_⟩
    · rw [Cylinder.settled_faults, State.withdraw_cyl he]
    · rw [hcyl, Cylinder.settled_verdict]
      rfl

end Sys2Proof.Machine

/-! # The hold counts within HOLD_LIMIT

Behind the latch nothing changes a hold count or the trim in force. At the latch a fallback raises the count of a cylinder only
while it lies below HOLD_LIMIT, a trim copy ends by limiting every count, and a LOAD and the resets clear them (R51, R54). There is
one lemma for each operation, in the order of the model's files. -/

namespace Sys2Proof.Machine

variable {s u : State}

/-! ## What the limit speaks of -/

/-- The limit speaks of the cylinders and the setup unit alone. -/
theorem State.holdsOk.congr (h : s.holdsOk) (hc : u.cyls = s.cyls) (hs : u.su = s.su) : u.holdsOk := by
  unfold State.holdsOk State.cyl at *
  rw [hc, hs]
  exact h

/-- One cylinder changed, its hold count within the limit. -/
theorem State.holdsOk.setCyl_le (h : u.holdsOk) (k : CylId) {x : Cylinder} (hx : x.holdCount ≤ u.su.trim.holdLimit) :
    (u.setCyl k x).holdsOk := fun j => by
  by_cases hj : j = k
  · subst hj
    rw [State.cyl_setCyl]
    exact hx
  · rw [State.cyl_setCyl_ne _ _ hj]
    exact h j

/-- One cylinder changed in its other items. -/
theorem State.holdsOk.setCyl (h : u.holdsOk) (k : CylId) {x : Cylinder} (hx : x.holdCount = (u.cyl k).holdCount) :
    (u.setCyl k x).holdsOk := h.setCyl_le k (hx ▸ h k)

/-- Every cylinder changed in its other items. -/
theorem State.holdsOk.mapCyls (h : u.holdsOk) {f : CylId → Cylinder → Cylinder}
    (hf : ∀ k c, (f k c).holdCount = c.holdCount) : (u.setCyls (u.cyls.map f)).holdsOk := fun k => by
  simp only [State.cyl, State.setCyls_cyls, Eight.get_map, hf]
  exact h k

/-- With every hold count at its reset value any limit is kept. -/
theorem State.holdsOk_of_reset (h : u.cyls = .fill .reset) : u.holdsOk := fun k => by
  rw [State.cyl, h]
  cases k <;> exact Nat.zero_le _

theorem State.holdsOk.setArm (h : u.holdsOk) (x : Arming) : (u.setArm x).holdsOk := h
theorem State.holdsOk.setBanks (h : u.holdsOk) (x : Four Bank) : (u.setBanks x).holdsOk := h
theorem State.holdsOk.setBank (h : u.holdsOk) (bk : BankId) (x : Bank) : (u.setBank bk x).holdsOk := h
theorem State.holdsOk.setSb (h : u.holdsOk) (x : StatusOwner) : (u.setSb x).holdsOk := h
theorem State.holdsOk.setCtl (h : u.holdsOk) (x : Control) : (u.setCtl x).holdsOk := h
theorem State.holdsOk.setTrk (h : u.holdsOk) (x : Tracker) : (u.setTrk x).holdsOk := h
theorem State.holdsOk.setLatch (h : u.holdsOk) (x : Latch) : (u.setLatch x).holdsOk := h
theorem State.holdsOk.setFreeCount (h : u.holdsOk) (n : Nat) : (u.setFreeCount n).holdsOk := h
theorem State.holdsOk.setNow (h : u.holdsOk) (t : Time) : (u.setNow t).holdsOk := h
theorem State.holdsOk.setMem (h : u.holdsOk) (x : Memory) : (u.setMem x).holdsOk := h
theorem State.holdsOk.setPins (h : u.holdsOk) (x : Pins) : (u.setPins x).holdsOk := h
theorem State.holdsOk.raise (h : u.holdsOk) (f : Flag) : (u.raise f).holdsOk := h
theorem State.holdsOk.expire (h : u.holdsOk) (t : Time) (bk : BankId) (x : BankSense) : (u.expire t bk x).holdsOk := h

theorem State.holdsOk.statusAll (h : u.holdsOk) (l : List (Nat × Word)) : (u.statusAll l).holdsOk := by
  rw [State.statusAll_eq]
  exact h

theorem State.holdsOk.status (h : u.holdsOk) (off : Nat) (w : Word) : (u.status off w).holdsOk := by
  rw [State.status_eq]
  exact h

/-- A fold keeps the limit where each of its steps does. -/
theorem State.holdsOk.foldl {α : Type} {f : State → α → State} (hf : ∀ u a, u.holdsOk → (f u a).holdsOk) (l : List α)
    (h : u.holdsOk) : (l.foldl f u).holdsOk :=
  List.foldlRecOn (motive := State.holdsOk) l f h fun t ht a _ => hf t a ht

/-- What touches the ring, the latch's items and the flags alone. -/
theorem State.holdsOk.ringOnly (h : s.holdsOk) (hr : RingOnly s u) : u.holdsOk := by
  rw [show u = _ from hr]
  exact h

/-! ## Events -/

theorem State.holdsOk.changeRun (h : u.holdsOk) (r : RunState) : (u.changeRun r).holdsOk := (h.setCtl _).raise _

theorem State.holdsOk.checkStopped (h : u.holdsOk) : u.checkStopped.holdsOk :=
  h.congr u.checkStopped_cyls (Downstream.refl u).checkStopped.su

theorem State.holdsOk.modEvent (h : u.holdsOk) (k : CylId) (seq : Word) (f : Event → Event) : (u.modEvent k seq f).holdsOk := by
  unfold State.modEvent
  split
  · split
    · exact h.setCyl k rfl
    · exact h
  · exact h

theorem State.holdsOk.modPulse (h : u.holdsOk) (k : CylId) (seq : Word) (index : Nat) (f : Pulse → Pulse) :
    (u.modPulse k seq index f).holdsOk := h.modEvent _ _ _

theorem State.holdsOk.withdraw (h : u.holdsOk) (reach : CylId → Bool) (o : PulseOutcome) : (u.withdraw reach o).holdsOk := by
  have hdrop : ∀ (k : CylId) (c : Cylinder), (if reach k then c.dropPulses u.now o else c).holdCount = c.holdCount :=
    fun k c => by split <;> rfl
  exact ((h.mapCyls hdrop).setArm _).setBanks _

theorem State.holdsOk.conflict (h : u.holdsOk) (bk : BankId) : (u.conflict bk).holdsOk :=
  ((h.setBank _ _).statusAll _).raise _

theorem State.holdsOk.conflicts (bk : BankId) (n : Nat) : ∀ {u : State}, u.holdsOk → (u.conflicts bk n).holdsOk := by
  induction n with
  | zero => exact fun h => h
  | succ n ih => exact fun h => ih (h.conflict bk)

theorem State.holdsOk.closeEntry (h : u.holdsOk) (k : CylId) (src : Source) (o : EventOutcome) (seq : Word) :
    (u.closeEntry k src o seq).holdsOk :=
  (h.setCyl k (x := { u.cyl k with lastSource := src, lastOutcome := some o, lastSeq := seq }) rfl).statusAll _

theorem State.holdsOk.notifyDone (h : u.holdsOk) (n : Bool) : (u.notifyDone n).holdsOk := by
  rw [State.notifyDone_eq]
  exact h

theorem State.holdsOk.report (h : u.holdsOk) (k : CylId) (e : Event) : (u.report k e).holdsOk := by
  rw [State.report_eq]
  exact h.setCyl k (x := (u.cyl k).reported e) rfl

theorem State.holdsOk.settle (h : u.holdsOk) (k : CylId) : (u.settle k).holdsOk := by
  have hcount : (u.cyl k).settled.holdCount = (u.cyl k).holdCount := by
    unfold Cylinder.settled
    split
    · split <;> rfl
    · rfl
  exact (h.setCyl k hcount).congr (u.settle_cyls k) ((Downstream.refl u).settle k).su

theorem State.holdsOk.settleAll (h : u.holdsOk) : u.settleAll.holdsOk := .foldl (fun _ k g => g.settle k) _ h

/-! ## Channels -/

theorem State.holdsOk.setMode (h : u.holdsOk) (bk : BankId) (m : BankMode) : (u.setMode bk m).holdsOk :=
  (h.setBank _ _).statusAll _

theorem State.holdsOk.headCheck (h : u.holdsOk) (bk : BankId) : (u.headCheck bk).holdsOk := by
  unfold State.headCheck
  dsimp only
  split
  · exact h.setBank _ _
  · exact h

theorem State.holdsOk.release (h : u.holdsOk) (bk : BankId) : (u.release bk).holdsOk := (h.setBank _ _).setMode _ _

theorem State.holdsOk.clearFaults (h : u.holdsOk) (k : CylId) : (u.clearFaults k).holdsOk :=
  (h.setCyl k (x := { u.cyl k with faults := 0 }) rfl).statusAll _

theorem State.holdsOk.quarantine (h : u.holdsOk) (k : CylId) : (u.quarantine k).holdsOk :=
  (((h.setCyl k (x := { u.cyl k with quarantined := true }) rfl).statusAll _).raise _).withdraw _ _

theorem State.holdsOk.quarantineTest (h : u.holdsOk) (k : CylId) : (u.quarantineTest k).holdsOk := by
  unfold State.quarantineTest
  split
  · exact h.quarantine k
  · exact h

theorem State.holdsOk.countFault (h : u.holdsOk) (k : CylId) : (u.countFault k).holdsOk :=
  (((h.setCyl k (x := { u.cyl k with faults := (u.cyl k).faults + 1, faultTotal := satCount (u.cyl k).faultTotal })
    rfl).statusAll _).raise _).quarantineTest _

theorem State.holdsOk.countEnd (h : u.holdsOk) (k : CylId) (o : PulseOutcome) : (u.countEnd k o).holdsOk := by
  unfold State.countEnd
  split
  · exact h.countFault k
  · exact h.clearFaults k

theorem State.holdsOk.capCheck (h : u.holdsOk) (k : CylId) (seq : Word) (o : PulseOutcome) : (u.capCheck k seq o).holdsOk := by
  unfold State.capCheck
  split
  · split
    · exact .conflicts _ _ (h.withdraw _ _)
    · exact h
  · exact h

theorem State.holdsOk.endInEvent (h : u.holdsOk) (k : CylId) (seq : Word) (index : Nat) (c : PulseCond) (r : PulseResult) :
    (u.endInEvent k seq index c r).holdsOk := (h.modPulse _ _ _ _).modEvent _ _ _

theorem State.holdsOk.serviceResult (h : u.holdsOk) (p : Player) : (u.serviceResult p).holdsOk := by
  unfold State.serviceResult
  split
  · exact ((h.setSb _).statusAll _).raise _
  · exact h

theorem State.holdsOk.freeBank (h : u.holdsOk) (bk : BankId) : (u.freeBank bk).holdsOk := (h.setBank _ _).release _

theorem State.holdsOk.quenchOver (h : u.holdsOk) (bk : BankId) : (u.quenchOver bk).holdsOk := by
  unfold State.quenchOver
  split
  · exact h
  · split
    · exact ((h.serviceResult _).freeBank _).headCheck _
    · exact ((h.freeBank _).modPulse _ _ _ _).headCheck _

theorem State.holdsOk.judge (h : u.holdsOk) (p : Player) : (u.judge p).holdsOk := by
  unfold State.judge
  split
  · exact h.settle _
  · exact h

theorem State.holdsOk.quenchEnd (h : u.holdsOk) (bk : BankId) : (u.quenchEnd bk).holdsOk := by
  unfold State.quenchEnd
  split
  · exact h
  · exact (h.quenchOver _).judge _

theorem State.holdsOk.quenchStanding (h : u.holdsOk) (bk : BankId) (level : Nat) : (u.quenchStanding bk level).holdsOk := by
  unfold State.quenchStanding
  split
  · exact h.quenchOver _
  · exact h

theorem State.holdsOk.startQuench (h : u.holdsOk) (bk : BankId) : (u.startQuench bk).holdsOk := by
  unfold State.startQuench
  split
  · exact h
  · exact (h.setBank _ _).quenchStanding _ _

theorem State.holdsOk.reportEnd (h : u.holdsOk) (p : Player) (r : PulseResult) : (u.reportEnd p r).holdsOk := by
  unfold State.reportEnd
  split
  · exact h.endInEvent _ _ _ _ _
  · exact h

theorem State.holdsOk.fixEnd (h : u.holdsOk) (bk : BankId) (p : Player) (o : PulseOutcome) : (u.fixEnd bk p o).holdsOk :=
  ((h.setBank _ _).setMode _ _).reportEnd _ _

theorem State.holdsOk.capPlayed (h : u.holdsOk) (p : Player) (o : PulseOutcome) : (u.capPlayed p o).holdsOk := by
  unfold State.capPlayed
  split
  · exact h.capCheck _ _ _
  · exact h

theorem State.holdsOk.stopPlayed (h : u.holdsOk) (bk : BankId) (o : PulseOutcome) : (u.stopPlayed bk o).holdsOk := by
  unfold State.stopPlayed
  split
  · exact h
  · split
    · exact h
    · exact (((h.fixEnd _ _ _).countEnd _ _).capPlayed _ _).startQuench _

theorem State.holdsOk.endPlayed (h : u.holdsOk) (bk : BankId) (o : PulseOutcome) : (u.endPlayed bk o).holdsOk := by
  unfold State.endPlayed
  split
  · exact h
  · dsimp only
    split
    · exact (h.stopPlayed _ _).judge _
    · exact h.stopPlayed _ _

theorem State.holdsOk.stopDry (h : u.holdsOk) (bk : BankId) (x : Holder) (o : PulseOutcome) : (u.stopDry bk x o).holdsOk := by
  unfold State.stopDry
  split
  · exact h
  · exact ((((h.setBank _ _).endInEvent _ _ _ _ _).capCheck _ _ _).release _).headCheck _

theorem State.holdsOk.endDry (h : u.holdsOk) (bk : BankId) (x : Holder) (o : PulseOutcome) : (u.endDry bk x o).holdsOk := by
  unfold State.endDry
  split
  · exact h
  · exact (h.stopDry _ _ _).settle _

theorem State.holdsOk.endHolder (h : u.holdsOk) (bk : BankId) (o : PulseOutcome) : (u.endHolder bk o).holdsOk := by
  unfold State.endHolder
  split
  · exact h
  · split
    · split
      · exact h.endDry _ _ _
      · exact h.endPlayed _ _
    · exact h

theorem State.holdsOk.stopHolder (h : u.holdsOk) (bk : BankId) (o : PulseOutcome) : (u.stopHolder bk o).holdsOk := by
  unfold State.stopHolder
  split
  · exact h
  · split
    · split
      · exact h.stopDry _ _ _
      · exact h.stopPlayed _ _
    · exact h

theorem State.holdsOk.countLow (h : u.holdsOk) (bk : BankId) : (u.countLow bk).holdsOk := (h.setBank _ _).statusAll _

theorem State.holdsOk.countBoostLow (bk : BankId) (n : Nat) : ∀ {u : State}, u.holdsOk → (u.countBoostLow bk n).holdsOk := by
  induction n with
  | zero => exact fun h => h
  | succ n ih => exact fun h => ih (h.countLow bk)

theorem State.holdsOk.comeToRest (h : u.holdsOk) (bk : BankId) (p : Player) (stop : PlayStop) :
    (u.comeToRest bk p stop).holdsOk := by
  unfold State.comeToRest
  split
  · exact (h.setBank _ _).endPlayed _ _
  · exact h.setBank _ _

theorem State.holdsOk.enterPhase (h : u.holdsOk) (bk : BankId) (n : Nat) : (u.enterPhase bk n).holdsOk := by
  unfold State.enterPhase
  split
  · exact h
  · exact (State.holdsOk.countBoostLow _ _ (h.setFreeCount _)).comeToRest _ _ _

theorem State.holdsOk.engage (h : u.holdsOk) (bk : BankId) (job : Job) (k : CylId) (profile duration : Nat) :
    (u.engage bk job k profile duration).holdsOk := by
  unfold State.engage
  split
  · exact h
  · exact (h.setBank _ _).enterPhase _ _

theorem State.holdsOk.levelReached (h : u.holdsOk) (bk : BankId) (p : Player) : (u.levelReached bk p).holdsOk :=
  (h.setBank _ _).enterPhase _ _

theorem State.holdsOk.nextPhase (h : u.holdsOk) (bk : BankId) : (u.nextPhase bk).holdsOk := by
  unfold State.nextPhase
  split
  · exact h.enterPhase _ _
  · exact h

theorem State.holdsOk.setHolding (h : u.holdsOk) (bk : BankId) (p : Player) (charging : Bool) :
    (u.setHolding bk p charging).holdsOk := h.setBank _ _

theorem State.holdsOk.upperChange (h : u.holdsOk) (bk : BankId) : (u.upperChange bk).holdsOk := by
  unfold State.upperChange
  split
  · exact h
  · split
    · split
      · exact h.levelReached _ _
      · exact h
    · split
      · exact h.levelReached _ _
      · exact h
    · split
      · exact h.setHolding _ _ _
      · exact h
    · exact h
    · exact h

theorem State.holdsOk.lowerChange (h : u.holdsOk) (bk : BankId) : (u.lowerChange bk).holdsOk := by
  unfold State.lowerChange
  split
  · exact h
  · split
    · split
      · exact h.setHolding _ _ _
      · exact h
    · split
      · exact h.quenchEnd _
      · exact h
    · exact h
    · exact h
    · exact h

theorem State.holdsOk.shortChange (h : u.holdsOk) (bk : BankId) : (u.shortChange bk).holdsOk := by
  unfold State.shortChange
  split
  · exact h
  · split
    · exact h.endPlayed _ _
    · exact h

/-! ## The arbiters -/

theorem State.holdsOk.makeHolder (h : u.holdsOk) (bk : BankId) (r : Request) : (u.makeHolder bk r).holdsOk :=
  ((h.setBank _ _).setMode _ _).modPulse _ _ _ _

theorem State.holdsOk.grant (h : u.holdsOk) (bk : BankId) (r : Request) : (u.grant bk r).holdsOk := by
  unfold State.grant State.drivePulse
  split
  · exact h.makeHolder _ _
  · exact (h.makeHolder _ _).engage _ _ _ _ _

theorem State.holdsOk.grantCheck (h : u.holdsOk) (bk : BankId) : (u.grantCheck bk).holdsOk := by
  unfold State.grantCheck
  dsimp only
  split
  · exact h
  · split
    · exact h.setBank _ _
    · split
      · exact (h.setBank _ _).grant _ _
      · exact h.setBank _ _

theorem State.holdsOk.recheck (h : u.holdsOk) (bk : BankId) (old : Option Request) : (u.recheck bk old).holdsOk := by
  unfold State.recheck
  split
  · exact h
  · exact h.grantCheck _

theorem State.holdsOk.slipDrop (h : u.holdsOk) (bk : BankId) (r : Request) (crowded : Bool) (t : Time) :
    (u.slipDrop bk r crowded t).holdsOk := ((h.modPulse _ _ _ _).conflict _).settle _

theorem State.holdsOk.enterList (h : u.holdsOk) (bk : BankId) (r : Request) : (u.enterList bk r).holdsOk :=
  (h.setBank _ _).modPulse _ _ _ _

theorem State.holdsOk.crowd (h : u.holdsOk) (bk : BankId) : (u.crowd bk).holdsOk := by
  unfold State.crowd
  split
  · exact (h.setBank _ _).slipDrop _ _ _ _
  · exact h

theorem State.holdsOk.join (h : u.holdsOk) (bk : BankId) (r : Request) : (u.join bk r).holdsOk :=
  ((h.enterList _ _).crowd _).grantCheck _

theorem State.holdsOk.request (h : u.holdsOk) (bk : BankId) (r : Request) : (u.request bk r).holdsOk := by
  unfold State.request
  split
  · exact ((h.endHolder _ _).conflict _).join _ _
  · split
    · exact h.grant _ _
    · exact h.join _ _

/-! ## The arming unit -/

theorem State.holdsOk.resolveHeld (h : u.holdsOk) (k : CylId) (seq : Word) (index : Nat) (o : PulseOutcome) :
    (u.resolveHeld k seq index o).holdsOk := h.modPulse _ _ _ _

theorem State.holdsOk.present (h : u.holdsOk) (a : ArmedEntry) : (u.present a).holdsOk := by
  unfold State.present
  split
  · split
    · split
      · exact h.request _ _
      · exact h
    · exact h
  · exact h

theorem State.holdsOk.markLate (h : u.holdsOk) (a : ArmedEntry) : (u.markLate a).holdsOk := h.modPulse _ _ _ _

theorem State.holdsOk.armPulse (h : u.holdsOk) (e : ArmEntry) (start : Time) : (u.armPulse e start).holdsOk :=
  (h.setArm _).modPulse _ _ _ _

theorem State.holdsOk.lateAt {acc : State × List ArmedEntry} (h : acc.1.holdsOk) (v : EdgeView) (a : ArmedEntry) :
    (State.lateAt v a acc).1.holdsOk := by
  unfold State.lateAt
  split
  · exact h.markLate _
  · exact (((h.markLate _).resolveHeld _ _ _ _).conflict _).settle _

theorem State.holdsOk.reread (h : u.holdsOk) (k : CylId) (seq : Word) : (u.reread k seq).holdsOk := by
  unfold State.reread
  split
  · split
    · exact h.setMem _
    · exact h
  · exact h

theorem State.holdsOk.armRead {acc : State × List ArmedEntry} (h : acc.1.holdsOk) (x : Setup) (v : EdgeView) (e : ArmEntry) :
    (State.armRead x v e acc).1.holdsOk := by
  unfold State.armRead
  split
  · exact (h.resolveHeld _ _ _ _).settle _
  · split
    · exact h.armPulse _ _
    · exact h.lateAt _ _

theorem State.holdsOk.armStep {acc : State × List ArmedEntry} (h : acc.1.holdsOk) (x : Setup) (v : EdgeView) (e : ArmEntry) :
    (State.armStep x v acc e).1.holdsOk := by
  unfold State.armStep
  split
  · exact State.holdsOk.armRead (acc := (_, _)) ((h.setArm _).reread _ _) _ _ _
  · exact h

theorem State.holdsOk.armAll (h : u.holdsOk) (x : Setup) (v : EdgeView) : (u.armAll x v).holdsOk := by
  have harm : (u.arm.pendingList.foldl (State.armStep x v) (u, [])).1.holdsOk :=
    List.foldlRecOn (motive := fun acc : State × List ArmedEntry => acc.1.holdsOk) _ _ h fun _ g e _ => g.armStep x v e
  exact .foldl (fun _ a g => g.present a) _ harm

theorem State.holdsOk.startPulse (h : u.holdsOk) (a : ArmedEntry) : (u.startPulse a).holdsOk := by
  have hread := h.reread a.entry.cyl a.entry.seq
  unfold State.startPulse State.startRead
  split
  · exact (hread.resolveHeld _ _ _ _).settle _
  · exact hread.present _

/-! ## The trim copy -/

/-- Limiting every hold count meets the limit, whatever the counts were (R51). -/
theorem State.limitHolds_holdsOk (s : State) : s.limitHolds.holdsOk := fun k => by
  rw [State.limitHolds_words]
  simp only [State.cyl, Eight.get_map, Cylinder.limited]
  exact Nat.min_le_right _ _

/-- A trim copy ends by limiting the hold counts to the set then in force, good or kept (R51, R157, R158). -/
theorem State.copyTrim_holdsOk (s : State) : s.copyTrim.holdsOk := by
  unfold State.copyTrim State.useTrim
  split <;> exact State.limitHolds_holdsOk _

/-! ## The latch -/

theorem State.holdsOk.setHold (h : u.holdsOk) (k : CylId) {n : Nat} (hn : n ≤ u.su.trim.holdLimit) : (u.setHold k n).holdsOk :=
  (h.setCyl_le k (x := { u.cyl k with holdCount := n }) hn).statusAll _

theorem State.holdsOk.holdTo_zero (h : u.holdsOk) (k : CylId) : (u.holdTo k 0).holdsOk := by
  unfold State.holdTo
  split
  · exact h
  · exact h.setHold k (Nat.zero_le _)

theorem State.holdsOk.setFuel (h : u.holdsOk) (k : CylId) (src : Source) : (u.setFuel k src).holdsOk := h.setCyl k rfl

theorem State.holdsOk.enterFuel (h : u.holdsOk) (k : CylId) (src : Source) : (u.enterFuel k src).holdsOk := by
  unfold State.enterFuel
  split
  · exact (h.setFuel _ _).raise _
  · exact h.setFuel _ _

theorem State.holdsOk.countMiss (h : u.holdsOk) (k : CylId) : (u.countMiss k).holdsOk :=
  ((h.setCyl k (x := { u.cyl k with misses := satCount (u.cyl k).misses }) rfl).statusAll _).raise _

theorem State.holdsOk.placePulse (h : u.holdsOk) (x : Setup) (v : EdgeView) (k : CylId) (e : Event) (p : PulseEntry) :
    (u.placePulse x v k e p).holdsOk := by
  unfold State.placePulse
  dsimp only
  split
  · exact h.resolveHeld _ _ _ _
  · exact h.setArm _

theorem State.holdsOk.enterEvent (h : u.holdsOk) (x : Setup) (v : EdgeView) (k : CylId) (e : Event) :
    (u.enterEvent x v k e).holdsOk := by
  unfold State.enterEvent
  split
  · exact h.report _ _
  · have hin : (u.setCyl k { u.cyl k with event := some e }).holdsOk := h.setCyl k rfl
    exact (State.holdsOk.foldl (fun _ p g => g.placePulse x v k e p) _ hin).settle _

/-- A fallback takes the held plan only while the hold count lies below HOLD_LIMIT (R53). -/
theorem State.fallbackPlan_held {x : Setup} {k : CylId} (hp : (s.fallbackPlan x k).1 = .held) :
    (s.cyl k).holdCount < s.su.trim.holdLimit := by
  unfold State.fallbackPlan at hp
  split at hp
  · split at hp
    · assumption
    · split at hp <;> cases hp
  · split at hp <;> cases hp

/-- So the count that a HELD event adds stays within it (R54). -/
theorem State.holdsOk.useHeld (h : u.holdsOk) (x : Setup) (k : CylId) : (u.useHeld k (u.fallbackPlan x k).1).holdsOk := by
  unfold State.useHeld
  split
  · rename_i hp
    exact h.setHold k (State.fallbackPlan_held hp)
  · exact h

theorem State.holdsOk.fallBack (h : u.holdsOk) (x : Setup) (w : EdgeView) (v : LatchView) : (u.fallBack x w v).holdsOk :=
  (((h.countMiss v.cyl).useHeld x v.cyl).enterFuel _ _).enterEvent _ _ _ _

theorem State.holdsOk.takeEvent (h : u.holdsOk) (x : Setup) (w : EdgeView) (k : CylId) (e : Event) :
    (u.takeEvent x w k e).holdsOk := by
  have hheld : (u.holdPlan k (e.pulses.map Pulse.plan)).holdsOk := h.setCyl k rfl
  exact (hheld.holdTo_zero k).enterEvent _ _ _ _

theorem State.holdsOk.closedEvent (h : u.holdsOk) (v : LatchView) (o : EventOutcome) (notify : Bool) :
    (u.closedEvent v o notify).holdsOk := by
  have hclear : (u.clearHold v.cyl o).holdsOk := by
    unfold State.clearHold
    split
    · exact h.holdTo_zero _
    · exact h
  have hfuel : ((u.clearHold v.cyl o).planFuel v).holdsOk := by
    unfold State.planFuel
    split
    · exact hclear.setFuel _ _
    · exact hclear
  exact (hfuel.closeEntry _ _ _ _).notifyDone _

theorem State.holdsOk.served (h : u.holdsOk) (x : Setup) (w : EdgeView) (v : LatchView) (out : TakeResult) :
    (u.served x w v out).holdsOk := by
  unfold State.served
  split
  · exact h.takeEvent _ _ _ _
  · exact h.closedEvent _ _ _
  · split
    · exact (h.countMiss _).closeEntry _ _ _ _
    · exact h.fallBack _ _ _

theorem State.holdsOk.serveNext (h : u.holdsOk) (x : Setup) (v : EdgeView) (k : CylId) (target : Word) :
    (u.serveNext x v k target).holdsOk :=
  ((h.setLatch _).ringOnly (RingOnly.take x _ x.cylCount (.refl _))).served _ _ _ _

theorem State.holdsOk.truncateOwn (h : u.holdsOk) (bk : BankId) (k : CylId) (seq : Word) : (u.truncateOwn bk k seq).holdsOk := by
  unfold State.truncateOwn
  split
  · split
    · exact h.endHolder _ _
    · exact h
  · exact h

theorem State.holdsOk.overrun (h : u.holdsOk) (k : CylId) : (u.overrun k).holdsOk := by
  unfold State.overrun
  split
  · exact h
  · exact ((((h.withdraw _ _).truncateOwn _ _ _).modEvent _ _ _).settle _).recheck _ _

theorem State.holdsOk.closeLatch (h : u.holdsOk) (k : CylId) (target : Word) : (u.closeLatch k target).holdsOk := by
  unfold State.closeLatch
  rw [State.statusAll_eq]
  exact (h.setMem _).setCyl k rfl

theorem State.holdsOk.latchCylinder (h : u.holdsOk) (x : Setup) (v : EdgeView) (p : CylId × Word) :
    (u.latchCylinder x v p).holdsOk := ((((h.overrun _).serveNext _ _ _ _).setMem _).setLatch _).closeLatch _ _

theorem State.holdsOk.latchAll (h : u.holdsOk) (x : Setup) (v : EdgeView) : (u.latchAll x v).holdsOk := by
  have hfresh : (u.freshEntries x v).holdsOk := by
    unfold State.freshEntries
    split
    · exact h.mapCyls fun _ _ => rfl
    · exact h
  unfold State.latchAll
  split
  · exact .foldl (fun _ p g => g.latchCylinder x v p) _ (hfresh.setLatch _)
  · exact h

/-! ## The run controller -/

theorem State.holdsOk.recover (h : u.holdsOk) : u.recover.holdsOk := (h.withdraw _ _).settleAll

theorem State.holdsOk.stopEvent (h : u.holdsOk) : u.stopEvent.holdsOk := (h.setCtl _).checkStopped

theorem State.holdsOk.endCycleMode (h : u.holdsOk) : u.endCycleMode.holdsOk := by
  unfold State.endCycleMode
  split
  · exact h.stopEvent
  · exact h

theorem State.holdsOk.truncateService (h : u.holdsOk) (bk : BankId) : (u.truncateService bk).holdsOk := by
  unfold State.truncateService
  split
  · exact h.endHolder _ _
  · exact h

theorem State.holdsOk.truncateServices (h : u.holdsOk) : u.truncateServices.holdsOk :=
  .foldl (fun _ bk g => g.truncateService bk) _ h

theorem State.holdsOk.truncateHolders (h : u.holdsOk) : u.truncateHolders.holdsOk :=
  .foldl (fun _ bk g => g.stopHolder bk _) _ h

theorem State.holdsOk.stopCut (h : u.holdsOk) : u.stopCut.holdsOk :=
  (((h.setCtl _).withdraw _ _).truncateHolders).settleAll.checkStopped

/-! ## The tracker -/

theorem State.holdsOk.modTrk (h : u.holdsOk) (f : Tracker → Tracker) : (u.modTrk f).holdsOk := h

theorem State.holdsOk.loseSync (h : u.holdsOk) (gap : Bool) : (u.loseSync gap).holdsOk :=
  ((((h.setTrk _).statusAll _).raise _).recover).endCycleMode

theorem State.holdsOk.assumePhase (h : u.holdsOk) (x : Setup) : (u.assumePhase x).holdsOk := by
  unfold State.assumePhase
  split <;> exact h

theorem State.holdsOk.assumeAtEntry (h : u.holdsOk) (x : Setup) : (u.assumeAtEntry x).holdsOk := by
  unfold State.assumeAtEntry
  split
  · exact (h.statusAll _).assumePhase x
  · exact h.assumePhase x

theorem State.holdsOk.countMarkerError (h : u.holdsOk) : u.countMarkerError.holdsOk := (h.setTrk _).status _ _

theorem State.holdsOk.losePhase (h : u.holdsOk) (x : Setup) : (u.losePhase x).holdsOk :=
  (((((h.setTrk _).statusAll _).raise _).recover).endCycleMode).assumePhase x

theorem State.holdsOk.markerError (h : u.holdsOk) (x : Setup) : (u.markerError x).holdsOk := by
  unfold State.markerError State.checkRun
  split
  · exact (h.countMarkerError.modTrk _).losePhase x
  · exact h.countMarkerError.modTrk _

/-- A cycle boundary copies the trim set (R155); what follows the copy keeps the limit, what comes before does not matter. -/
theorem State.cycleBoundary_holdsOk (x : Setup) (s : State) : (s.cycleBoundary x).holdsOk :=
  (State.copyTrim_holdsOk _).endCycleMode

theorem State.holdsOk.trackEdge (h : u.holdsOk) (x : Setup) (j : Judgement) : (u.trackEdge x j).holdsOk := by
  unfold State.trackEdge
  split
  · exact h.modTrk _
  · exact h.modTrk _
  · exact (h.modTrk _).assumeAtEntry x
  · split
    · unfold State.syncedEdge
      split
      · exact State.cycleBoundary_holdsOk _ _
      · exact h.modTrk _
    · exact h.modTrk _
  · exact h.loseSync _

theorem State.holdsOk.fireEdge (h : u.holdsOk) (x : Setup) (r : Bool) : (u.fireEdge x r).holdsOk := by
  unfold State.fireEdge
  split
  · exact (h.latchAll _ _).armAll _ _
  · exact h.modTrk _

theorem State.holdsOk.edgeEvent (h : u.holdsOk) (x : Setup) (r : Bool) : (u.edgeEvent x r).holdsOk :=
  ((h.statusAll _).truncateServices).fireEdge x r

theorem State.holdsOk.acceptEdge (h : u.holdsOk) (x : Setup) (interval : Nat) : (u.acceptEdge x interval).holdsOk :=
  (((h.setTrk _).trackEdge _ _).modTrk _).edgeEvent _ _

theorem State.holdsOk.startTracking (h : u.holdsOk) (x : Setup) : (u.startTracking x).holdsOk := (h.setTrk _).edgeEvent _ _

theorem State.holdsOk.crankTaken (h : u.holdsOk) (x : Setup) : (u.crankTaken x).holdsOk := by
  unfold State.crankTaken
  split
  · exact h.startTracking x
  · split
    · exact h.startTracking x
    · split
      · exact (h.setTrk _).status _ _
      · exact h.acceptEdge _ _

theorem State.holdsOk.phaseSlip (h : u.holdsOk) : u.phaseSlip.holdsOk := (((h.setTrk _).statusAll _).raise _).recover

theorem State.holdsOk.markerUnphased (h : u.holdsOk) (c : MarkerClass) : (u.markerUnphased c).holdsOk := by
  cases c with
  | window => exact ((h.setTrk _).statusAll _).raise _
  | twin => exact ((h.setTrk _).statusAll _).raise _
  | outside => exact h.countMarkerError

theorem State.holdsOk.markerAssumed (h : u.holdsOk) (c : MarkerClass) : (u.markerAssumed c).holdsOk := by
  cases c with
  | window => exact (h.setTrk _).statusAll _
  | twin => exact h.phaseSlip
  | outside => exact h.countMarkerError

theorem State.holdsOk.markerPhased (h : u.holdsOk) (x : Setup) (c : MarkerClass) : (u.markerPhased x c).holdsOk := by
  cases c with
  | window => exact h.modTrk _
  | twin => exact h.phaseSlip
  | outside => exact (h.modTrk _).markerError x

theorem State.holdsOk.markerTaken (h : u.holdsOk) (x : Setup) : (u.markerTaken x).holdsOk := by
  unfold State.markerTaken
  dsimp only
  split
  · split
    · exact h.markerAssumed _
    · exact h.markerUnphased _
  · exact h.markerPhased _ _
  · exact h
  · exact h
  · exact h

/-! ## Edges and expiries -/

theorem State.holdsOk.crankArrives (h : u.holdsOk) (edge : Edge) : (u.crankArrives edge).holdsOk := by
  unfold State.crankArrives
  split
  · split
    · exact h.crankTaken _
    · exact h
  · exact h

theorem State.holdsOk.markerArrives (h : u.holdsOk) (edge : Edge) : (u.markerArrives edge).holdsOk := by
  unfold State.markerArrives
  split
  · split
    · exact h.markerTaken _
    · exact h
  · exact h

theorem State.holdsOk.stallExpires (h : u.holdsOk) : u.stallExpires.holdsOk := by
  unfold State.stallExpires
  split
  · exact (((((h.setNow _).setTrk _).statusAll _).raise _).recover).endCycleMode
  · exact h

theorem State.holdsOk.startExpires (h : u.holdsOk) (sense : BankSense) : (u.startExpires sense).holdsOk := by
  unfold State.startExpires
  split
  · exact ((h.setArm _).expire _ _ _).startPulse _
  · exact h

theorem State.holdsOk.deadlineExpires (h : u.holdsOk) (bk : BankId) (seq : Word) (entry : Nat) (sense : BankSense) :
    (u.deadlineExpires bk seq entry sense).holdsOk := by
  unfold State.deadlineExpires
  split
  · exact (((h.expire _ _ _).setBank _ _).slipDrop _ _ _ _).recheck _ _
  · exact h

/-- An effect that keeps the limit, at a timer's time. -/
theorem State.holdsOk.onTimer (h : u.holdsOk) (timer : Option Time) (bk : BankId) (sense : BankSense) {effect : State → State}
    (he : ∀ {u : State}, u.holdsOk → (effect u).holdsOk) : (u.onTimer timer bk sense effect).holdsOk := by
  unfold State.onTimer
  split
  · exact he (h.expire _ _ _)
  · exact h

theorem State.holdsOk.settleExpires (h : u.holdsOk) (bk : BankId) : (u.settleExpires bk).holdsOk := by
  unfold State.settleExpires
  split
  · exact ((h.setNow _).setBank _ _).setMode _ _
  · exact h

theorem State.holdsOk.durationExpires (h : u.holdsOk) (bk : BankId) (sense : BankSense) :
    (u.durationExpires bk sense).holdsOk := by
  unfold State.durationExpires
  split
  · exact (h.expire _ _ _).endPlayed _ _
  · exact h.onTimer _ _ _ fun g => g.endHolder _ _

/-! ## Requests, and the ends of a LOAD -/

/-- A request keeps the limit where its effect does: a refused one stores its word alone (R128). -/
theorem State.holdsOk.takeRequest (h : u.holdsOk) (w : Word) (accepted : Bool) {effect : State → State}
    (he : ∀ {u : State}, u.holdsOk → (effect u).holdsOk) : (u.takeRequest w accepted effect).holdsOk := by
  unfold State.takeRequest
  split
  · exact h
  · split
    · exact he (h.setCtl _)
    · exact h.setCtl _

theorem State.holdsOk.beginLoad (h : u.holdsOk) : u.beginLoad.holdsOk := by
  have hstaged : (u.setSu { u.su with staging := [] }).holdsOk := h
  exact ((hstaged.setTrk _).statusAll _).changeRun _

theorem State.beginRun_holdsOk (s : State) : s.beginRun.holdsOk := s.copyTrim_holdsOk

theorem State.holdsOk.enterStop (h : u.holdsOk) (m : StopMode) : (u.enterStop m).holdsOk := by
  cases m with
  | none => exact h
  | cycle =>
    simp only [State.enterStop]
    split
    · exact h.setCtl _
    · exact h.stopEvent
  | event => exact h.stopEvent
  | cut => exact h.stopCut

theorem State.holdsOk.strengthenStop (h : u.holdsOk) (m : StopMode) : (u.strengthenStop m).holdsOk := by
  unfold State.strengthenStop
  split
  · exact h.stopEvent
  · exact h.stopCut
  · exact h.stopCut
  · exact h

theorem State.holdsOk.stopBy (h : u.holdsOk) (m : StopMode) : (u.stopBy m).holdsOk := by
  unfold State.stopBy
  split
  · split
    · exact h.truncateServices
    · exact h
  · exact (h.changeRun _).enterStop m
  · exact h.strengthenStop m
  · exact h
  · exact h

theorem State.holdsOk.takeStop (h : u.holdsOk) (arg : Byte) (top : BitVec 4) : (u.takeStop arg top).holdsOk := by
  unfold State.takeStop
  split
  · exact h.takeRequest _ _ fun g => g.stopBy _
  · exact h.takeRequest _ _ fun g => g

theorem State.holdsOk.releaseCyl (h : u.holdsOk) (k : CylId) : (u.releaseCyl k).holdsOk :=
  (h.setCyl k (x := { u.cyl k with quarantined := false, faults := 0 }) rfl).statusAll _

theorem State.holdsOk.takeRelease (h : u.holdsOk) (arg : Byte) (top : BitVec 4) : (u.takeRelease arg top).holdsOk := by
  unfold State.takeRelease
  split
  · exact h.takeRequest _ _ fun g => g.releaseCyl _
  · exact h.takeRequest _ _ fun g => g

theorem State.holdsOk.beginService (h : u.holdsOk) (k : CylId) (profile : Nat) (sense : BankSense) :
    (u.beginService k profile sense).holdsOk :=
  (((((h.setPins _).setBank _ _).setMode _ _).setSb _).statusAll _).engage _ _ _ _ _

theorem State.holdsOk.takeService (h : u.holdsOk) (arg : Byte) (top : BitVec 4) (sense : BankSense) :
    (u.takeService arg top sense).holdsOk := by
  unfold State.takeService
  split
  · exact h.takeRequest _ _ fun g => g.beginService _ _ _
  · exact h.takeRequest _ _ fun g => g

/-- Reset leaves every hold count at 0 (R143). -/
theorem State.resetBlocks_holdsOk (cause : ResetCause) (s : State) : (s.resetBlocks cause).holdsOk := State.holdsOk_of_reset rfl

theorem State.assertReset_holdsOk (s : State) : s.assertReset.holdsOk := (s.resetBlocks_holdsOk s.pinCause).setPins _

theorem State.takeSoftReset_holdsOk (h : u.holdsOk) (arg : Byte) (top : BitVec 4) : (u.takeSoftReset arg top).holdsOk :=
  h.takeRequest _ _ fun _ => State.resetBlocks_holdsOk _ _

theorem State.holdsOk.openStatus (h : u.holdsOk) : u.openStatus.holdsOk := (h.status _ _).setMem _

theorem State.holdsOk.showAll (h : u.holdsOk) : u.showAll.holdsOk := h.statusAll u.statusWords

theorem State.holdsOk.loadStatus (h : u.holdsOk) : u.loadStatus.holdsOk := (h.setSb _).openStatus.showAll

/-- LOAD completion limits the hold counts in its trim copy; what follows moves PLAN_LOW_AHEAD and the status block alone (R153,
R158). -/
theorem State.completeLoad_holdsOk (st : List StagedByte) (s : State) : (s.completeLoad st).holdsOk := by
  have htrim : ((s.loadBlocks (setupOf st)).loadTrim).holdsOk := by
    unfold State.loadTrim
    split
    · exact State.copyTrim_holdsOk _
    · exact State.copyTrim_holdsOk (s.loadBlocks (setupOf st))
  exact htrim.loadStatus.changeRun _

theorem State.holdsOk.loadPasses (h : u.holdsOk) : u.loadPasses.holdsOk := by
  unfold State.loadPasses
  split
  · split
    · exact State.completeLoad_holdsOk _ _
    · exact h
  · exact h

theorem State.holdsOk.loadFails (h : u.holdsOk) : u.loadFails.holdsOk := by
  unfold State.loadFails
  split
  · split <;> exact h
  · exact h

/-! ## What arrives during a command -/

theorem State.holdsOk.hostWrite (h : u.holdsOk) (addr : BitVec 13) (data : Word) : (u.hostWrite addr data).holdsOk := by
  unfold State.hostWrite
  rw [State.readBeforeWrite_eq]
  split <;> exact h

theorem State.holdsOk.hostRead (h : u.holdsOk) (addr : BitVec 13) : (u.hostRead addr).holdsOk := by
  unfold State.hostRead
  split
  · exact (((h.setPins _).raise _).setSb _).status _ _
  · exact h

theorem State.holdsOk.takeWrite (h : u.holdsOk) {effect : State → State} (he : (effect u).holdsOk) :
    (u.takeWrite effect).holdsOk := by
  unfold State.takeWrite
  split
  · exact h
  · exact he

theorem State.holdsOk.takeRead (h : u.holdsOk) {effect : State → State} (he : (effect u).holdsOk) :
    (u.takeRead effect).holdsOk := by
  unfold State.takeRead
  split
  · exact h
  · split
    · exact h
    · exact he

theorem State.holdsOk.afterwards (h : u.holdsOk) (x : Arrival) : (u.afterwards x).holdsOk := by
  unfold State.afterwards
  split
  · exact h.takeWrite (h.hostWrite _ _)
  · exact h.takeRead (h.hostRead _)
  · exact State.takeSoftReset_holdsOk h _ _
  · exact u.assertReset_holdsOk

/-- What the port kept is put in place outside the cylinders and the trim in force. -/
theorem State.holdsOk.closed (h : u.holdsOk) (p : Port) :
    (((u.setMem { u.mem with port := none }).keepReads p).keepLoad p).holdsOk := by
  have hreads : ((u.setMem { u.mem with port := none }).keepReads p).holdsOk := by
    unfold State.keepReads
    cases p.data <;> cases p.parityError <;> cases p.parityAddr <;> exact h
  rw [State.keepLoad_eq]
  split
  · split <;> exact hreads
  · exact hreads

/-- A command keeps the limit, whatever arrives among its accesses, where its effect does. -/
theorem State.holdsOk.meanwhile (h : u.holdsOk) (during : List Arrival) {effect : State → State}
    (he : ∀ {u : State}, u.holdsOk → (effect u).holdsOk) : (u.meanwhile during effect).holdsOk :=
  State.meanwhile_induct (he h)
    (fun _ t ht => by
      have hport : t.holdsOk := ht ▸ he (h.setMem _)
      exact ⟨hport, fun p _ => hport.closed p⟩)
    fun _ x g => g.afterwards x

/-! ## Every command -/

/-- Every command keeps the limit. -/
theorem exec_holdsOk (c : Instr) {t : State} (h : s.holdsOk) (hc : exec c s = .next t) : t.holdsOk := by
  cases c with
  | crankEdge edge x sense during =>
    obtain rfl := Host.Outcome.next.inj hc
    exact ((h.setNow x).setPins _).meanwhile during fun g => g.crankArrives edge
  | markerEdge edge x during =>
    obtain rfl := Host.Outcome.next.inj hc
    exact (h.setNow x).meanwhile during fun g => g.markerArrives edge
  | stall during =>
    obtain rfl := Host.Outcome.next.inj hc
    exact h.meanwhile during fun g => g.stallExpires
  | startExpiry sense during =>
    obtain rfl := Host.Outcome.next.inj hc
    exact h.meanwhile during fun g => g.startExpires sense
  | slipDeadlineExpiry bk seq entry sense during =>
    obtain rfl := Host.Outcome.next.inj hc
    exact h.meanwhile during fun g => g.deadlineExpires bk seq _ sense
  | headTimerExpiry bk sense during =>
    obtain rfl := Host.Outcome.next.inj hc
    exact h.meanwhile during fun g => g.onTimer _ _ _ fun g => g.grantCheck bk
  | settleExpiry bk during =>
    obtain rfl := Host.Outcome.next.inj hc
    exact h.meanwhile during fun g => g.settleExpires bk
  | capExpiry bk sense during =>
    obtain rfl := Host.Outcome.next.inj hc
    exact h.meanwhile during fun g => g.onTimer _ _ _ fun g => g.endHolder bk _
  | durationExpiry bk sense during =>
    obtain rfl := Host.Outcome.next.inj hc
    exact h.meanwhile during fun g => g.durationExpires bk sense
  | riseLimitExpiry bk sense during =>
    obtain rfl := Host.Outcome.next.inj hc
    exact h.meanwhile during fun g => g.onTimer _ _ _ fun g => g.endPlayed bk _
  | freewheelExpiry bk sense during =>
    obtain rfl := Host.Outcome.next.inj hc
    exact h.meanwhile during fun g => g.onTimer _ _ _ fun g => g.nextPhase bk
  | upperInputChange bk x sense during =>
    obtain rfl := Host.Outcome.next.inj hc
    exact (h.expire x bk sense).meanwhile during fun g => g.upperChange bk
  | lowerInputChange bk x sense during =>
    obtain rfl := Host.Outcome.next.inj hc
    exact (h.expire x bk sense).meanwhile during fun g => g.lowerChange bk
  | shortInputChange bk x sense during =>
    obtain rfl := Host.Outcome.next.inj hc
    exact (h.expire x bk sense).meanwhile during fun g => g.shortChange bk
  | quenchExpiry bk sense during =>
    obtain rfl := Host.Outcome.next.inj hc
    exact h.meanwhile during fun g => g.onTimer _ _ _ fun g => g.quenchEnd bk
  | load arg top during =>
    obtain rfl := Host.Outcome.next.inj hc
    exact h.meanwhile during fun g => g.takeRequest _ _ fun g => g.beginLoad
  | loadComplete during =>
    obtain rfl := Host.Outcome.next.inj hc
    exact h.meanwhile during fun g => g.loadPasses
  | loadFail during =>
    obtain rfl := Host.Outcome.next.inj hc
    exact h.meanwhile during fun g => g.loadFails
  | run arg top during =>
    obtain rfl := Host.Outcome.next.inj hc
    exact h.meanwhile during fun g => g.takeRequest _ _ fun _ => State.beginRun_holdsOk _
  | stop arg top x sense during =>
    obtain rfl := Host.Outcome.next.inj hc
    exact ((h.setNow x).setPins _).meanwhile during fun g => g.takeStop arg top
  | inhibit arg top =>
    obtain rfl := Host.Outcome.next.inj hc
    exact h.takeRequest _ _ fun g => g.setCtl _
  | release arg top during =>
    obtain rfl := Host.Outcome.next.inj hc
    exact h.meanwhile during fun g => g.takeRelease arg top
  | service arg top x sense during =>
    obtain rfl := Host.Outcome.next.inj hc
    exact (h.setNow x).meanwhile during fun g => g.takeService arg top sense
  | softReset arg top =>
    obtain rfl := Host.Outcome.next.inj hc
    exact State.takeSoftReset_holdsOk h _ _
  | paritySense arg top =>
    obtain rfl := Host.Outcome.next.inj hc
    exact h.takeRequest _ _ fun g => g.setCtl _
  | undefinedRequest code arg top =>
    obtain rfl := Host.Outcome.next.inj hc
    exact h.takeRequest _ _ fun g => g
  | eventRead =>
    obtain rfl := Host.Outcome.next.inj hc
    exact h.takeRead h
  | eventMaskWrite mask =>
    obtain rfl := Host.Outcome.next.inj hc
    exact h.takeWrite h
  | registerWriteIgnored reg data =>
    obtain rfl := Host.Outcome.next.inj hc
    exact h
  | hostMemoryWrite addr data =>
    obtain rfl := Host.Outcome.next.inj hc
    exact h.takeWrite (h.hostWrite _ _)
  | hostMemoryRead addr =>
    obtain rfl := Host.Outcome.next.inj hc
    exact h.takeRead (h.hostRead _)
  | powerOnReset =>
    obtain rfl := Host.Outcome.next.inj hc
    exact s.resetBlocks_holdsOk .power
  | powerOnResetEnd =>
    simp only [exec, execPowerOnResetEnd] at hc
    split at hc <;> obtain rfl := Host.Outcome.next.inj hc <;> exact h
  | pinReset =>
    obtain rfl := Host.Outcome.next.inj hc
    exact s.assertReset_holdsOk
  | pinResetRelease =>
    obtain rfl := Host.Outcome.next.inj hc
    exact h

/-- Settles O7: the front command keeps the limit (`exec_holdsOk`), and a tick of the time base changes the tick count alone. -/
theorem stepKeepsHoldLimit : Obligations.StepKeepsHoldLimit := by
  intro s t h ht
  unfold step at ht
  split at ht
  · rename_i c rest _
    have hq : (s.setPending rest).holdsOk := h
    exact exec_holdsOk c hq ht
  · obtain rfl := Host.Outcome.next.inj ht
    exact h

end Sys2Proof.Machine

/-! # A fallback without fuel -/

namespace Sys2Proof.Machine

/-- Without a usable held plan and without a limp plan there is no fuel (R53, R56). -/
theorem State.fallbackPlan_noFuel {u : Setup} {k : CylId} {s : State} (hl : u.limp = none)
    (h : (s.cyl k).held = none ∨ s.su.trim.holdLimit ≤ (s.cyl k).holdCount) : s.fallbackPlan u k = (.noFuel, []) := by
  unfold State.fallbackPlan
  rcases h with hh | hc
  · simp [hh, hl]
  · cases (s.cyl k).held with
    | none => simp [hl]
    | some p => simp [hl, Nat.not_lt.2 hc]

theorem fallsToLimp_noFuel (fuel : Source) : fallsToLimp fuel .noFuel = true ↔ fuel = .plan ∨ fuel = .held := by
  cases fuel <;> simp [fallsToLimp]

/-- A fallback that gives no fuel: the miss and the fuel level, then its report, since it has no pulse (R52, R56, R57). -/
theorem State.fallBack_noFuel {u : Setup} {v : LatchView} {s : State} (x : EdgeView) (hl : u.limp = none)
    (h : (s.cyl v.cyl).held = none ∨ s.su.trim.holdLimit ≤ (s.cyl v.cyl).holdCount) : s.fallBack u x v =
      ((s.countMiss v.cyl).enterFuel v.cyl .noFuel).report v.cyl (v.event .noFuel none false []) := by
  have hplan : (s.countMiss v.cyl).fallbackPlan u v.cyl = (.noFuel, []) := by
    refine State.fallbackPlan_noFuel hl ?_
    rw [State.countMiss_eq]
    simpa [State.cyl] using h
  rw [State.fallBack, State.fallBackNow, hplan, State.fallBackTo, State.enterEvent_empty rfl]
  rfl

/-- Settles O30: the fallback is its miss, its fuel level and the report of an event without pulses, whose words lie apart. -/
theorem fallbackWithoutFuel : Obligations.FallbackWithoutFuel := by
  intro u x v s hl h
  refine ⟨s.mem.mirror s.sb.live
    ((0x1C0 + 16 * (v.cyl.number - 1) + 12, satCount (s.cyl v.cyl).misses) :: lastWords v.cyl .noFuel .complete v.seq), ?_, ?_⟩
  · have hsticky : ∀ (p : Prop) [Decidable p] (w : Word), (if p then w ||| 0x0008 else w) = w ||| (if p then 0x0008 else 0) :=
      fun p _ w => by split <;> simp
    rw [State.fallBack_noFuel x hl h, State.report_full, State.enterFuel_eq, State.countMiss_eq]
    simp only [State.cyl, Eight.get_set_same, Eight.set_set, fallsToLimp_noFuel, hsticky, Event.reportMem, LatchView.event,
      Memory.mirror_mirror]
    rfl
  · refine Memory.mirror_shown _ _ ?_ ?_
    · simp [Apart]
    · have := CylId.number_pos v.cyl
      simp [memBytes]
      omega

end Sys2Proof.Machine

/-! # Start expiries at a free bank and at a held one

A start expiry that meets no abort is a bank request (`Starting.exec_eq`); what it finds at its bank settles whether the pulse is
granted (`State.request_free`) or waits (`State.request_held`). -/

namespace Sys2Proof.Machine

/-! ## The request of a start expiry -/

/-- The state in which an armed pulse requests its bank at its start (R73): at the tick of its start, with the bank's lines as
shown, and the pulse no longer in the armed set. -/
def State.atStart (s : State) (a : ArmedEntry) (rest : List ArmedEntry) (bk : BankId) (sense : BankSense) : State :=
  (s.setArm { s.arm with armedSet := rest }).expire a.start bk sense

/-- The request that an armed pulse `p` of event `e` makes for profile `f` (R74), with the trim's guards in force (R85). -/
def State.startRequest (s : State) (a : ArmedEntry) (e : Event) (p : Pulse) (f : Profile) : Request :=
  { seq := e.seq, index := a.entry.index, cyl := a.entry.cyl, kind := a.entry.kind, start := a.start
    deadline := Time.add a.start a.entry.slipLimit, boost := f.boostMark, minDwell := s.su.trim.minDwell
    recharge := s.su.trim.rechargeGuard, profile := p.plan.profile, duration := p.plan.duration
    late := p.late, dry := e.dry }

/-- A start expiry that meets no abort presents the pulse's request to the bank of its cylinder (R73, R74). -/
theorem Starting.exec_eq {u : Setup} {s : State} {a : ArmedEntry} {rest : List ArmedEntry} {e : Event} {p : Pulse} {bk : BankId}
    {f : Profile} (h : Starting u s a rest e p bk) (hno : s.noAbort e) (hf : u.profiles[p.plan.profile]? = some f)
    (sense : BankSense) : exec (.startExpiry sense []) s = .next
      ((s.atStart a rest bk sense).request bk (s.startRequest a e p f)) := by
  have hbank : s.bankOf a.entry.cyl = bk := by simp [State.bankOf, h.setup, h.bank]
  have hexec : exec (.startExpiry sense []) s = .next ((s.atStart a rest bk sense).startPulse a) := by
    show Host.Outcome.next (s.startExpires sense) = _
    unfold State.startExpires
    rw [h.first]
    dsimp only
    unfold State.startNow
    rw [hbank]
    rfl
  have habort : (s.atStart a rest bk sense).abortMet a.entry.cyl a.entry.seq = false :=
    State.abortMet_of_noAbort hno (by exact h.event) rfl
  rw [hexec, State.startPulse, State.reread_calm (by exact h.calm), State.startRead, habort, if_neg Bool.false_ne_true,
    State.present_request (by exact h.setup) (by exact h.event) h.seq h.pulse h.cond hf, ← h.bank]
  rfl

/-! ## A free bank -/

section
variable {s : State} {bk : BankId} {r : Request}

/-- A request at a free bank with nobody waiting, available at the pulse's start, is granted at once (R86 step 2). -/
theorem State.request_free (hh : (s.bank bk).holder = none) (hw : (s.bank bk).waiting = [])
    (ho : (s.bank bk).openAt r.boost r.minDwell r.recharge s.now) (hn : s.now = r.start) : s.request bk r = s.grant bk r := by
  have hpre : (s.bank bk).preemptedBy r = false := by simp [Bank.preemptedBy, hh]
  have hin : r.inTime s.now = true := by simp [Request.inTime, hn, Time.since]
  have hgrant : (s.bank bk).grantsAtOnce r s.now = true := by
    simp [Bank.grantsAtOnce, hh, hw, insertBy, Bank.reached_of_open ho, hin]
  rw [State.request, hpre, if_neg Bool.false_ne_true, if_pos hgrant]

/-- Steps 2 to 6 of R90, field by field. -/
theorem State.makeHolder_eq {e : Event} (he : (s.cyl r.cyl).event = some e) (hq : e.seq = r.seq) : s.makeHolder bk r =
    { s with
      banks := s.banks.set bk { (s.bank bk).grantedTo r (some (Time.add s.now (e.snap.driveMax - e.drive))) s.now with
        mode := .active }
      cyls := s.cyls.set r.cyl { s.cyl r.cyl with event := some { e with
        pulses := modPulses r.index (fun p =>
          { p with cond := .active, slip := Time.since s.now r.start, startAngle := s.startAngle r.cyl }) e.pulses } }
      mem := s.mem.mirror s.sb.live [(0x240 + 8 * bk.index, 1)] } := by
  have hcap : s.capExpiry r.cyl r.seq = some (Time.add s.now (e.snap.driveMax - e.drive)) := by
    simp [State.capExpiry, State.eventOf, he, hq]
  rw [State.makeHolder, State.setMode_eq, hcap, State.modPulse_of (e := e) (by exact he) hq]
  simp [State.setBank, State.setBanks, State.bank, State.setCyl, State.setCyls, State.cyl, BankMode.code]

/-- A channel engaged without a standing short report plays its profile, and beside its bank's channel and BOOST_LOW count it
changes the memory alone (R105). -/
theorem State.engage_plays {u : Setup} {job : Job} {k : CylId} {n dur : Nat} {f : Profile} {t : Time}
    (hu : s.su.setup = some u) (hs : (s.senseOf bk).current.toNat < (u.banks.get bk).shortLevel)
    (hf : u.profiles[n]? = some f) (ht : s.now = t) : ∃ q lows m,
      s.engage bk job k n dur =
        { s with banks := s.banks.set bk { s.bank bk with channel := some q, boostLowCount := lows }, mem := m }
      ∧ Engaged (s.engage bk job k n dur) bk job k f dur t := by
  subst ht
  obtain ⟨q, words, lows, hengage, hjob, hcyl, hprofile, hat, hend, hcond, -⟩ := State.engage_eq u s bk job k n dur hu hs
  have hchannel : ((s.engage bk job k n dur).bank bk).channel = some q := by simp [hengage, State.bank]
  have hplayed : q.profile = f := by rw [hprofile, hf]; rfl
  have hlow := State.lowSidePin_of_playing _ bk hchannel hcond
  exact ⟨q, lows, _, hengage, ⟨q, hchannel, hjob, hcyl, hplayed, hat, hend, hcond⟩, by rwa [hcyl] at hlow⟩

/-! ## A held bank -/

/-- A pulse enters the wait list and becomes WAITING, field by field (R86 step 3). -/
theorem State.enterList_eq {e : Event} (he : (s.cyl r.cyl).event = some e) (hq : e.seq = r.seq) : s.enterList bk r =
    { s with
      banks := s.banks.set bk ((s.bank bk).listed r)
      cyls := s.cyls.set r.cyl { s.cyl r.cyl with
        event := some { e with pulses := modPulses r.index (fun p => { p with cond := .waiting }) e.pulses } } } := by
  rw [State.enterList, State.modPulse_of (e := e) (by exact he) hq]
  rfl

/-- A request that a bank's holder keeps out, without being preempted, joins the wait list below its limit (R86 step 3). -/
theorem State.request_held {h : Holder} (hh : (s.bank bk).holder = some h) (hl : (s.bank bk).waiting.length < 4)
    (hpre : (s.bank bk).preemptedBy r = false) : s.request bk r = s.enterList bk r := by
  have hbank : (s.enterList bk r).bank bk = (s.bank bk).listed r := by simp [State.enterList, State.bank]
  have hroom : crowdedOut ((s.enterList bk r).bank bk).waiting = none := by
    rw [hbank]
    exact if_neg (by simp only [Bank.listed, insertBy_length]; omega)
  have hgrant : (s.bank bk).grantsAtOnce r s.now = false := by simp [Bank.grantsAtOnce, hh]
  have hcrowd : (s.enterList bk r).crowd bk = s.enterList bk r := by rw [State.crowd, hroom]
  rw [State.request, hpre, hgrant, if_neg Bool.false_ne_true, if_neg Bool.false_ne_true, State.join, hcrowd,
    State.grantCheck_held (by rw [hbank]; simp [Bank.listed, hh])]

/-- Only an ACTIVE POST of another event is preempted, and only by a MAIN (R93, R94). -/
theorem Bank.preemptedBy_iff {x : Bank} {h : Holder} (hh : x.holder = some h) : x.preemptedBy r = true ↔
    r.kind = .main ∧ x.mode = .active ∧ ∃ seq i dry, h.job = .event seq i .post dry ∧ seq ≠ r.seq := by
  unfold Bank.preemptedBy
  rw [hh]
  cases hj : h.job with
  | event seq i kind dry =>
    simp only [hj, Bool.and_eq_true, decide_eq_true_eq, bne_iff_ne, Job.event.injEq]
    constructor
    · rintro ⟨⟨⟨hk, rfl⟩, hm⟩, hs⟩
      exact ⟨hk, hm, seq, i, dry, ⟨rfl, rfl, rfl, rfl⟩, hs⟩
    · rintro ⟨hk, hm, _, _, _, ⟨rfl, rfl, rfl, rfl⟩, hs⟩
      exact ⟨⟨⟨hk, rfl⟩, hm⟩, hs⟩
  | service n => simp [hj]

end

/-! ## The obligations -/

/-- Settles O36: the request is a grant (`State.request_free`), which makes the pulse the holder (`State.makeHolder_eq`) and, unless
it is dry, engages the channel (`State.engage_plays`). -/
theorem startGrants : Obligations.StartGrants := by
  intro u s a rest e p bk sense f x hst hno hf hh hw ho hx z hz
  have hgrant : exec (.startExpiry sense []) s = .next ((s.atStart a rest bk sense).grant bk (s.startRequest a e p f)) := by
    rw [hst.exec_eq hno hf, State.request_free (by exact hh) (by exact hw) (by exact ho) rfl]
  have hholder : (s.atStart a rest bk sense).makeHolder bk (s.startRequest a e p f) = { z with
      banks := s.banks.set bk x
      mem := s.mem.mirror s.sb.live [(0x240 + 8 * bk.index, 1)] } := by
    have hslip : Time.since a.start a.start = 0 := by simp [Time.since]
    rw [State.makeHolder_eq (e := e) (by exact hst.event) rfl, hz, hx, ← hslip]
    rfl
  refine ⟨fun hd => ⟨_, ?_, Memory.mirror_again s.sb.live _ [] 1 s.mem (by cases bk <;> decide)⟩, fun hd hs => ?_⟩
  · rw [hgrant, State.grant, State.drivePulse, if_pos (by exact hd), hholder]
    rfl
  · have hdriven : exec (.startExpiry sense []) s = .next (State.engage bk (.event e.seq a.entry.index a.entry.kind false)
        a.entry.cyl p.plan.profile p.plan.duration { z with
          banks := s.banks.set bk x
          mem := s.mem.mirror s.sb.live [(0x240 + 8 * bk.index, 1)] }) := by
      rw [hgrant, State.grant, State.drivePulse, if_neg (by simp [State.startRequest, hd]), hholder]
      simp only [State.startRequest, hd]
    have hsense : z.senseOf bk = sense := by rw [hz]; exact Four.get_set_same _ _ _
    obtain ⟨q, lows, m, hengage, hplays⟩ := State.engage_plays
      (s := { z with banks := s.banks.set bk x, mem := s.mem.mirror s.sb.live [(0x240 + 8 * bk.index, 1)] })
      (job := .event e.seq a.entry.index a.entry.kind false) (k := a.entry.cyl) (dur := p.plan.duration)
      (by rw [hz]; exact hst.setup) (by rw [← hsense] at hs; exact hs) hf (t := a.start) (by rw [hz]; rfl)
    refine ⟨_, hdriven, hplays, ?_⟩
    rw [hengage, hz]
    exact ⟨by simp [State.bank, hx], by simp [State.bank], by simp [State.bank],
      fun j hj => by simp [State.bank, Four.get_set_ne _ _ hj], rfl, rfl, rfl, rfl⟩

/-- Settles O37: the order is `ranksBefore_iff`, and the join is an entry in the list with no crowding and no grant
(`State.request_held`). -/
theorem startJoins : Obligations.StartJoins := by
  refine ⟨fun x y rank hm hp ho => ?_, fun u s a rest e p bk sense f h r w hst hno hf hh hl hpre hr hw => ?_⟩
  · rw [Kind.rank_eq hm hp ho]
    exact ranksBefore_iff _ _ _ _ _ _
  · subst hr hw
    have hkept : ((s.atStart a rest bk sense).bank bk).preemptedBy (s.startRequest a e p f) = false :=
      Bool.eq_false_iff.2 fun hc => hpre ((Bank.preemptedBy_iff (by exact hh)).1 hc)
    rw [hst.exec_eq hno hf, State.request_held (by exact hh) (by exact hl) hkept,
      State.enterList_eq (by exact hst.event) rfl]
    rfl

end Sys2Proof.Machine

/-! # The rules of the banks through every command

Behind the tracker each shared operation keeps the rules (Laws/Banks.lean, Laws/BanksEngine.lean). What is left are the channel's
own events, the expiries, the requests, the two ends of a LOAD and what arrives during a command. -/

namespace Sys2Proof.Machine

variable {s : State}

/-! ## The channel's own events -/

theorem banksOk_setHolding (h : s.banksOk) (bk : BankId) {p : Player} {c : Bool} (hp : (s.bank bk).channel = some p)
    (hc : p.cond = .hold c) (charging : Bool) : (s.setHolding bk p charging).banksOk := by
  refine banksOk_setBank h bk (Bank.ok_of_player (h bk) hp ?_ ?_ rfl ?_ rfl rfl ?_)
  · rfl
  · rfl
  · rfl
  · simp [hc]

/-- A rise that reaches its level changes the player's marks, and then its phase (R107). -/
theorem banksOk_levelReached (h : s.banksOk) (bk : BankId) {p : Player} (hp : (s.bank bk).channel = some p)
    (hq : p.cond ≠ .quench) : (s.levelReached bk p).banksOk := by
  refine banksOk_enterPhase (banksOk_setBank h bk
    (Bank.ok_of_player (q := { p with peak := some (p.peak.getD (Time.since s.now p.grantedAt)) }) (h bk) hp ?_ ?_ rfl ?_ rfl rfl
      Iff.rfl)) bk _ ?_
  · rfl
  · rfl
  · rfl
  · rw [State.bank_setBank]
    rintro _ ⟨⟩
    exact hq

theorem banksOk_nextPhase (h : s.banksOk) (bk : BankId) (hq : ∀ p, (s.bank bk).channel = some p → p.cond ≠ .quench) :
    (s.nextPhase bk).banksOk := by
  unfold State.nextPhase
  split
  · exact banksOk_enterPhase h bk _ hq
  · exact h

theorem banksOk_upperChange (h : s.banksOk) (bk : BankId) : (s.upperChange bk).banksOk := by
  unfold State.upperChange
  split
  · exact h
  · rename_i p hp
    split <;> rename_i hc
    · split
      · exact banksOk_levelReached h bk hp (by simp [hc])
      · exact h
    · split
      · exact banksOk_levelReached h bk hp (by simp [hc])
      · exact h
    · split
      · exact banksOk_setHolding h bk hp hc _
      · exact h
    · exact h
    · exact h

theorem banksOk_lowerChange (h : s.banksOk) (bk : BankId) : (s.lowerChange bk).banksOk := by
  unfold State.lowerChange
  split
  · exact h
  · rename_i p hp
    split <;> rename_i hc
    · split
      · exact banksOk_setHolding h bk hp hc _
      · exact h
    · split
      · exact banksOk_quenchEnd h bk
      · exact h
    · exact h
    · exact h
    · exact h

theorem banksOk_shortChange (h : s.banksOk) (bk : BankId) : (s.shortChange bk).banksOk := by
  unfold State.shortChange
  split
  · exact h
  · split
    · exact banksOk_endPlayed h bk _
    · exact h

/-! ## Edges and expiries -/

theorem banksOk_crankArrives (h : s.banksOk) (edge : Edge) : (s.crankArrives edge).banksOk := by
  unfold State.crankArrives
  split
  · split
    · exact banksOk_crankTaken h _
    · exact h
  · exact h

theorem banksOk_markerArrives (h : s.banksOk) (edge : Edge) : (s.markerArrives edge).banksOk := by
  unfold State.markerArrives
  split
  · split
    · exact banksOk_markerTaken h _
    · exact h
  · exact h

theorem banksOk_stallExpires (h : s.banksOk) : s.stallExpires.banksOk := by
  unfold State.stallExpires
  split
  · exact banksOk_stallNow (banksOk_congr h rfl)
  · exact h

theorem banksOk_onTimer (h : s.banksOk) (timer : Option Time) (bk : BankId) (sense : BankSense) {effect : State → State}
    (he : ∀ t, timer = some t → (effect (s.expire t bk sense)).banksOk) : (s.onTimer timer bk sense effect).banksOk := by
  unfold State.onTimer
  split
  · exact he _ rfl
  · exact h

/-- An expiry moves the time, and senses its bank. -/
theorem banksOk_expire (h : s.banksOk) (t : Time) (bk : BankId) (sense : BankSense) : (s.expire t bk sense).banksOk := h

theorem banksOk_startExpires (h : s.banksOk) (sense : BankSense) : (s.startExpires sense).banksOk := by
  unfold State.startExpires
  split
  · unfold State.startNow
    refine banksOk_startPulse ?_ _
    exact h
  · exact h

/-- A request that leaves a wait list shortens it (R91). -/
theorem Bank.remove_ok {x : Bank} (h : x.ok) (r : Request) : (x.remove r).ok :=
  Bank.ok_of_same h rfl rfl rfl (List.length_filter_le _ _)

theorem banksOk_deadlineExpires (h : s.banksOk) (bk : BankId) (seq : Word) (entry : Nat) (sense : BankSense) :
    (s.deadlineExpires bk seq entry sense).banksOk := by
  unfold State.deadlineExpires
  split
  · rename_i r _
    have hx := banksOk_expire h r.deadline bk sense
    exact banksOk_recheck (banksOk_slipDrop (banksOk_setBank hx bk (Bank.remove_ok (hx bk) r)) bk _ _ _) bk _
  · exact h

/-- A SETTLING bank has no holder (R81), and so no player: it may become IDLE. -/
theorem banksOk_settleExpires (h : s.banksOk) (bk : BankId) : (s.settleExpires bk).banksOk := by
  unfold State.settleExpires
  split
  · rename_i t ht
    have hm : (s.bank bk).mode = .settling := by
      unfold Bank.settleTimer at ht
      split at ht
      · assumption
      · cases ht
    have hh : (s.bank bk).holder = none := by
      have hiff := (h bk).1
      unfold Bank.holderOk at hiff
      rw [hm] at hiff
      simpa using hiff
    exact banksOk_setMode (s := s.at t) (banksOk_congr h rfl) bk _ .idle
      (Bank.ok_of_free hh ((h bk).noChannel hh) (.inl rfl) (h bk).2.2)
  · exact h

theorem banksOk_durationExpires (h : s.banksOk) (bk : BankId) (sense : BankSense) : (s.durationExpires bk sense).banksOk := by
  unfold State.durationExpires
  split
  · exact banksOk_endPlayed (banksOk_expire h _ bk sense) bk _
  · exact banksOk_onTimer h _ bk sense fun t _ => banksOk_endHolder (banksOk_expire h t bk sense) bk _

/-- A FREEWHEEL timer runs in a FREEWHEEL alone (R109). -/
theorem Bank.freewheelTimer_cond {x : Bank} {t : Time} (h : x.freewheelTimer = some t) {p : Player} (hp : x.channel = some p) :
    p.cond = .freewheel := by
  unfold Bank.freewheelTimer at h
  rw [hp] at h
  dsimp only at h
  split at h
  · assumption
  · cases h

/-! ## Requests, and the ends of a LOAD -/

theorem banksOk_takeRequest (h : s.banksOk) (w : Word) {accepted : Bool} {effect : State → State}
    (he : accepted = true → (effect (s.answer w .accepted)).banksOk) : (s.takeRequest w accepted effect).banksOk := by
  unfold State.takeRequest
  split
  · exact h
  · split
    · exact he ‹_›
    · exact banksOk_congr h rfl

theorem banksOk_beginRun (h : s.banksOk) : s.beginRun.banksOk := banksOk_congr h s.copyTrim_banks

theorem banksOk_stopEvent (h : s.banksOk) : s.stopEvent.banksOk := banksOk_congr h (State.checkStopped_banks _)

theorem banksOk_enterStop (h : s.banksOk) (m : StopMode) : (s.enterStop m).banksOk := by
  unfold State.enterStop
  split
  · split
    · exact banksOk_congr h rfl
    · exact banksOk_stopEvent h
  · exact banksOk_stopEvent h
  · exact banksOk_stopCut h
  · exact h

theorem banksOk_strengthenStop (h : s.banksOk) (m : StopMode) : (s.strengthenStop m).banksOk := by
  unfold State.strengthenStop
  split
  · exact banksOk_stopEvent h
  · exact banksOk_stopCut h
  · exact banksOk_stopCut h
  · exact h

theorem banksOk_stopBy (h : s.banksOk) (m : StopMode) : (s.stopBy m).banksOk := by
  unfold State.stopBy
  split
  · split
    · exact banksOk_truncateServices h
    · exact h
  · exact banksOk_enterStop (s := s.changeRun .stopping) h m
  · exact banksOk_strengthenStop h m
  · exact h
  · exact h

theorem banksOk_takeStop (h : s.banksOk) (arg : Byte) (top : BitVec 4) : (s.takeStop arg top).banksOk := by
  unfold State.takeStop
  split
  · exact banksOk_takeRequest h _ fun _ => banksOk_stopBy (s := s.answer _ .accepted) h _
  · exact banksOk_takeRequest h _ nofun

theorem banksOk_takeRelease (h : s.banksOk) (arg : Byte) (top : BitVec 4) : (s.takeRelease arg top).banksOk := by
  unfold State.takeRelease
  split
  · exact banksOk_takeRequest h _ fun _ => banksOk_congr h (by simp [State.releaseCyl, State.answer])
  · exact banksOk_takeRequest h _ nofun

/-- A service pulse takes an IDLE bank, which has no player, and is engaged for it (R123, R141). -/
theorem banksOk_beginService (h : s.banksOk) (k : CylId) (profile : Nat) (sense : BankSense)
    (hm : (s.bank (s.bankOf k)).mode = .idle) : (s.beginService k profile sense).banksOk := by
  have hh : (s.bank (s.bankOf k)).holder = none := by
    have hiff := (h (s.bankOf k)).1
    unfold Bank.holderOk at hiff
    rw [hm] at hiff
    simpa using hiff
  have hidle : (s.bank (s.bankOf k)).channel = none := (h _).noChannel hh
  have hheld : ((s.see (s.bankOf k) sense).holdService (s.bankOf k) k profile).banksOk := by
    refine banksOk_setMode (s := s.see (s.bankOf k) sense) (banksOk_congr h rfl) _ _ .active ⟨?_, fun p hp => ?_, (h _).2.2⟩
    · simp [Bank.holderOk]
    · cases hidle.symm.trans hp
  have hbank : ((((s.see (s.bankOf k) sense).holdService (s.bankOf k) k profile).startEntry k profile).bank (s.bankOf k)) =
      { s.bank (s.bankOf k) with holder := some ⟨.service profile, k, s.now⟩, mode := .active } := by
    simp [State.startEntry, State.holdService, State.setMode_eq, State.bank, State.see]
  exact banksOk_engage (banksOk_congr hheld (by simp [State.startEntry])) _ _ _ _ _ (g := ⟨.service profile, k, s.now⟩)
    (by rw [hbank]) rfl rfl rfl (by rw [hbank])

theorem banksOk_takeService (h : s.banksOk) (arg : Byte) (top : BitVec 4) (sense : BankSense) :
    (s.takeService arg top sense).banksOk := by
  unfold State.takeService
  split
  · refine banksOk_takeRequest h _ fun ha => banksOk_beginService (s := s.answer _ .accepted) h _ _ _ ?_
    simp only [State.serviceAllowed, Bool.and_eq_true, beq_iff_eq] at ha
    obtain ⟨⟨-, hm⟩, -⟩ := ha
    exact hm
  · exact banksOk_takeRequest h _ nofun

theorem banksOk_loadTrim (h : s.banksOk) : s.loadTrim.banksOk := by
  unfold State.loadTrim
  split <;> exact banksOk_congr h s.copyTrim_banks

/-- LOAD completion clears the two counts of every bank, and leaves what holds it (R153). -/
theorem banksOk_completeLoad (h : s.banksOk) (st : List StagedByte) : (s.completeLoad st).banksOk := by
  have hblocks : (s.loadBlocks (setupOf st)).banksOk := fun bk => by
    show ((s.banks.map fun _ (x : Bank) => { x with conflicts := 0, boostLowCount := 0 }).get bk).ok
    rw [Four.get_map]
    exact Bank.ok_of_same (h bk) rfl rfl rfl (le_refl _)
  refine banksOk_congr (banksOk_loadTrim hblocks) ?_
  simp [State.completeLoad, State.changeRun, State.loadStatus, State.showAll, State.openStatus, State.goLive]

theorem banksOk_loadPasses (h : s.banksOk) : s.loadPasses.banksOk := by
  unfold State.loadPasses
  split
  · split
    · exact banksOk_completeLoad h _
    · exact h
  · exact h

theorem banksOk_loadFails (h : s.banksOk) : s.loadFails.banksOk := by
  unfold State.loadFails
  split
  · split
    · exact banksOk_congr h rfl
    · exact h
  · exact h

/-! ## Resets, and what arrives during a command -/

theorem banksOk_resetBlocks (cause : ResetCause) (s : State) : (s.resetBlocks cause).banksOk := fun bk => by
  show ((Four.fill Bank.reset).get bk).ok
  rw [Four.get_fill]
  exact Bank.reset_ok

theorem banksOk_assertReset (s : State) : s.assertReset.banksOk := banksOk_congr (banksOk_resetBlocks s.pinCause s) rfl

theorem banksOk_takeSoftReset (h : s.banksOk) (arg : Byte) (top : BitVec 4) : (s.takeSoftReset arg top).banksOk :=
  banksOk_takeRequest h _ fun _ => banksOk_resetBlocks _ _

theorem banksOk_takeWrite (h : s.banksOk) {effect : State → State} (he : (effect s).banks = s.banks) :
    (s.takeWrite effect).banksOk := by
  unfold State.takeWrite
  split
  · exact h
  · exact banksOk_congr h he

theorem banksOk_takeRead (h : s.banksOk) {effect : State → State} (he : (effect s).banks = s.banks) :
    (s.takeRead effect).banksOk := by
  unfold State.takeRead
  split
  · exact banksOk_congr h rfl
  · split
    · exact h
    · exact banksOk_congr h he

@[simp] theorem State.hostWrite_banks (addr : BitVec 13) (data : Word) (s : State) : (s.hostWrite addr data).banks = s.banks := by
  unfold State.hostWrite
  rw [State.readBeforeWrite_eq]
  split <;> rfl

@[simp] theorem State.hostRead_banks (addr : BitVec 13) (s : State) : (s.hostRead addr).banks = s.banks := by
  unfold State.hostRead State.hostParityError
  split <;> simp [State.drive]

theorem banksOk_afterwards (h : s.banksOk) (x : Arrival) : (s.afterwards x).banksOk := by
  unfold State.afterwards
  split
  · exact banksOk_takeWrite h (State.hostWrite_banks _ _ s)
  · exact banksOk_takeRead h (State.hostRead_banks _ s)
  · exact banksOk_takeSoftReset h _ _
  · exact banksOk_assertReset s

/-- What the port kept is put in place outside the banks. -/
theorem State.closed_banks (s : State) (p : Port) :
    (((s.setMem { s.mem with port := none }).keepReads p).keepLoad p).banks = s.banks := by
  have hreads : ((s.setMem { s.mem with port := none }).keepReads p).banks = s.banks := by
    unfold State.keepReads
    cases p.data <;> cases p.parityError <;> cases p.parityAddr <;> rfl
  rw [State.keepLoad_eq]
  split
  · split <;> exact hreads
  · exact hreads

/-- A command keeps the rules, whatever arrives among its accesses, where its effect gives them on the banks as they stand. -/
theorem banksOk_meanwhile (during : List Arrival) {effect : State → State}
    (he : ∀ u : State, u.banks = s.banks → (effect u).banksOk) : (s.meanwhile during effect).banksOk :=
  State.meanwhile_induct (he s rfl)
    (fun _ t ht => by
      have hport : t.banksOk := ht ▸ he (s.openPort during) rfl
      exact ⟨hport, fun p _ => banksOk_congr hport (t.closed_banks p)⟩)
    fun _ x h => banksOk_afterwards h x

/-! ## Every command -/

/-- Every command keeps the rules. -/
theorem exec_banksOk (c : Instr) (h : s.banksOk) : ∃ t, exec c s = .next t ∧ t.banksOk := by
  have hs : ∀ u : State, u.banks = s.banks → u.banksOk := fun _ => banksOk_congr h
  have hexpired : ∀ (u : State), u.banks = s.banks → ∀ t bk sense, (u.expire t bk sense).banksOk := fun _ hu _ _ _ => hs _ hu
  cases c with
  | crankEdge edge t sense during => exact ⟨_, rfl, banksOk_meanwhile during fun u hu => banksOk_crankArrives (hs u hu) edge⟩
  | markerEdge edge t during => exact ⟨_, rfl, banksOk_meanwhile during fun u hu => banksOk_markerArrives (hs u hu) edge⟩
  | stall during => exact ⟨_, rfl, banksOk_meanwhile during fun u hu => banksOk_stallExpires (hs u hu)⟩
  | startExpiry sense during => exact ⟨_, rfl, banksOk_meanwhile during fun u hu => banksOk_startExpires (hs u hu) sense⟩
  | slipDeadlineExpiry bk seq entry sense during =>
    exact ⟨_, rfl, banksOk_meanwhile during fun u hu => banksOk_deadlineExpires (hs u hu) bk seq _ sense⟩
  | headTimerExpiry bk sense during =>
    exact ⟨_, rfl, banksOk_meanwhile during fun u hu =>
      banksOk_onTimer (hs u hu) _ bk sense fun t _ => banksOk_grantCheck (hexpired u hu t bk sense) bk⟩
  | settleExpiry bk during => exact ⟨_, rfl, banksOk_meanwhile during fun u hu => banksOk_settleExpires (hs u hu) bk⟩
  | capExpiry bk sense during =>
    exact ⟨_, rfl, banksOk_meanwhile during fun u hu =>
      banksOk_onTimer (hs u hu) _ bk sense fun t _ => banksOk_endHolder (hexpired u hu t bk sense) bk _⟩
  | durationExpiry bk sense during =>
    exact ⟨_, rfl, banksOk_meanwhile during fun u hu => banksOk_durationExpires (hs u hu) bk sense⟩
  | riseLimitExpiry bk sense during =>
    exact ⟨_, rfl, banksOk_meanwhile during fun u hu =>
      banksOk_onTimer (hs u hu) _ bk sense fun t _ => banksOk_endPlayed (hexpired u hu t bk sense) bk _⟩
  | freewheelExpiry bk sense during =>
    refine ⟨_, rfl, banksOk_meanwhile during fun u hu => banksOk_onTimer (hs u hu) _ bk sense fun t ht =>
      banksOk_nextPhase (hexpired u hu t bk sense) bk fun p hp => ?_⟩
    have hbank : ((u.expire t bk sense).bank bk) = s.bank bk := congrArg (Four.get · bk) hu
    simp [Bank.freewheelTimer_cond ht (hbank ▸ hp)]
  | upperInputChange bk t sense during => exact ⟨_, rfl, banksOk_meanwhile during fun u hu => banksOk_upperChange (hs u hu) bk⟩
  | lowerInputChange bk t sense during => exact ⟨_, rfl, banksOk_meanwhile during fun u hu => banksOk_lowerChange (hs u hu) bk⟩
  | shortInputChange bk t sense during => exact ⟨_, rfl, banksOk_meanwhile during fun u hu => banksOk_shortChange (hs u hu) bk⟩
  | quenchExpiry bk sense during =>
    exact ⟨_, rfl, banksOk_meanwhile during fun u hu =>
      banksOk_onTimer (hs u hu) _ bk sense fun t _ => banksOk_quenchEnd (hexpired u hu t bk sense) bk⟩
  | load arg top during =>
    exact ⟨_, rfl, banksOk_meanwhile during fun u hu => banksOk_takeRequest (hs u hu) _ fun _ =>
      banksOk_congr h (by simpa [State.beginLoad, State.idleTracker, State.changeRun, State.answer] using hu)⟩
  | loadComplete during => exact ⟨_, rfl, banksOk_meanwhile during fun u hu => banksOk_loadPasses (hs u hu)⟩
  | loadFail during => exact ⟨_, rfl, banksOk_meanwhile during fun u hu => banksOk_loadFails (hs u hu)⟩
  | run arg top during =>
    exact ⟨_, rfl, banksOk_meanwhile during fun u hu =>
      banksOk_takeRequest (hs u hu) _ fun _ => banksOk_beginRun (hs _ (by exact hu))⟩
  | stop arg top t sense during => exact ⟨_, rfl, banksOk_meanwhile during fun u hu => banksOk_takeStop (hs u hu) arg top⟩
  | inhibit arg top => exact ⟨_, rfl, banksOk_takeRequest h _ fun _ => hs _ rfl⟩
  | release arg top during => exact ⟨_, rfl, banksOk_meanwhile during fun u hu => banksOk_takeRelease (hs u hu) arg top⟩
  | service arg top t sense during =>
    exact ⟨_, rfl, banksOk_meanwhile during fun u hu => banksOk_takeService (hs u hu) arg top sense⟩
  | softReset arg top => exact ⟨_, rfl, banksOk_takeSoftReset h arg top⟩
  | paritySense arg top => exact ⟨_, rfl, banksOk_takeRequest h _ fun _ => hs _ rfl⟩
  | undefinedRequest code arg top => exact ⟨_, rfl, banksOk_takeRequest h _ nofun⟩
  | eventRead => exact ⟨_, rfl, banksOk_takeRead h rfl⟩
  | eventMaskWrite mask => exact ⟨_, rfl, banksOk_takeWrite h rfl⟩
  | registerWriteIgnored reg data => exact ⟨_, rfl, h⟩
  | hostMemoryWrite addr data => exact ⟨_, rfl, banksOk_takeWrite h (State.hostWrite_banks _ _ s)⟩
  | hostMemoryRead addr => exact ⟨_, rfl, banksOk_takeRead h (State.hostRead_banks _ s)⟩
  | powerOnReset => exact ⟨_, rfl, banksOk_congr (banksOk_resetBlocks .power s) rfl⟩
  | powerOnResetEnd =>
    simp only [exec, execPowerOnResetEnd]
    split <;> exact ⟨_, rfl, hs _ rfl⟩
  | pinReset => exact ⟨_, rfl, banksOk_assertReset s⟩
  | pinResetRelease => exact ⟨_, rfl, hs _ rfl⟩

/-- Settles O4: the front command keeps the rules (`exec_banksOk`), and a tick of the time base leaves the banks alone. -/
theorem stepKeepsBankRules : Obligations.StepKeepsBankRules := by
  intro s t h ht
  unfold step at ht
  split at ht
  · rename_i c rest _
    obtain ⟨u, hu, hok⟩ := exec_banksOk (s := s.setPending rest) c (banksOk_congr h rfl)
    obtain rfl := Host.Outcome.next.inj (hu.symm.trans ht)
    exact hok
  · obtain rfl := Host.Outcome.next.inj ht
    exact banksOk_congr h rfl

end Sys2Proof.Machine

/-! # The end of a played pulse, step by step

A played pulse that ends has its results fixed and counted, meets the cap, and leaves its channel in QUENCH (`State.inQuench`);
there it stays, or its quench ends at its own entry (R113 to R115). -/

namespace Sys2Proof.Machine

section
variable {s t u : State} {k : CylId} {bk : BankId}

/-! ## Banks of which a drop or a count changes no more than the lists -/

/-- A bank is as before but for its wait list, the head timer and the conflict count. -/
def Bank.relisted (x y : Bank) : Prop := ∃ w a c, y = { x with waiting := w, headAt := a, conflicts := c }

/-- Every bank is as before but for its wait list, the head timer and the conflict count. -/
def State.relisted (s t : State) : Prop := ∀ j, (s.bank j).relisted (t.bank j)

theorem State.relisted_of_banks (h : t.banks = s.banks) : s.relisted t := fun j =>
  ⟨(s.bank j).waiting, (s.bank j).headAt, (s.bank j).conflicts, by rw [State.bank, h]; rfl⟩

theorem State.relisted.trans (h : s.relisted t) (g : t.relisted u) : s.relisted u := fun j => by
  obtain ⟨_, _, _, hx⟩ := h j
  obtain ⟨w, a, c, hy⟩ := g j
  exact ⟨w, a, c, by rw [hy, hx]⟩

theorem State.relisted_withdraw (s : State) (reach : CylId → Bool) (o : PulseOutcome) : s.relisted (s.withdraw reach o) :=
  fun j => ⟨_, _, (s.bank j).conflicts, s.withdraw_bank reach o j⟩

theorem State.relisted_conflict (s : State) (bk : BankId) : s.relisted (s.conflict bk) := fun j => by
  rw [State.conflict_eq]
  by_cases hj : j = bk
  · subst hj
    exact ⟨_, _, _, Four.get_set_same _ _ _⟩
  · exact ⟨_, _, _, Four.get_set_ne _ _ hj⟩

theorem State.relisted_conflicts (bk : BankId) (n : Nat) : ∀ s : State, s.relisted (s.conflicts bk n) := by
  induction n with
  | zero => exact fun s => State.relisted_of_banks rfl
  | succ n ih => exact fun s => (s.relisted_conflict bk).trans (ih _)

theorem State.relisted_capCheck (s : State) (k : CylId) (seq : Word) (o : PulseOutcome) : s.relisted (s.capCheck k seq o) := by
  unfold State.capCheck
  split
  · split
    · exact (s.relisted_withdraw _ _).trans (State.relisted_conflicts _ _ _)
    · exact State.relisted_of_banks rfl
  · exact State.relisted_of_banks rfl

theorem State.relisted_quarantineTest (s : State) (k : CylId) : s.relisted (s.quarantineTest k) := by
  unfold State.quarantineTest State.quarantine
  split
  · exact (State.relisted_of_banks (by simp)).trans (State.relisted_withdraw _ _ _)
  · exact State.relisted_of_banks rfl

theorem State.relisted_countEnd (s : State) (k : CylId) (o : PulseOutcome) : s.relisted (s.countEnd k o) := by
  unfold State.countEnd
  split
  · exact (State.relisted_of_banks (by simp)).trans (State.relisted_quarantineTest _ _)
  · exact State.relisted_of_banks (s.clearFaults_banks k)

/-! ## The fault counts -/

/-- A cylinder after an end that is a fault, or one that is a delivery (R118, R119). -/
def Cylinder.counted (x : Cylinder) (fault : Bool) : Cylinder :=
  { x with
    faults := if fault then x.faults + 1 else 0
    faultTotal := if fault then satCount x.faultTotal else x.faultTotal }

/-- The words of the counts that an end changes (R118, R119). -/
def countedWords (k : CylId) (x : Cylinder) (fault : Bool) : List (Nat × Word) :=
  [(0x1C0 + 16 * (k.number - 1) + 8, BitVec.ofNat 16 x.faults)]
    ++ (if fault then [(0x1C0 + 16 * (k.number - 1) + 14, x.faultTotal)] else [])

/-- The state after a fault or a delivery has been counted, without the quarantine test (R118, R119). -/
def State.counted (s : State) (k : CylId) (fault : Bool) : State :=
  { s with
    cyls := s.cyls.set k ((s.cyl k).counted fault)
    ev := { s.ev with sticky := s.ev.sticky ||| (if fault then 0x0080 else 0) }
    mem := s.mem.mirror s.sb.live (countedWords k ((s.cyl k).counted fault) fault) }

theorem State.clearFaults_eq (s : State) (k : CylId) : s.clearFaults k = s.counted k false := by
  have hsticky : s.ev.sticky ||| (0 : Word) = s.ev.sticky := BitVec.or_zero
  simp only [State.clearFaults, State.statusAll_eq, State.counted, Cylinder.counted, Bool.false_eq_true, if_false, hsticky]
  rfl

theorem State.countFault_eq (hf : (s.cyl k).faults < 255) : s.countFault k = (s.counted k true).quarantineTest k := by
  have hlow : lowByte ((s.cyl k).faults + 1) = BitVec.ofNat 16 ((s.cyl k).faults + 1) := by
    rw [lowByte, Nat.mod_eq_of_lt (by omega)]
  unfold State.countFault
  simp only [State.statusAll_eq, faultWords, hlow]
  rfl

/-- An end that quarantines nobody is counted, and that is all (R118 to R120). -/
theorem State.countEnd_eq {o : PulseOutcome}
    (hf : o.isFault = true → (s.cyl k).faults < 255 ∧ (s.cyl k).faults + 1 < s.faultLimit) :
    s.countEnd k o = s.counted k o.isFault := by
  unfold State.countEnd
  cases ho : o.isFault with
  | false => exact s.clearFaults_eq k
  | true =>
    obtain ⟨hbyte, hlimit⟩ := hf ho
    have htest : (s.counted k true).quarantineTest k = s.counted k true := by
      refine if_neg (Nat.not_le.2 ?_)
      show ((s.counted k true).cyl k).faults < s.faultLimit
      simpa [State.counted, State.cyl, Cylinder.counted] using hlimit
    rw [if_pos rfl, State.countFault_eq hbyte, htest]

/-! ## The cap -/

/-- An end whose event stays below the cap drops nothing (R97). -/
theorem State.capCheck_below {e : Event} {seq : Word} {o : PulseOutcome} (he : (s.cyl k).event = some e) (hq : e.seq = seq)
    (ho : o ≠ .capped) (hd : e.drive < e.snap.driveMax) : s.capCheck k seq o = s := by
  have hnot : ¬ (o = .capped ∨ e.snap.driveMax ≤ e.drive) := by
    rintro (h | h)
    · exact ho h
    · omega
  simp [State.capCheck, State.eventOf, he, hq, hnot]

/-! ## The channel in QUENCH -/

/-- The state after steps 1 to 6 of R113: the results are fixed and counted, and the cap has been met. -/
def State.endCounted (bk : BankId) (p : Player) (o : PulseOutcome) (s : State) : State :=
  ((s.fixEnd bk p o).countEnd p.cyl o).capPlayed p o

/-- The state after a pulse of player `p` has ended, its quench expiry set (R113, R115). -/
def State.inQuench (bk : BankId) (p : Player) (o : PulseOutcome) (s : State) : State :=
  (s.endCounted bk p o).setBank bk { (s.endCounted bk p o).bank bk with channel := some (p.ended o s.now) }

/-- The bank of a played pulse at its end, before the quench begins (R113). -/
theorem State.fixEnd_bank (s : State) (bk : BankId) (p : Player) (o : PulseOutcome) : (s.fixEnd bk p o).bank bk =
    { s.bank bk with
      mode := .quench
      channel := some { p with cond := .quench, phaseTimer := none, result := some (p.resultAt o s.now) }
      boostEnd := if p.cond.boostGate then some s.now else (s.bank bk).boostEnd
      capAt := none } := by
  have hb : (s.fixEnd bk p o).banks = s.banks.set bk
      { s.bank bk with
        mode := .quench
        channel := some { p with cond := .quench, phaseTimer := none, result := some (p.resultAt o s.now) }
        boostEnd := if p.cond.boostGate then some s.now else (s.bank bk).boostEnd
        capAt := none } := by
    unfold State.fixEnd State.reportEnd
    rw [State.setMode_eq, State.bank_setBank]
    cases p.job <;> simp [State.setBank, State.setBanks]
  rw [State.bank, hb, Four.get_set_same]

theorem State.endCounted_down (s : State) (bk : BankId) (p : Player) (o : PulseOutcome) : Downstream s (s.endCounted bk p o) :=
  (((Downstream.refl s).fixEnd bk p o).countEnd p.cyl o).capPlayed p o

theorem State.relisted_endCounted (s : State) (bk : BankId) (p : Player) (o : PulseOutcome) :
    (s.fixEnd bk p o).relisted (s.endCounted bk p o) := by
  refine (State.relisted_countEnd _ p.cyl o).trans ?_
  unfold State.endCounted State.capPlayed
  split
  · exact State.relisted_capCheck _ _ _ _
  · exact State.relisted_of_banks rfl

/-- What an end leaves of its bank, whatever it drops. -/
theorem State.inQuench_bank (s : State) (bk : BankId) (p : Player) (o : PulseOutcome) :
    ((s.bank bk).ended p o s.now).relisted ((s.inQuench bk p o).bank bk) := by
  obtain ⟨w, a, c, h⟩ := s.relisted_endCounted bk p o bk
  exact ⟨w, a, c, by rw [State.inQuench, State.bank_setBank, h, State.fixEnd_bank]; rfl⟩

theorem State.inQuench_down (s : State) (bk : BankId) (p : Player) (o : PulseOutcome) : Downstream s (s.inQuench bk p o) :=
  (s.endCounted_down bk p o).setBank bk _

/-- The quench of an ended pulse begins (R115). -/
theorem State.stopPlayed_eq {p : Player} (hp : (s.bank bk).channel = some p) (hq : p.cond ≠ .quench) (o : PulseOutcome) :
    s.stopPlayed bk o = (s.inQuench bk p o).quenchStanding bk p.quenchLevel := by
  have hchannel : ((s.endCounted bk p o).bank bk).channel =
      some { p with cond := .quench, phaseTimer := none, result := some (p.resultAt o s.now) } := by
    obtain ⟨w, a, c, h⟩ := s.relisted_endCounted bk p o bk
    rw [h, State.fixEnd_bank]
  unfold State.stopPlayed
  rw [hp]
  dsimp only
  rw [if_neg hq]
  show (s.endCounted bk p o).startQuench bk = _
  unfold State.startQuench
  rw [hchannel, (s.endCounted_down bk p o).now]
  rfl

/-- A pulse whose current is not below QUENCH_LEVEL ends in a quench that runs on (R115). -/
theorem State.endPlayed_of_playing {p : Player} (h : Playing s bk p (s.pins.sense.get bk)) (o : PulseOutcome) :
    s.stopPlayed bk o = s.inQuench bk p o ∧ s.endPlayed bk o = s.inQuench bk p o := by
  have hstop : s.stopPlayed bk o = s.inQuench bk p o := by
    refine (State.stopPlayed_eq h.channel h.phase o).trans (if_neg ?_)
    rw [State.senseOf, (s.inQuench_down bk p o).pins]
    simp [senseUnder, h.current]
  refine ⟨hstop, ?_⟩
  unfold State.endPlayed
  rw [h.channel]
  dsimp only
  rw [hstop, if_neg]
  obtain ⟨w, a, c, hb⟩ := s.inQuench_bank bk p o
  rw [hb]
  exact Bool.false_ne_true

/-- A bank whose quench is over has no player (R116). -/
theorem State.quenchOver_channel {p : Player} (hp : (s.bank bk).channel = some p) : ((s.quenchOver bk).bank bk).channel = none := by
  have hfree : ∀ v : State, (((v.freeBank bk).headCheck bk).bank bk).channel = none := fun v => by
    rw [State.headCheck_eq, State.bank_setBank, State.freeBank, State.release, State.setMode_eq]
    simp only [State.bank, State.setBank, State.setBanks, Four.get_set_same, Bank.headChecked]
    rfl
  unfold State.quenchOver
  rw [hp]
  dsimp only
  split
  · exact hfree _
  · rw [State.modPulse, State.headCheck_modEvent, State.bank, State.modEvent_banks]
    exact hfree s

/-- A pulse whose current is below QUENCH_LEVEL ends in a quench that ends at its entry (R115). -/
theorem State.endPlayed_of_spent {p : Player} (h : Spent s bk p (s.pins.sense.get bk)) (o : PulseOutcome) :
    s.stopPlayed bk o = (s.inQuench bk p o).quenchOver bk ∧ s.endPlayed bk o = (s.inQuench bk p o).quenchEnd bk := by
  have hchannel : ((s.inQuench bk p o).bank bk).channel = some (p.ended o s.now) := by
    obtain ⟨w, a, c, hb⟩ := s.inQuench_bank bk p o
    rw [hb]
    rfl
  have hstop : s.stopPlayed bk o = (s.inQuench bk p o).quenchOver bk := by
    refine (State.stopPlayed_eq h.channel h.phase o).trans (if_pos ?_)
    rw [State.senseOf, (s.inQuench_down bk p o).pins]
    simp [senseUnder, h.current]
  refine ⟨hstop, ?_⟩
  unfold State.endPlayed
  rw [h.channel]
  dsimp only
  rw [hstop, State.quenchOver_channel hchannel, State.quenchEnd, hchannel]
  rfl

/-- The end of an ACTIVE holder (R100, R113). -/
theorem State.endHolder_active {h : Holder} (hh : (s.bank bk).holder = some h) (hm : (s.bank bk).mode = .active)
    (o : PulseOutcome) : s.endHolder bk o = if h.dry then s.endDry bk h o else s.endPlayed bk o := by
  simp [State.endHolder, hh, hm]

/-! ## Ends that drop nothing -/

/-- The end of an event pulse that drops nothing at the cap, nobody quarantined (R113). -/
theorem State.inQuench_uncapped {p : Player} {e : Event} {i : Nat} {kind : Kind} {d : Bool} {o : PulseOutcome}
    (hj : p.job = .event e.seq i kind d) (he : (s.cyl p.cyl).event = some e)
    (hcap : ((s.fixEnd bk p o).counted p.cyl o.isFault).capCheck p.cyl e.seq o = (s.fixEnd bk p o).counted p.cyl o.isFault)
    (hf : o.isFault = true → (s.cyl p.cyl).faults < 255 ∧ (s.cyl p.cyl).faults + 1 < s.faultLimit) :
    s.inQuench bk p o =
      { s with
        banks := s.banks.set bk ((s.bank bk).ended p o s.now)
        cyls := s.cyls.set p.cyl { (s.cyl p.cyl).counted o.isFault with
          event := some (e.ended i .quench (p.resultAt o s.now)) }
        ev := { s.ev with sticky := s.ev.sticky ||| (if o.isFault then 0x0080 else 0) }
        mem := s.mem.mirror s.sb.live
          ((0x240 + 8 * bk.index, 2) :: countedWords p.cyl ((s.cyl p.cyl).counted o.isFault) o.isFault) } := by
  let v : State := s.fixEnd bk p o
  have hv : v = _ := State.fixEnd_event (bk := bk) hj he o
  have hcyl : v.cyl p.cyl = { s.cyl p.cyl with event := some (e.ended i .quench (p.resultAt o s.now)) } := by
    rw [hv, State.cyl, Eight.get_set_same]
  have hcount : v.countEnd p.cyl o = v.counted p.cyl o.isFault :=
    State.countEnd_eq fun h => by rw [hcyl, hv]; exact hf h
  have hend : s.endCounted bk p o = v.counted p.cyl o.isFault := by
    show (v.countEnd p.cyl o).capPlayed p o = _
    rw [hcount, State.capPlayed, hj]
    exact hcap
  rw [State.inQuench, hend, State.counted, hcyl, hv]
  simp only [State.setBank, State.setBanks, State.bank, Four.get_set_same, Four.set_set, Eight.set_set, Memory.mirror_mirror]
  rfl

/-- The end of an event pulse below the cap (R113). -/
theorem State.inQuench_event {p : Player} {e : Event} {i : Nat} {kind : Kind} {d : Bool} {o : PulseOutcome}
    (hj : p.job = .event e.seq i kind d) (he : (s.cyl p.cyl).event = some e) (ho : o ≠ .capped)
    (hd : e.drive + Time.since s.now p.grantedAt < e.snap.driveMax)
    (hf : o.isFault = true → (s.cyl p.cyl).faults < 255 ∧ (s.cyl p.cyl).faults + 1 < s.faultLimit) :
    s.inQuench bk p o =
      { s with
        banks := s.banks.set bk ((s.bank bk).ended p o s.now)
        cyls := s.cyls.set p.cyl { (s.cyl p.cyl).counted o.isFault with
          event := some (e.ended i .quench (p.resultAt o s.now)) }
        ev := { s.ev with sticky := s.ev.sticky ||| (if o.isFault then 0x0080 else 0) }
        mem := s.mem.mirror s.sb.live
          ((0x240 + 8 * bk.index, 2) :: countedWords p.cyl ((s.cyl p.cyl).counted o.isFault) o.isFault) } := by
  refine State.inQuench_uncapped hj he (State.capCheck_below (e := e.ended i .quench (p.resultAt o s.now)) ?_ rfl ho hd) hf
  rw [State.fixEnd_event (bk := bk) hj he o]
  simp [State.counted, State.cyl, Cylinder.counted]

/-- The end of the service pulse, nobody quarantined (R113, R123). -/
theorem State.inQuench_service {p : Player} {f : Nat} {o : PulseOutcome} (hj : p.job = .service f)
    (hf : o.isFault = true → (s.cyl p.cyl).faults < 255 ∧ (s.cyl p.cyl).faults + 1 < s.faultLimit) :
    s.inQuench bk p o =
      { s with
        banks := s.banks.set bk ((s.bank bk).ended p o s.now)
        cyls := s.cyls.set p.cyl ((s.cyl p.cyl).counted o.isFault)
        ev := { s.ev with sticky := s.ev.sticky ||| (if o.isFault then 0x0080 else 0) }
        mem := s.mem.mirror s.sb.live
          ((0x240 + 8 * bk.index, 2) :: countedWords p.cyl ((s.cyl p.cyl).counted o.isFault) o.isFault) } := by
  have hfix : s.fixEnd bk p o =
      { s with
        banks := s.banks.set bk { s.bank bk with
          mode := .quench
          channel := some { p with cond := .quench, phaseTimer := none, result := some (p.resultAt o s.now) }
          boostEnd := if p.cond.boostGate then some s.now else (s.bank bk).boostEnd
          capAt := none }
        mem := s.mem.mirror s.sb.live [(0x240 + 8 * bk.index, 2)] } := by
    rw [State.fixEnd, State.reportEnd, hj, State.setMode_eq, State.bank_setBank]
    simp [State.setBank, State.setBanks, BankMode.code]
  have hend : s.endCounted bk p o = (s.fixEnd bk p o).counted p.cyl o.isFault := by
    rw [State.endCounted, State.countEnd_eq (by rw [hfix]; exact hf), State.capPlayed, hj]
  rw [State.inQuench, hend, State.counted, hfix]
  simp only [State.setBank, State.setBanks, State.bank, Four.get_set_same, Four.set_set, Memory.mirror_mirror]
  rfl

end

end Sys2Proof.Machine

/-! # Duration expiries -/

namespace Sys2Proof.Machine

section
variable {s : State} {bk : BankId}

/-! ## The end of a dry holder -/

/-- A release and its head check change the bank, and its word (R83, R89). -/
theorem State.release_eq (s : State) (bk : BankId) : ∃ a, (s.release bk).headCheck bk =
    { s with
      banks := s.banks.set bk { s.bank bk with
        mode := .settling, holder := none, releaseAt := some s.now
        settleAt := (s.bank bk).settleExpiry s.su.trim s.now, headAt := a }
      mem := s.mem.mirror s.sb.live [(0x240 + 8 * bk.index, 3)] } := by
  rw [State.headCheck_eq, State.release, State.setMode_eq, State.bank_setBank]
  simp only [State.bank, State.setBank, State.setBanks, Four.get_set_same, Four.set_set]
  exact ⟨_, rfl⟩

/-- A bank without a player, released with nobody waiting (R83, R95). -/
theorem State.release_idle (hc : (s.bank bk).channel = none) (hw : (s.bank bk).waiting = []) :
    (s.release bk).headCheck bk = s.bankFreed bk := by
  have hidle : s.setBank bk { s.bank bk with channel := none } = s := by
    rw [← hc]
    show { s with banks := s.banks.set bk (s.banks.get bk) } = s
    rw [Four.set_get]
  have hfree := State.freeBank_eq hw
  rwa [State.freeBank, hidle] at hfree

/-- What an end fixes of a dry holder (R98). -/
def Holder.resultAt (h : Holder) (o : PulseOutcome) (t : Time) : PulseResult := ⟨o, Time.since t h.grantedAt, 0, false⟩

/-- The state after the results of a dry holder have been fixed, before the cap is met (R98). -/
def State.dryFixed (bk : BankId) (h : Holder) (i : Nat) (e : Event) (o : PulseOutcome) (s : State) : State :=
  (s.setBank bk { s.bank bk with capAt := none, dryEndAt := none }).setCyl h.cyl { s.cyl h.cyl with
    event := some (e.ended i .resolved (h.resultAt o s.now)) }

/-- The end of a dry holder of an event in flight, in its steps (R98). -/
theorem State.stopDry_eq {h : Holder} {e : Event} {i : Nat} {kind : Kind} {d : Bool} (hj : h.job = .event e.seq i kind d)
    (he : (s.cyl h.cyl).event = some e) (o : PulseOutcome) :
    s.stopDry bk h o = ((((s.dryFixed bk h i e o).capCheck h.cyl e.seq o).release bk).headCheck bk)
      ∧ s.endDry bk h o = (s.stopDry bk h o).settle h.cyl := by
  constructor
  · unfold State.stopDry
    rw [hj]
    dsimp only
    rw [State.endInEvent_of (by exact he) rfl]
    rfl
  · unfold State.endDry
    rw [hj]

/-- The end of a dry holder below the cap, with nobody waiting (R98). -/
theorem State.stopDry_below {h : Holder} {e : Event} {i : Nat} {kind : Kind} {d : Bool} {o : PulseOutcome}
    (hj : h.job = .event e.seq i kind d) (he : (s.cyl h.cyl).event = some e) (ho : o ≠ .capped)
    (hd : e.drive + Time.since s.now h.grantedAt < e.snap.driveMax) (hc : (s.bank bk).channel = none)
    (hw : (s.bank bk).waiting = []) :
    s.stopDry bk h o =
      { s with
        banks := s.banks.set bk { (s.bank bk).released s.su.trim s.now with capAt := none, dryEndAt := none }
        cyls := s.cyls.set h.cyl { s.cyl h.cyl with event := some (e.ended i .resolved (h.resultAt o s.now)) }
        mem := s.mem.mirror s.sb.live [(0x240 + 8 * bk.index, 3)] } := by
  have hevent : ((s.dryFixed bk h i e o).cyl h.cyl).event = some (e.ended i .resolved (h.resultAt o s.now)) :=
    congrArg Cylinder.event (Eight.get_set_same _ _ _)
  have hbank : (s.dryFixed bk h i e o).bank bk = { s.bank bk with capAt := none, dryEndAt := none } := Four.get_set_same _ _ _
  have hcap : (s.dryFixed bk h i e o).capCheck h.cyl e.seq o = s.dryFixed bk h i e o := State.capCheck_below hevent rfl ho hd
  rw [(State.stopDry_eq hj he o).1, hcap,
    State.release_idle (by rw [hbank]; exact hc) (by rw [hbank]; exact hw), State.bankFreed, hbank]
  simp only [State.dryFixed, State.setCyl, State.setCyls, State.setBank, State.setBanks, Four.set_set]
  rfl

/-- The same end, other pulses of the event going on (R77, R98). -/
theorem State.endDry_below {h : Holder} {e : Event} {i : Nat} {kind : Kind} {d : Bool} {o : PulseOutcome}
    (hj : h.job = .event e.seq i kind d) (he : (s.cyl h.cyl).event = some e) (hothers : e.others i) (ho : o ≠ .capped)
    (hd : e.drive + Time.since s.now h.grantedAt < e.snap.driveMax) (hc : (s.bank bk).channel = none)
    (hw : (s.bank bk).waiting = []) : s.endDry bk h o = s.stopDry bk h o := by
  rw [(State.stopDry_eq hj he o).2, State.stopDry_below hj he ho hd hc hw]
  exact State.settle_unresolved (congrArg Cylinder.event (Eight.get_set_same _ _ _)) (hothers.modPulses _)

/-! ## The command -/

/-- A played pulse whose duration expires ends FIRED (R111). -/
theorem State.exec_durationExpiry_played {p : Player} (hp : (s.bank bk).channel = some p) (hq : p.cond ≠ .quench)
    (sense : BankSense) :
    exec (.durationExpiry bk sense []) s = .next ((s.expire p.durationAt bk sense).endPlayed bk .fired) := by
  have htimer : (s.bank bk).durationTimer = some p.durationAt := by
    unfold Bank.durationTimer
    rw [hp]
    exact if_neg hq
  show Host.Outcome.next (s.durationExpires bk sense) = _
  unfold State.durationExpires
  rw [htimer]

/-- Without a player that plays, the command is the dry holder's end, where one runs. -/
theorem State.exec_durationExpiry_dry (hq : ∀ p, (s.bank bk).channel = some p → p.cond = .quench) (sense : BankSense) :
    exec (.durationExpiry bk sense []) s =
      .next (s.onTimer (s.bank bk).dryEndAt bk sense (State.endHolder bk .fired)) := by
  have htimer : (s.bank bk).durationTimer = none := by
    unfold Bank.durationTimer
    cases hp : (s.bank bk).channel with
    | none => rfl
    | some p => exact if_pos (hq p hp)
  show Host.Outcome.next (s.durationExpires bk sense) = _
  unfold State.durationExpires
  rw [htimer]

/-- The bank as an expiry senses it. -/
theorem State.expire_playing {p : Player} {sense : BankSense} (h : Playing s bk p sense) (t : Time) :
    Playing (s.expire t bk sense) bk p ((s.expire t bk sense).pins.sense.get bk) :=
  ⟨h.channel, h.phase, by simpa [State.expire] using h.current⟩

theorem State.expire_spent {p : Player} {sense : BankSense} (h : Spent s bk p sense) (t : Time) :
    Spent (s.expire t bk sense) bk p ((s.expire t bk sense).pins.sense.get bk) :=
  ⟨h.channel, h.phase, by simpa [State.expire] using h.current⟩

end

/-- Settles O42. -/
theorem durationExpiry : Obligations.DurationExpiry := by
  refine ⟨fun s bk sense p h => ?_, fun s bk sense hq hd => ?_,
    fun s bk sense t h seq i kind e ht hc hh hm hj he hs ho hd hw => ?_⟩
  · have hexec := State.exec_durationExpiry_played h.channel h.phase sense
    rw [(State.endPlayed_of_playing (s.expire_playing h p.durationAt) .fired).2] at hexec
    have hsticky : (s.expire p.durationAt bk sense).ev.sticky ||| (0 : Word) = s.ev.sticky := BitVec.or_zero
    have hshown : Memory.Shown s.sb.live [(0x240 + 8 * bk.index, 2), (0x1C0 + 16 * (p.cyl.number - 1) + 8, 0)] s.mem
        (s.mem.mirror s.sb.live [(0x240 + 8 * bk.index, 2), (0x1C0 + 16 * (p.cyl.number - 1) + 8, 0)]) := by
      have := CylId.number_pos p.cyl
      have hindex : bk.index ≤ 3 := by cases bk <;> decide
      refine s.mem.shown_of s.sb.live ?_ ?_
      · simp
        omega
      · simp [memBytes]
        omega
    refine ⟨fun seq i kind d e hj he hs hd => ⟨_, ?_, hshown⟩, fun f hj => ⟨_, ?_, hshown⟩⟩
    · subst hs
      rw [hexec, State.inQuench_event (s := s.expire p.durationAt bk sense) (o := .fired) hj he nofun hd
        (fun h : false = true => nomatch h)]
      simp only [PulseOutcome.isFault, Bool.false_eq_true, if_false, hsticky]
      rfl
    · rw [hexec, State.inQuench_service (o := .fired) hj (fun h : false = true => nomatch h)]
      simp only [PulseOutcome.isFault, Bool.false_eq_true, if_false, hsticky]
      rfl
  · rw [State.exec_durationExpiry_dry hq, hd]
    rfl
  · subst hs
    have hend : exec (.durationExpiry bk sense []) s = .next ((s.expire t bk sense).endDry bk h .fired) := by
      rw [State.exec_durationExpiry_dry (by simp [hc]), ht]
      show Host.Outcome.next ((s.expire t bk sense).endHolder bk .fired) = _
      rw [State.endHolder_active (s := s.expire t bk sense) hh hm, Holder.dry, hj]
      rfl
    refine ⟨_, ?_, Memory.mirror_again s.sb.live (0x240 + 8 * bk.index) [] 3 s.mem (by cases bk <;> decide)⟩
    rw [hend, State.endDry_below (s := s.expire t bk sense) hj he ho (by decide) hd hc hw,
      State.stopDry_below (s := s.expire t bk sense) hj he (by decide) hd hc hw]
    rfl

end Sys2Proof.Machine

/-! # Ends in a fault, and the quarantine -/

namespace Sys2Proof.Machine

section
variable {s : State} {k : CylId} {bk : BankId}

/-- A drop that reaches one cylinder leaves the others. -/
theorem State.withdraw_cyl_ne (s : State) {j : CylId} (hj : j ≠ k) (x : PulseOutcome) :
    (s.withdraw (· == k) x).cyl j = s.cyl j := by
  simp [State.withdraw, State.cyl, hj]

/-! ## The quarantine -/

/-- The cylinder is quarantined before its pulses are dropped (R120). -/
theorem State.quarantine_eq (s : State) (k : CylId) : s.quarantine k =
    State.withdraw (· == k) .quarantineDrop { s with
      cyls := s.cyls.set k { s.cyl k with quarantined := true }
      ev := { s.ev with sticky := s.ev.sticky ||| 0x0100 }
      mem := s.mem.mirror s.sb.live (cylStateWords k { s.cyl k with quarantined := true }) } := by
  unfold State.quarantine
  simp only [State.statusAll_eq]
  rfl

/-- The end of an event pulse whose fault quarantines its cylinder, below the cap (R113, R118, R120). -/
theorem State.inQuench_quarantine {p : Player} {e : Event} {i : Nat} {kind : Kind} {d : Bool} {o : PulseOutcome}
    (hj : p.job = .event e.seq i kind d) (he : (s.cyl p.cyl).event = some e) (ho : o ≠ .capped) (hfault : o.isFault = true)
    (hd : e.drive + Time.since s.now p.grantedAt < e.snap.driveMax) (hbyte : (s.cyl p.cyl).faults < 255)
    (hf : s.faultLimit ≤ (s.cyl p.cyl).faults + 1) :
    (s.inQuench bk p o).cyl p.cyl = { (s.cyl p.cyl).counted true with
        quarantined := true
        event := some ((e.ended i .quench (p.resultAt o s.now)).dropped s.now .quarantineDrop) }
      ∧ (s.inQuench bk p o).ev.sticky = s.ev.sticky ||| 0x0080 ||| 0x0100
      ∧ (s.inQuench bk p o).unlisted p.cyl ∧ ∀ j, j ≠ p.cyl → (s.inQuench bk p o).cyl j = s.cyl j := by
  let v : State := (s.fixEnd bk p o).counted p.cyl true
  have hv : v = (s.fixEnd bk p o).counted p.cyl true := rfl
  rw [State.fixEnd_event (bk := bk) hj he o] at hv
  have hvcyl : v.cyl p.cyl =
      { (s.cyl p.cyl).counted true with event := some (e.ended i .quench (p.resultAt o s.now)) } := by
    rw [hv]
    simp [State.counted, State.cyl, Cylinder.counted]
  have hcount : (s.fixEnd bk p o).countEnd p.cyl o = v.quarantine p.cyl := by
    rw [State.countEnd, if_pos hfault, State.countFault_eq (by
      rw [State.fixEnd_event hj he o, State.cyl, Eight.get_set_same]
      exact hbyte)]
    refine if_pos ?_
    rw [hvcyl]
    show v.faultLimit ≤ _
    rw [hv]
    exact hf
  have hcyl : (v.quarantine p.cyl).cyl p.cyl = { (s.cyl p.cyl).counted true with
      quarantined := true
      event := some ((e.ended i .quench (p.resultAt o s.now)).dropped s.now .quarantineDrop) } := by
    rw [State.quarantine_eq, State.withdraw_cyl (e := e.ended i .quench (p.resultAt o s.now))
      (by rw [State.cyl, Eight.get_set_same, hvcyl]), State.cyl, Eight.get_set_same, hvcyl, hv]
    rfl
  have hend : s.endCounted bk p o = v.quarantine p.cyl := by
    rw [State.endCounted, hcount, State.capPlayed, hj]
    exact State.capCheck_below (congrArg Cylinder.event hcyl) rfl ho hd
  have hquench : (s.inQuench bk p o) = (v.quarantine p.cyl).setBank bk
      { (v.quarantine p.cyl).bank bk with channel := some (p.ended o s.now) } := by
    rw [State.inQuench, hend]
  rw [hquench]
  refine ⟨hcyl, ?_, ?_, fun j hj' => ?_⟩
  · rw [State.quarantine_eq, hv]
    rfl
  · refine State.unlisted.of_set (s := v.quarantine p.cyl) ?_ rfl rfl rfl
    rw [State.quarantine_eq]
    exact State.withdraw_unlisted _ _ _
  · show (v.quarantine p.cyl).cyl j = s.cyl j
    rw [State.quarantine_eq, State.withdraw_cyl_ne _ hj', hv]
    simp [State.counted, State.cyl, Eight.get_set_ne _ _ hj']

/-! ## The commands -/

/-- A player whose phase timer may have stopped. -/
def State.withPlayer (s : State) (bk : BankId) (q : Player) : State := s.setBank bk { s.bank bk with channel := some q }

theorem State.withPlayer_self {p : Player} (hp : (s.bank bk).channel = some p) : s.withPlayer bk p = s := by
  unfold State.withPlayer
  rw [← hp]
  show { s with banks := s.banks.set bk (s.banks.get bk) } = s
  rw [Four.set_get]

theorem State.withPlayer_playing {p q : Player} (h : Playing s bk p (s.pins.sense.get bk)) (hc : q.cond = p.cond)
    (hl : q.quenchLevel = p.quenchLevel) : Playing (s.withPlayer bk q) bk q ((s.withPlayer bk q).pins.sense.get bk) :=
  ⟨by rw [State.withPlayer, State.bank_setBank], hc ▸ h.phase, hl ▸ h.current⟩

/-- A short report that stands at the entry of HOLD or of a FREEWHEEL ends the pulse there (R109, R110, R112). -/
theorem playFrom_short {p : Player} {sense : BankSense} {l : List Ramp} (hs : p.shortLevel ≤ sense.current.toNat)
    (hl : l = [] ∨ ∃ time rest, time ≠ 0 ∧ l = .freewheel time :: rest) (t : Time) (m : PlayMarks) :
    playFrom p sense t l m = (m, .short) := by
  rcases hl with rfl | ⟨time, rest, htime, rfl⟩
  · simp [playFrom, senseAtLeast, hs]
  · simp [playFrom, senseAtLeast, hs, htime]

/-- Such an entry, in the state (R112). -/
theorem State.enterPhase_short {p : Player} {n : Nat} (hp : (s.bank bk).channel = some p)
    (hs : p.shortLevel ≤ (s.pins.sense.get bk).current.toNat)
    (hl : p.profile.ramps.drop n = [] ∨ ∃ time rest, time ≠ 0 ∧ p.profile.ramps.drop n = .freewheel time :: rest) :
    s.enterPhase bk n = (s.withPlayer bk { p with phase := n, phaseTimer := none }).endPlayed bk .shortFault := by
  have hplay : s.playPhases bk p n = (⟨n, p.peak, p.boostLow, 0, s.freeCount⟩, .short) :=
    playFrom_short (by exact hs) (by
      rcases hl with h | ⟨time, rest, htime, h⟩
      · exact .inl h
      · exact .inr ⟨time, rest, htime, h⟩) _ _
  unfold State.enterPhase
  rw [hp]
  dsimp only
  rw [hplay]
  rfl

/-- The end of a rise phase at its limit (R108, R112). -/
theorem State.exec_riseLimit {t : Time} {p : Player} (hp : (s.bank bk).channel = some p) (ht : p.phaseTimer = some t)
    (hrise : (∃ b l, p.cond = .boostRise b l) ∨ ∃ l, p.cond = .batteryRise l) (sense : BankSense) :
    exec (.riseLimitExpiry bk sense []) s = .next ((s.expire t bk sense).endPlayed bk .openFault) := by
  have htimer : (s.bank bk).riseTimer = some t := by
    unfold Bank.riseTimer
    rw [hp]
    rcases hrise with ⟨b, l, hc⟩ | ⟨l, hc⟩
    · simp [hc, ChannelCond.isRise, ht]
    · simp [hc, ChannelCond.isRise, ht]
  show Host.Outcome.next (s.onTimer (s.bank bk).riseTimer bk sense (State.endPlayed bk .openFault)) = _
  rw [htimer]
  rfl

/-- What the three commands of an end in a fault come to: the pulse of a player `p'` with some phase timer ends. -/
theorem State.exec_fault {c : Instr} {o : PulseOutcome} {t : Time} {sense : BankSense} {p p' : Player}
    (h : Playing s bk p sense)
    (hc : (c = .riseLimitExpiry bk sense [] ∧ o = .openFault ∧ p.phaseTimer = some t ∧ p' = p
        ∧ ((∃ b l, p.cond = .boostRise b l) ∨ ∃ l, p.cond = .batteryRise l))
      ∨ (c = .shortInputChange bk t sense [] ∧ o = .shortFault ∧ p.shortLevel ≤ sense.current.toNat ∧ p' = p)
      ∨ (c = .freewheelExpiry bk sense [] ∧ o = .shortFault ∧ p.shortLevel ≤ sense.current.toNat ∧ p.cond = .freewheel
        ∧ p.phaseTimer = some t ∧ p' = { p with phase := p.phase + 1 }
        ∧ (p.profile.ramps.drop (p.phase + 1) = []
          ∨ ∃ time l, time ≠ 0 ∧ p.profile.ramps.drop (p.phase + 1) = .freewheel time :: l))) :
    o ≠ .capped ∧ o.isFault = true ∧ ∃ n x, p' = { p with phase := n }
      ∧ exec c s = .next (((s.expire t bk sense).withPlayer bk { p with phase := n, phaseTimer := x }).endPlayed bk o) := by
  rcases hc with ⟨rfl, rfl, ht, rfl, hrise⟩ | ⟨rfl, rfl, hs, rfl⟩ | ⟨rfl, rfl, hs, hc, ht, rfl, hl⟩
  · refine ⟨nofun, rfl, p'.phase, p'.phaseTimer, rfl, ?_⟩
    rw [State.withPlayer_self (s := s.expire t bk sense) h.channel]
    exact State.exec_riseLimit h.channel ht hrise sense
  · refine ⟨nofun, rfl, p'.phase, p'.phaseTimer, rfl, ?_⟩
    have hshort : senseAtLeast ((s.expire t bk sense).senseOf bk) p'.shortLevel = true := by
      simp [State.senseOf, State.expire, senseAtLeast, hs]
    rw [State.withPlayer_self (s := s.expire t bk sense) h.channel]
    show Host.Outcome.next ((s.expire t bk sense).shortChange bk) = _
    unfold State.shortChange
    rw [show ((s.expire t bk sense).bank bk).channel = some p' from h.channel]
    dsimp only
    rw [if_pos hshort]
  · refine ⟨nofun, rfl, p.phase + 1, none, rfl, ?_⟩
    have htimer : (s.bank bk).freewheelTimer = some t := by simp [Bank.freewheelTimer, h.channel, hc, ht]
    show Host.Outcome.next (s.onTimer (s.bank bk).freewheelTimer bk sense (State.nextPhase bk)) = _
    rw [htimer]
    show Host.Outcome.next ((s.expire t bk sense).nextPhase bk) = _
    unfold State.nextPhase
    rw [show ((s.expire t bk sense).bank bk).channel = some p from h.channel]
    exact congrArg Host.Outcome.next
      (State.enterPhase_short (s := s.expire t bk sense) h.channel (by simpa [State.expire] using hs) hl)

end

/-- Settles O43: below FAULT_LIMIT the end is counted and that is all (`State.inQuench_event`); at the limit its cylinder's pulses
are dropped besides (`State.inQuench_quarantine`). -/
theorem faultEnds : Obligations.FaultEnds := by
  intro c o t s bk sense p p' seq i kind d e q h hc hj he hs hd hbyte hq z hz
  subst hs
  obtain ⟨ho, hfault, n, x, rfl, hexec⟩ := State.exec_fault h hc
  let v : State := (s.expire t bk sense).withPlayer bk { p with phase := n, phaseTimer := x }
  have hplay : Playing v bk { p with phase := n, phaseTimer := x } (v.pins.sense.get bk) :=
    State.withPlayer_playing (s.expire_playing h t) rfl rfl
  have hended : (v.bank bk).ended { p with phase := n, phaseTimer := x } o v.now = (s.bank bk).ended { p with phase := n } o t := by
    have hbank : v.bank bk = { s.bank bk with channel := some { p with phase := n, phaseTimer := x } } := Four.get_set_same _ _ _
    rw [hbank]
    rfl
  rw [(State.endPlayed_of_playing hplay o).2] at hexec
  have hshown : ∀ w w' : Word, Memory.Shown s.sb.live [(0x240 + 8 * bk.index, 2), (q + 8, w), (q + 14, w')] s.mem
      (s.mem.mirror s.sb.live [(0x240 + 8 * bk.index, 2), (q + 8, w), (q + 14, w')]) := fun w w' => by
    subst hq
    have := CylId.number_pos p.cyl
    have hindex : bk.index ≤ 3 := by cases bk <;> decide
    refine s.mem.shown_of s.sb.live ?_ ?_
    · simp
      omega
    · simp [memBytes]
      omega
  refine ⟨fun hlimit => ⟨_, ?_, hshown _ _⟩, fun hlimit => ?_⟩
  · rw [hexec, State.inQuench_event (s := v) (p := { p with phase := n, phaseTimer := x }) hj he ho hd
      fun _ => ⟨hbyte, hlimit⟩, hended, hfault, hz]
    simp only [v, State.withPlayer, State.setBank, State.setBanks, Four.set_set]
    rw [hq]
    rfl
  · obtain ⟨hcyl, hsticky, hunlisted, hothers⟩ :=
      State.inQuench_quarantine (s := v) (bk := bk) (p := { p with phase := n, phaseTimer := x }) hj he ho hfault hd hbyte hlimit
    obtain ⟨w, a, n', hbank⟩ := v.inQuench_bank bk { p with phase := n, phaseTimer := x } o
    refine ⟨_, hexec, congrArg Cylinder.quarantined hcyl, congrArg Cylinder.faults hcyl, hsticky, ?_, ?_, ?_, hunlisted, ?_,
      hothers⟩
    · rw [hbank]
      rfl
    · rw [hbank, hended]
      rfl
    · rw [hbank, hended]
      rfl
    · rw [hz]
      exact congrArg Cylinder.event hcyl

end Sys2Proof.Machine

/-! # The availability instant, the head timer and the settle expiry -/

namespace Sys2Proof.Machine

section
variable {s : State} {bk : BankId} {r : Request} {rest : List Request}

/-- The later of two times that are there, by signed difference (R83, R85). -/
theorem latestOf_some (x y : Time) : latestOf (some x) (some y) = some (if 0 < (y - x).toInt then y else x) := by
  simp [latestOf, Time.latest, Time.later, Time.diff]

/-- A head not yet available sets its bank's head timer to its instant (R89). -/
theorem State.grantCheck_early {i : Time} (hh : (s.bank bk).holder = none) (hw : (s.bank bk).waiting = r :: rest)
    (hi : (s.bank bk).instant r = some i) (hl : Time.later i s.now = true) :
    s.grantCheck bk = s.setBank bk { s.bank bk with headAt := some i } := by
  have hreached : (s.bank bk).reached r s.now = false := by simp [Bank.reached, hi, hl]
  unfold State.grantCheck
  dsimp only
  rw [hh, hw]
  simp only [Option.isSome_none, Bool.false_eq_true, if_false, hreached, Bool.false_and]
  simp [Bank.headTimer, hw, hi]

/-- A head available within its deadline leaves the list and is granted (R89, R91). -/
theorem State.grantCheck_open (hh : (s.bank bk).holder = none) (hw : (s.bank bk).waiting = r :: rest)
    (ho : (s.bank bk).openAt r.boost r.minDwell r.recharge s.now)
    (hd : Time.since s.now r.start ≤ Time.since r.deadline r.start) :
    s.grantCheck bk = (s.setBank bk { s.bank bk with waiting := rest }).grant bk r := by
  have hin : r.inTime s.now = true := decide_eq_true hd
  unfold State.grantCheck
  dsimp only
  rw [hh, hw]
  simp [Bank.reached_of_open ho, hin]

/-- What a grant changes (R90): its bank, its pulse, and the status words of its bank. -/
theorem State.grant_changes {u : Setup} {e : Event} (hu : s.su.setup = some u) (he : (s.cyl r.cyl).event = some e)
    (hq : e.seq = r.seq) (hs : r.dry = true ∨ (s.senseOf bk).current.toNat < (u.banks.get bk).shortLevel) :
    ∃ x m, s.grant bk r =
        { s with
          banks := s.banks.set bk x
          cyls := s.cyls.set r.cyl { s.cyl r.cyl with event := some { e with
            pulses := modPulses r.index (fun p =>
              { p with cond := .active, slip := Time.since s.now r.start, startAngle := s.startAngle r.cyl }) e.pulses } }
          mem := m }
      ∧ ∃ c n, x = { (s.bank bk).grantedTo r (some (Time.add s.now (e.snap.driveMax - e.drive))) s.now with
        mode := .active, channel := c, boostLowCount := n } := by
  rw [State.grant, State.drivePulse, State.makeHolder_eq he hq]
  by_cases hdry : r.dry = true
  · rw [if_pos hdry]
    exact ⟨_, _, rfl, _, _, rfl⟩
  · have hs := hs.resolve_left hdry
    rw [if_neg hdry]
    obtain ⟨q, words, lows, heng, -⟩ := State.engage_eq u
      { s with
        banks := s.banks.set bk { (s.bank bk).grantedTo r (some (Time.add s.now (e.snap.driveMax - e.drive))) s.now with
          mode := .active }
        cyls := s.cyls.set r.cyl { s.cyl r.cyl with event := some { e with
          pulses := modPulses r.index (fun p =>
            { p with cond := .active, slip := Time.since s.now r.start, startAngle := s.startAngle r.cyl }) e.pulses } }
        mem := s.mem.mirror s.sb.live [(0x240 + 8 * bk.index, 1)] } bk
      (.event r.seq r.index r.kind r.dry) r.cyl r.profile r.duration hu hs
    rw [heng]
    simp only [Four.get_set_same, Four.set_set]
    exact ⟨_, _, rfl, some q, lows, rfl⟩

end

/-- Settles O40. -/
theorem headAndSettleTimers : Obligations.HeadAndSettleTimers := by
  refine ⟨fun x r dwell guard hd hg => ?_, fun u s bk sense t r rest e ht hh hw => ?_, fun s bk sense ht => ?_,
    fun s bk t hm ht => ?_, fun s bk hn => ?_⟩
  · have hinstant : x.instant r = latestOf dwell guard := by
      rw [hd, hg]
      unfold Bank.instant
      cases x.releaseAt <;> cases x.boostEnd <;> cases r.boost <;> rfl
    rw [hinstant]
    cases dwell with
    | none => cases guard <;> rfl
    | some d =>
      cases guard with
      | none => rfl
      | some g => exact latestOf_some d g
  · have hexec : exec (.headTimerExpiry bk sense []) s = .next ((s.expire t bk sense).grantCheck bk) := by
      show Host.Outcome.next (s.onTimer (s.bank bk).headAt bk sense (State.grantCheck bk)) = _
      rw [ht]
      rfl
    refine ⟨fun i hi hl => ?_, fun ho hd hu he hq hs => ?_⟩
    · rw [hexec, State.grantCheck_early (s := s.expire t bk sense) hh hw hi hl]
      rfl
    · rw [State.grantCheck_open (s := s.expire t bk sense) hh hw ho hd] at hexec
      obtain ⟨x, m, hgrant, c, n, hx⟩ := State.grant_changes (bk := bk)
        (s := (s.expire t bk sense).setBank bk { (s.expire t bk sense).bank bk with waiting := rest }) hu (by exact he) hq
        (hs.imp_right fun h => lt_of_eq_of_lt (congrArg (fun x : BankSense => x.current.toNat) (Four.get_set_same _ _ _)) h)
      rw [State.bank_setBank] at hx
      refine ⟨_, hexec, ?_⟩
      rw [hgrant, hx]
      have hbank := fun y : Bank => Four.get_set_same (s.banks.set bk { s.bank bk with waiting := rest }) bk y
      refine ⟨rfl, congrArg Bank.mode (hbank _), congrArg Bank.waiting (hbank _), congrArg Bank.headAt (hbank _),
        congrArg Bank.holder (hbank _), congrArg Bank.capAt (hbank _), rfl, fun j hj => ?_, rfl, rfl, rfl⟩
      exact (Four.get_set_ne _ _ hj).trans (Four.get_set_ne _ _ hj)
  · show Host.Outcome.next (s.onTimer (s.bank bk).headAt bk sense (State.grantCheck bk)) = _
    rw [ht]
    rfl
  · have htimer : (s.bank bk).settleTimer = some t := by simp [Bank.settleTimer, hm, ht]
    have hexec : exec (.settleExpiry bk []) s = .next ((s.at t).settleNow bk) := by
      show Host.Outcome.next (s.settleExpires bk) = _
      unfold State.settleExpires
      rw [htimer]
    refine ⟨_, ?_, Memory.mirror_again s.sb.live (0x240 + 8 * bk.index) [] 0 s.mem (by cases bk <;> decide)⟩
    rw [hexec, State.settleNow, State.setMode_eq, State.bank_setBank]
    simp only [State.setBank, State.setBanks, Four.set_set]
    rfl
  · have htimer : (s.bank bk).settleTimer = none := by
      unfold Bank.settleTimer
      split
      · exact hn.resolve_left fun h => h ‹_›
      · rfl
    show Host.Outcome.next (s.settleExpires bk) = _
    unfold State.settleExpires
    rw [htimer]

end Sys2Proof.Machine

/-! # Cap expiries -/

namespace Sys2Proof.Machine

section
variable {s t : State} {k : CylId} {bk : BankId}

/-! ## The drops at the cap -/

theorem Event.droppable_eq (e : Event) :
    e.droppable = (e.pulses.filter fun q => q.cond == .pending || q.cond == .armed || q.cond == .waiting).length := by
  unfold Event.droppable
  refine congrArg List.length (List.filter_congr fun q _ => ?_)
  cases q.cond <;> rfl

/-- Several conflicts in the bank, and CONFLICT (R101). -/
theorem State.conflicts_bank (s : State) (bk : BankId) (n : Nat) :
    (s.conflicts bk n).bank bk = { s.bank bk with
        conflicts := BitVec.ofNat 16 (min 65535 ((s.bank bk).conflicts.toNat + n)) }
      ∧ (n ≠ 0 → (s.conflicts bk n).ev.sticky.getLsbD 9 = true) ∧ (s.conflicts bk n).arm = s.arm
      ∧ (s.conflicts bk n).cyls = s.cyls ∧ ∀ j, ((s.conflicts bk n).bank j).waiting = (s.bank j).waiting := by
  rw [← satCount_iterate]
  by_cases hn : n = 0
  · subst hn
    exact ⟨rfl, fun h => absurd rfl h, rfl, rfl, fun _ => rfl⟩
  · rw [State.conflicts_eq bk n hn]
    refine ⟨Four.get_set_same _ _ _, fun _ => State.raise_bit _ .conflict, rfl, rfl, fun j => ?_⟩
    by_cases hj : j = bk
    · subst hj
      exact (congrArg Bank.waiting (Four.get_set_same s.banks j _)).trans rfl
    · exact congrArg Bank.waiting (Four.get_set_ne _ _ hj)

/-- Lists that are kept hold no pulse of the cylinder more. -/
theorem State.unlisted.congr (h : s.unlisted k) (ha : t.arm = s.arm) (hw : ∀ j, (t.bank j).waiting = (s.bank j).waiting) :
    t.unlisted k := by
  obtain ⟨hp, hq, hr⟩ := h
  exact ⟨ha ▸ hp, ha ▸ hq, fun j => hw j ▸ hr j⟩

/-- What the cap drops of an event that ends CAPPED (R97). -/
structure CapDropped (s y : State) (k : CylId) (e : Event) : Prop where
  cyl : y.cyl k = { s.cyl k with event := some (e.dropped s.now .capDrop) }
  conflicts : (y.bank (s.bankOf k)).conflicts =
    BitVec.ofNat 16 (min 65535 ((s.bank (s.bankOf k)).conflicts.toNat + e.droppable))
  flag : e.droppable ≠ 0 → y.ev.sticky.getLsbD 9 = true
  unlisted : y.unlisted k

theorem State.capCheck_capped {e : Event} (he : (s.cyl k).event = some e) : CapDropped s (s.capCheck k e.seq .capped) k e := by
  have hdrop : s.capCheck k e.seq .capped = (s.withdraw (· == k) .capDrop).conflicts (s.bankOf k) e.droppable := by
    simp [State.capCheck, State.eventOf, he, State.dropCapped, State.bankOf]
  obtain ⟨hbank, hflag, harm, hcyls, hw⟩ := (s.withdraw (· == k) .capDrop).conflicts_bank (s.bankOf k) e.droppable
  rw [hdrop]
  refine ⟨?_, ?_, hflag, (s.withdraw_unlisted k _).congr harm hw⟩
  · rw [State.cyl, hcyls]
    exact State.withdraw_cyl he _
  · rw [hbank, State.withdraw_bank]
    rfl

/-- The end of an event pulse at the cap: its own bank counts what the event drops (R97, R113). -/
theorem State.inQuench_capped {p : Player} {e z : Event} {i : Nat} {kind : Kind} {d : Bool}
    (hj : p.job = .event e.seq i kind d) (he : (s.cyl p.cyl).event = some e) (hbk : s.bankOf p.cyl = bk)
    (hz : z = e.ended i .quench (p.resultAt .capped s.now)) :
    ((s.inQuench bk p .capped).cyl p.cyl).event = some (z.dropped s.now .capDrop)
      ∧ ((s.inQuench bk p .capped).bank bk).conflicts =
        BitVec.ofNat 16 (min 65535 ((s.bank bk).conflicts.toNat + z.droppable))
      ∧ (z.droppable ≠ 0 → (s.inQuench bk p .capped).ev.sticky.getLsbD 9 = true)
      ∧ (s.inQuench bk p .capped).unlisted p.cyl := by
  let v : State := (s.fixEnd bk p .capped).counted p.cyl false
  have hv : v = (s.fixEnd bk p .capped).counted p.cyl false := rfl
  rw [State.fixEnd_event (bk := bk) hj he .capped, ← hz] at hv
  have hevent : (v.cyl p.cyl).event = some z := by
    rw [hv]
    simp [State.counted, State.cyl, Cylinder.counted]
  have hseq : z.seq = e.seq := by rw [hz]; rfl
  have hend : s.endCounted bk p .capped = v.capCheck p.cyl z.seq .capped := by
    have hcount : (s.fixEnd bk p .capped).countEnd p.cyl .capped = v := (State.fixEnd bk p .capped s).clearFaults_eq p.cyl
    rw [State.endCounted, hcount, State.capPlayed, hj, hseq]
  have hbk' : v.bankOf p.cyl = bk := by rw [hv]; exact hbk
  have hdropped := State.capCheck_capped hevent
  rw [State.inQuench, hend]
  refine ⟨?_, ?_, hdropped.flag, State.unlisted.of_set hdropped.unlisted rfl rfl rfl⟩
  · refine (congrArg Cylinder.event hdropped.cyl).trans ?_
    rw [hv]
    rfl
  · rw [State.bank_setBank]
    have hconflicts := hdropped.conflicts
    rw [hbk'] at hconflicts
    refine hconflicts.trans ?_
    rw [hv]
    refine (congrArg (fun x : Bank => BitVec.ofNat 16 (min 65535 (x.conflicts.toNat + z.droppable)))
      (Four.get_set_same s.banks bk _)).trans ?_
    rfl

/-- The end of a dry holder at the cap (R97, R98). -/
theorem State.endDry_capped {h : Holder} {e z : Event} {i : Nat} {kind : Kind} {d : Bool} (hj : h.job = .event e.seq i kind d)
    (he : (s.cyl h.cyl).event = some e) (hbk : s.bankOf h.cyl = bk)
    (hz : z = e.ended i .resolved (h.resultAt .capped s.now)) :
    (∃ w a x, (s.endDry bk h .capped).bank bk = { s.bank bk with
        mode := .settling, holder := none, releaseAt := some s.now, settleAt := x, capAt := none, dryEndAt := none
        waiting := w, headAt := a, conflicts := BitVec.ofNat 16 (min 65535 ((s.bank bk).conflicts.toNat + z.droppable)) })
      ∧ (s.endDry bk h .capped).judged h.cyl (z.dropped s.now .capDrop)
      ∧ (z.droppable ≠ 0 → (s.endDry bk h .capped).ev.sticky.getLsbD 9 = true) ∧ (s.endDry bk h .capped).unlisted h.cyl
      ∧ ((s.endDry bk h .capped).cyl h.cyl).faults = (s.cyl h.cyl).faults := by
  let v : State := s.dryFixed bk h i e .capped
  let w : State := v.capCheck h.cyl e.seq .capped
  have hvcyl : v.cyl h.cyl = { s.cyl h.cyl with event := some z } := hz ▸ Eight.get_set_same _ _ _
  have hseq : z.seq = e.seq := by rw [hz]; rfl
  have hdropped : CapDropped v w h.cyl z := by
    have hcap := State.capCheck_capped (congrArg Cylinder.event hvcyl)
    rwa [hseq] at hcap
  have hvbank : v.bank bk = { s.bank bk with capAt := none, dryEndAt := none } := Four.get_set_same _ _ _
  obtain ⟨l, a, n, hwbank⟩ := v.relisted_capCheck h.cyl e.seq .capped bk
  have hwconflicts := hdropped.conflicts
  rw [show v.bankOf h.cyl = bk from hbk] at hwconflicts
  have hwnow : w.now = s.now := ((Downstream.refl v).capCheck h.cyl e.seq .capped).now
  obtain ⟨x, hfree⟩ := w.release_eq bk
  let f : State := (w.release bk).headCheck bk
  have hend : s.endDry bk h .capped = f.settle h.cyl := by
    rw [(State.stopDry_eq hj he .capped).2, (State.stopDry_eq hj he .capped).1]
  have hfcyls : f.cyls = w.cyls := (congrArg State.cyls hfree).trans rfl
  have hfarm : f.arm = w.arm := (congrArg State.arm hfree).trans rfl
  have hfev : f.ev = w.ev := (congrArg State.ev hfree).trans rfl
  have hfbanks := congrArg State.banks hfree
  have hcyl : (f.settle h.cyl).cyl h.cyl = Cylinder.settled { s.cyl h.cyl with event := some (z.dropped s.now .capDrop) } := by
    rw [State.cyl, State.settle_cyls, Eight.get_set_same, State.cyl, hfcyls]
    refine congrArg Cylinder.settled (hdropped.cyl.trans ?_)
    rw [hvcyl]
    rfl
  rw [hend]
  refine ⟨⟨l, x, (w.bank bk).settleExpiry w.su.trim w.now, ?_⟩, State.judged_of_settled hcyl rfl, fun hn => ?_, ?_, ?_⟩
  · have hfbank : f.bank bk = _ := (congrArg (Four.get · bk) hfbanks).trans (Four.get_set_same w.banks bk _)
    rw [State.bank, State.settle_banks]
    refine hfbank.trans ?_
    have hn : n = BitVec.ofNat 16 (min 65535 ((s.bank bk).conflicts.toNat + z.droppable)) := by
      rw [show (w.bank bk).conflicts = n from congrArg Bank.conflicts hwbank, hvbank] at hwconflicts
      exact hwconflicts
    rw [show w.bank bk = _ from hwbank, hvbank, hwnow, hn]
  · exact ((Downstream.refl f).settle h.cyl).bit (hfev ▸ hdropped.flag hn)
  · exact State.unlisted.of_set hdropped.unlisted ((State.settle_arm _ _).trans hfarm)
      ((State.settle_banks _ _).trans hfbanks) rfl
  · rw [hcyl, Cylinder.settled_faults]

/-- The cap expiry ends the holder (R96, R97). -/
theorem State.exec_capExpiry {t : Time} (ht : (s.bank bk).capAt = some t) (sense : BankSense) :
    exec (.capExpiry bk sense []) s = .next ((s.expire t bk sense).endHolder bk .capped) := by
  show Host.Outcome.next (s.onTimer (s.bank bk).capAt bk sense (State.endHolder bk .capped)) = _
  rw [ht]
  rfl

end

/-- Settles O41. -/
theorem capExpiry : Obligations.CapExpiry := by
  refine ⟨fun s bk sense t h seq i kind d e ht hh hm hj he hs hbk n hn => ?_, fun s bk sense ht => ?_⟩
  · subst hs
    have hcount : ∀ x, n x = x.droppable := fun x => (hn x).trans x.droppable_eq.symm
    have hdry : h.dry = d := by simp [Holder.dry, hj]
    have hexec := State.exec_capExpiry ht sense
    have hend : (s.expire t bk sense).endHolder bk .capped =
        if d then (s.expire t bk sense).endDry bk h .capped else (s.expire t bk sense).endPlayed bk .capped :=
      hdry ▸ State.endHolder_active (s := s.expire t bk sense) hh hm .capped
    refine ⟨fun p hd hp hpj hpk => ?_, fun hd => ?_⟩
    · subst hd
      rw [hexec, hend, if_neg Bool.false_ne_true, (State.endPlayed_of_playing (s.expire_playing hp t) .capped).2]
      obtain ⟨hevent, hconflicts, hflag, hunlisted⟩ := State.inQuench_capped (s := s.expire t bk sense) (hpj.trans hj)
        (hpk.symm ▸ he) (hpk.symm ▸ hbk) rfl
      obtain ⟨w, a, c, hbank⟩ := (s.expire t bk sense).inQuench_bank bk p .capped
      rw [hpk] at hevent hunlisted
      refine ⟨_, _, rfl, ((s.expire t bk sense).inQuench_down bk p .capped).now, rfl, ?_, ?_, ?_, ?_, ?_, hevent, ?_, hunlisted⟩
      · rw [hbank]
        rfl
      · rw [hbank]
        exact hh
      · rw [hbank]
        rfl
      · rw [hbank]
        rfl
      · rw [hcount]
        exact hconflicts
      · rw [hcount]
        exact hflag
    · subst hd
      obtain ⟨⟨w, a, x, hbank⟩, hjudged, hflag, hunlisted, hfaults⟩ :=
        State.endDry_capped (s := s.expire t bk sense) (z := _) hj he hbk rfl
      rw [hexec, hend, if_pos rfl]
      refine ⟨_, _, rfl, ((Downstream.refl _).endDry bk h .capped).now, rfl, ?_⟩
      rw [hbank, hcount]
      exact ⟨rfl, rfl, rfl, rfl, rfl, rfl, rfl, hjudged, hflag, hunlisted, hfaults⟩
  · show Host.Outcome.next (s.onTimer (s.bank bk).capAt bk sense (State.endHolder bk .capped)) = _
    rw [ht]
    rfl

end Sys2Proof.Machine

/-! # Phase ends

The player enters the phases after the one that has ended, passes through those that end at their entry, and comes to rest in the
first that does not (R106). -/

namespace Sys2Proof.Machine

section
variable {p : Player} {sense : BankSense} {t : Time}

/-! ## Passing through phases -/

/-- The low samples of BOOST_OK among phases that are entered (R107). -/
def lowSamples (sense : BankSense) (l : List Ramp) : Nat := if sense.boostOk then 0 else (l.filter Ramp.isBoost).length

theorem lowSamples_append (sense : BankSense) (l m : List Ramp) :
    lowSamples sense (l ++ m) = lowSamples sense l + lowSamples sense m := by
  unfold lowSamples
  split
  · rfl
  · rw [List.filter_append, List.length_append]

/-- The marks after a number of low samples (R107). -/
def PlayMarks.lowered (m : PlayMarks) (n : Nat) : PlayMarks :=
  { m with boostLow := m.boostLow || decide (n ≠ 0), lows := m.lows + n }

theorem PlayMarks.lowered_zero (m : PlayMarks) : m.lowered 0 = m := by simp [PlayMarks.lowered]

theorem PlayMarks.lowered_lowered (m : PlayMarks) (n n' : Nat) : (m.lowered n).lowered n' = m.lowered (n + n') := by
  have h : (decide (n ≠ 0) || decide (n' ≠ 0)) = decide (n + n' ≠ 0) := by
    rw [← Bool.decide_or, decide_eq_decide]
    omega
  simp only [PlayMarks.lowered, Bool.or_assoc, h, Nat.add_assoc]

/-- A sample of BOOST_OK as a number of low ones (R107). -/
theorem PlayMarks.sample_eq (m : PlayMarks) (sense : BankSense) (level limit : Nat) :
    m.sample sense.boostOk = m.lowered (lowSamples sense [.boostRise level limit]) := by
  cases hb : sense.boostOk with
  | true => simp [PlayMarks.sample, lowSamples, hb, PlayMarks.lowered_zero]
  | false =>
    have hone : ([Ramp.boostRise level limit].filter Ramp.isBoost).length = 1 := rfl
    simp [PlayMarks.sample, lowSamples, hb, PlayMarks.lowered, hone]

/-- The player comes to rest in the first phase that does not end at its entry, no short report standing (R106 to R110). -/
theorem playFrom_comes {l : List Ramp} {cond : ChannelCond} {timer : Option Time} (m : PlayMarks)
    (h : Rests sense p.profile.holdUpper t l cond timer) (hs : sense.current.toNat < p.shortLevel) :
    playFrom p sense t l m = (m.lowered (lowSamples sense (l.take 1)), .rest cond timer) := by
  have hshort : senseAtLeast sense p.shortLevel = false := decide_eq_false (Nat.not_le.2 hs)
  have hzero : ∀ r : Ramp, r.isBoost = false → m.lowered (lowSamples sense [r]) = m := fun r hr => by
    rw [show lowSamples sense [r] = 0 by simp [lowSamples, hr], PlayMarks.lowered_zero]
  rcases h with ⟨rfl, rfl, rfl⟩ | ⟨time, l, rfl, htime, rfl, rfl⟩ | ⟨level, limit, l, rfl, hlow, rfl, rfl⟩
    | ⟨level, limit, l, rfl, hlow, rfl, rfl⟩
  · have hnone : m.lowered (lowSamples sense []) = m := by simp [lowSamples, PlayMarks.lowered_zero]
    have hhold : (!senseAtLeast sense p.profile.holdUpper) = decide (sense.current.toNat < p.profile.holdUpper) := by
      rw [senseAtLeast, ← decide_not, decide_eq_decide]
      exact Nat.not_le
    rw [List.take_nil, hnone, playFrom, hshort, hhold]
    rfl
  · rw [List.take_one, List.head?_cons, Option.toList_some, hzero _ rfl]
    simp [playFrom, hshort, htime]
  · have hlevel : senseAtLeast sense level = false := decide_eq_false (Nat.not_le.2 hlow)
    rw [List.take_one, List.head?_cons, Option.toList_some, hzero _ rfl]
    simp [playFrom, hshort, hlevel]
  · have hlevel : senseAtLeast sense level = false := decide_eq_false (Nat.not_le.2 hlow)
    rw [List.take_one, List.head?_cons, Option.toList_some, ← m.sample_eq sense level limit]
    simp [playFrom, hshort, hlevel]

/-- The peak time after phases that end at their entry: the first rise among them sets it (R107). -/
def peakAfter (l : List Ramp) (peak : Option Nat) (ticks : Nat) : Option Nat :=
  if ∀ r ∈ l, r = .freewheel 0 then peak else some (peak.getD ticks)

/-- A peak time that has been set stays. -/
theorem peakAfter_some (l : List Ramp) (n ticks : Nat) : peakAfter l (some n) ticks = some n := by
  unfold peakAfter
  split <;> rfl

theorem peakAfter_append (l l' : List Ramp) (peak : Option Nat) (ticks : Nat) :
    peakAfter l' (peakAfter l peak ticks) ticks = peakAfter (l ++ l') peak ticks := by
  unfold peakAfter
  simp only [List.forall_mem_append]
  by_cases h : ∀ r ∈ l, r = .freewheel 0
  · simp only [if_pos h, and_iff_right h]
  · simp only [h, false_and, if_false, Option.getD_some, ite_self]

/-- The marks after phases that end at their entry (R106, R107). -/
def PlayMarks.passed (m : PlayMarks) (sense : BankSense) (l : List Ramp) (ticks : Nat) : PlayMarks :=
  { m.lowered (lowSamples sense l) with phase := m.phase + l.length, peak := peakAfter l m.peak ticks }

theorem PlayMarks.passed_passed (m : PlayMarks) (sense : BankSense) (l l' : List Ramp) (ticks : Nat) :
    (m.passed sense l ticks).passed sense l' ticks = m.passed sense (l ++ l') ticks := by
  have hlow := m.lowered_lowered (lowSamples sense l) (lowSamples sense l')
  simp only [PlayMarks.lowered, PlayMarks.mk.injEq] at hlow
  obtain ⟨-, -, hboost, hlows, -⟩ := hlow
  simp only [PlayMarks.passed, PlayMarks.lowered, peakAfter_append, hboost, hlows, lowSamples_append, List.length_append,
    Nat.add_assoc]

/-- One phase that ends at its entry (R106, R107). -/
theorem playFrom_pass {r : Ramp} (hr : r.passes sense) (hs : sense.current.toNat < p.shortLevel) (l : List Ramp) (m : PlayMarks) :
    playFrom p sense t (r :: l) m = playFrom p sense t l (m.passed sense [r] (Time.since t p.grantedAt)) := by
  have hshort : senseAtLeast sense p.shortLevel = false := decide_eq_false (Nat.not_le.2 hs)
  rcases hr with rfl | ⟨level, limit, rfl | rfl, hlevel⟩
  · have hmarks : m.passed sense [.freewheel 0] (Time.since t p.grantedAt) = m.next false := by
      simp [PlayMarks.passed, PlayMarks.next, PlayMarks.consult, PlayMarks.lowered, peakAfter, lowSamples, Ramp.isBoost]
    simp [playFrom, hshort, PlayMarks.shortFirst, hmarks]
  · have hmarks : m.passed sense [.boostRise level limit] (Time.since t p.grantedAt) =
        ((m.sample sense.boostOk).reach (Time.since t p.grantedAt)).next false := by
      rw [m.sample_eq sense level limit]
      simp [PlayMarks.passed, PlayMarks.next, PlayMarks.consult, PlayMarks.reach, PlayMarks.lowered, peakAfter]
    have hreached : senseAtLeast sense level = true := decide_eq_true hlevel
    simp [playFrom, hshort, hreached, PlayMarks.shortFirst, hmarks]
  · have hmarks : m.passed sense [.batteryRise level limit] (Time.since t p.grantedAt) =
        (m.reach (Time.since t p.grantedAt)).next false := by
      simp [PlayMarks.passed, PlayMarks.next, PlayMarks.consult, PlayMarks.reach, PlayMarks.lowered, peakAfter, lowSamples,
        Ramp.isBoost]
    have hreached : senseAtLeast sense level = true := decide_eq_true hlevel
    simp [playFrom, hshort, hreached, PlayMarks.shortFirst, hmarks]

/-- The player passes through the phases that end at their entry, no short report standing (R106). -/
theorem playFrom_passes (hs : sense.current.toNat < p.shortLevel) (rest : List Ramp) (l : List Ramp) :
    ∀ m : PlayMarks, (∀ r ∈ l, r.passes sense) →
      playFrom p sense t (l ++ rest) m = playFrom p sense t rest (m.passed sense l (Time.since t p.grantedAt)) := by
  induction l with
  | nil =>
    intro m _
    simp [PlayMarks.passed, lowSamples, PlayMarks.lowered, peakAfter]
  | cons r l ih =>
    intro m h
    rw [List.cons_append, playFrom_pass (h r (by simp)) hs, ih _ fun q hq => h q (List.mem_cons_of_mem _ hq),
      PlayMarks.passed_passed, List.singleton_append]

end

/-! ## The phases after one that has ended -/

section
variable {s : State} {bk : BankId} {p : Player} {n : Nat} {passed rest : List Ramp} {c : ChannelCond} {timer : Option Time}

/-- The player enters a phase, passes through those that end at their entry, and comes to rest: what of the bank changes, and the
BOOST_LOW_COUNT's word at every low sample (R84, R106, R107). -/
theorem State.enterPhase_rests (hp : (s.bank bk).channel = some p) (hs : (s.pins.sense.get bk).current.toNat < p.shortLevel)
    (hl : p.profile.ramps.drop n = passed ++ rest) (hpass : ∀ r ∈ passed, r.passes (s.pins.sense.get bk))
    (hrest : Rests (s.pins.sense.get bk) p.profile.holdUpper s.now rest c timer) {lows : Nat}
    (hlows : lows = lowSamples (s.pins.sense.get bk) (passed ++ rest.take 1)) :
    s.enterPhase bk n =
      { s with
        banks := s.banks.set bk { s.bank bk with
          boostLowCount := satCount^[lows] (s.bank bk).boostLowCount
          channel := some { p with
            cond := c, phase := n + passed.length, phaseTimer := timer
            peak := peakAfter passed p.peak (Time.since s.now p.grantedAt), boostLow := p.boostLow || decide (lows ≠ 0) }
          boostEnd := if p.cond.boostGate && !c.boostGate then some s.now else (s.bank bk).boostEnd }
        mem := s.mem.mirror s.sb.live (countWords (0x240 + 8 * bk.index + 4) lows (s.bank bk).boostLowCount) } := by
  have hplay : s.playPhases bk p n = ({
      phase := n + passed.length, peak := peakAfter passed p.peak (Time.since s.now p.grantedAt)
      boostLow := p.boostLow || decide (lows ≠ 0), lows := lows, free := s.freeCount }, .rest c timer) := by
    unfold State.playPhases State.senseOf
    rw [hl, playFrom_passes hs rest passed _ hpass, playFrom_comes _ hrest hs]
    have hlow := PlayMarks.lowered_lowered ⟨n, p.peak, p.boostLow, 0, s.freeCount⟩
      (lowSamples (s.pins.sense.get bk) passed) (lowSamples (s.pins.sense.get bk) (rest.take 1))
    rw [← lowSamples_append, ← hlows] at hlow
    simp only [PlayMarks.lowered, PlayMarks.mk.injEq, Nat.zero_add] at hlow
    obtain ⟨-, -, hboost, hcount, -⟩ := hlow
    simp only [PlayMarks.passed, PlayMarks.lowered, hboost, hcount, Nat.zero_add]
  unfold State.enterPhase
  rw [hp]
  dsimp only
  rw [hplay]
  dsimp only
  rw [State.countBoostLow_eq]
  simp only [State.comeToRest, Player.mark, State.setFreeCount, State.setMem, State.setBank, State.setBanks, State.bank,
    Four.get_set_same, Four.set_set]
  rfl

/-- The report of a rise phase's level ends the phase, and sets the peak time where no rise has set it (R107). -/
theorem State.upperChange_reached {level : Nat} (hp : (s.bank bk).channel = some p)
    (hc : (∃ g, p.cond = .boostRise g level) ∨ p.cond = .batteryRise level)
    (hlevel : level ≤ (s.pins.sense.get bk).current.toNat) :
    s.upperChange bk =
      (s.withPlayer bk { p with peak := some (p.peak.getD (Time.since s.now p.grantedAt)) }).enterPhase bk (p.phase + 1) := by
  have hsense : senseAtLeast (s.senseOf bk) level = true := decide_eq_true hlevel
  have hreached : s.upperChange bk = s.levelReached bk p := by
    rcases hc with ⟨g, hc⟩ | hc
    · simp [State.upperChange, hp, hc, hsense]
    · simp [State.upperChange, hp, hc, hsense]
  rw [hreached]
  rfl

end

/-- Settles O44: the phases after the one that ends are entered in the state at the tick of its end (`State.enterPhase_rests`). -/
theorem phaseEnds : Obligations.PhaseEnds := by
  refine ⟨fun s bk sense t p passed rest c timer lows peak x z hp hs hl hpass hrest hlows hpeak hx hz => ?_,
    fun s bk sense hn => ?_⟩
  · let v : State := s.expire t bk sense
    have hsense : v.pins.sense.get bk = sense := Four.get_set_same _ _ _
    have hsum : lows = lowSamples (v.pins.sense.get bk) (passed ++ rest.take 1) := by rw [hsense, hlows]; rfl
    have hpeak : peak = peakAfter passed p.peak (Time.since t p.grantedAt) := hpeak
    have hmem : ∀ m, m = s.mem.mirror s.sb.live (countWords (0x240 + 8 * bk.index + 4) lows (s.bank bk).boostLowCount) →
        (lows = 0 → m = s.mem)
          ∧ (lows ≠ 0 → Memory.Shown s.sb.live [(0x244 + 8 * bk.index, x.boostLowCount)] s.mem m) := by
      rintro _ rfl
      refine ⟨?_, fun h => ?_⟩
      · rintro rfl
        exact Memory.mirror_nil _ _
      · have hoff : 0x240 + 8 * bk.index + 4 = 0x244 + 8 * bk.index := by omega
        rw [hx, ← satCount_iterate, hoff]
        exact Memory.mirror_count _ _ _ _ _ h (by cases bk <;> decide)
    refine ⟨fun hc ht => ⟨_, ?_, hmem _ rfl⟩, fun g level hc hlevel => ⟨_, ?_, hmem _ rfl⟩⟩
    · have htimer : (s.bank bk).freewheelTimer = some t := by simp [Bank.freewheelTimer, hp, hc, ht]
      have hexec : exec (.freewheelExpiry bk sense []) s = .next (v.enterPhase bk (p.phase + 1)) := by
        show Host.Outcome.next (s.onTimer (s.bank bk).freewheelTimer bk sense (State.nextPhase bk)) = _
        rw [htimer]
        show Host.Outcome.next (v.nextPhase bk) = _
        unfold State.nextPhase
        rw [show (v.bank bk).channel = some p from hp]
      rw [hexec, State.enterPhase_rests (s := v) hp (hsense ▸ hs) hl (hsense ▸ hpass) (hsense ▸ hrest) hsum, hz, hx, hpeak,
        ← satCount_iterate, hc]
      rfl
    · let q : Player := { p with peak := some (p.peak.getD (Time.since t p.grantedAt)) }
      have hboost : p.cond.boostGate = g := by rcases hc with h | ⟨rfl, h⟩ <;> rw [h] <;> rfl
      have hexec : exec (.upperInputChange bk t sense []) s = .next ((v.withPlayer bk q).enterPhase bk (p.phase + 1)) :=
        congrArg Host.Outcome.next (State.upperChange_reached (s := v) hp (hc.imp (⟨g, ·⟩) (·.2)) (hsense ▸ hlevel))
      have hq : ((v.withPlayer bk q).bank bk).channel = some q := congrArg Bank.channel (Four.get_set_same v.banks bk _)
      rw [hexec, State.enterPhase_rests (s := v.withPlayer bk q) hq (hsense ▸ hs) hl (hsense ▸ hpass) (hsense ▸ hrest) hsum,
        hz, hx, ← satCount_iterate, ← hboost]
      simp only [q, peakAfter_some, State.withPlayer, State.bank_setBank]
      simp only [State.setBank, State.setBanks, Four.set_set]
      rfl
  · have htimer : (s.bank bk).freewheelTimer = none := by
      unfold Bank.freewheelTimer
      cases hp : (s.bank bk).channel with
      | none => rfl
      | some p => exact if_neg (hn p hp)
    show Host.Outcome.next (s.onTimer (s.bank bk).freewheelTimer bk sense (State.nextPhase bk)) = _
    rw [htimer]
    rfl

end Sys2Proof.Machine

/-! # Requests that contend for a bank -/

namespace Sys2Proof.Machine

section
variable {s : State} {bk : BankId} {r : Request} {e : Event}

/-! ## Joining the list -/

/-- A join below the list's limit crowds nobody out (R86, R88). -/
theorem State.join_room (hl : (s.bank bk).waiting.length < 4) : s.join bk r = (s.enterList bk r).grantCheck bk := by
  have hbank : (s.enterList bk r).bank bk = (s.bank bk).listed r := by simp [State.enterList, State.bank]
  have hroom : crowdedOut ((s.enterList bk r).bank bk).waiting = none := by
    rw [hbank]
    exact if_neg (by simp only [Bank.listed, insertBy_length]; omega)
  rw [State.join, State.crowd, hroom]

/-- A join at a bank with a holder makes no grant (R89). -/
theorem State.join_held (hh : (s.bank bk).holder.isSome = true) (hl : (s.bank bk).waiting.length < 4) :
    s.join bk r = s.enterList bk r := by
  have hbank : (s.enterList bk r).bank bk = (s.bank bk).listed r := by simp [State.enterList, State.bank]
  rw [State.join_room hl, State.grantCheck_held (by rw [hbank]; exact hh)]

/-- A pulse that joins the empty list of a free bank before its instant waits with the head timer set to it (R86, R89). -/
theorem State.join_early {i : Time} (hh : (s.bank bk).holder = none) (hw : (s.bank bk).waiting = [])
    (hi : (s.bank bk).instant r = some i) (hl : Time.later i s.now = true) (he : (s.cyl r.cyl).event = some e)
    (hq : e.seq = r.seq) :
    s.join bk r =
      { s with
        banks := s.banks.set bk { s.bank bk with waiting := [r], headAt := some i }
        cyls := s.cyls.set r.cyl { s.cyl r.cyl with
          event := some { e with pulses := modPulses r.index (fun p => { p with cond := .waiting }) e.pulses } } } := by
  have hbank : ((s.enterList bk r).bank bk) = (s.bank bk).listed r := by simp [State.enterList, State.bank]
  have hnow : (s.enterList bk r).now = s.now := by rw [State.enterList_eq he hq]
  rw [State.join_room (by simp [hw]), State.grantCheck_early (r := r) (rest := []) (i := i) (by rw [hbank]; exact hh)
    (by rw [hbank]; simp [Bank.listed, hw, insertBy]) (by rw [hbank]; exact hi) (by rw [hnow]; exact hl), hbank,
    State.enterList_eq he hq]
  simp only [State.setBank, State.setBanks, Four.set_set, Bank.listed, hw]
  rfl

theorem State.relisted_slipDrop (s : State) (bk : BankId) (r : Request) (c : Bool) (t : Time) :
    s.relisted (s.slipDrop bk r c t) :=
  ((State.relisted_of_banks (State.modPulse_banks _ _ _ _ _)).trans (State.relisted_conflict _ bk)).trans
    (State.relisted_of_banks (State.settle_banks _ _))

/-- A join at a full list of a held bank removes the last of the five (R88). -/
theorem State.join_full {h : Holder} {last : Request} (hh : (s.bank bk).holder = some h)
    (hl : (s.bank bk).waiting.length = 4) (hlast : (insertBy Request.before r (s.bank bk).waiting).getLast? = some last) :
    s.join bk r =
      ((s.enterList bk r).setBank bk (((s.bank bk).listed r).remove last)).slipDrop bk last true (s.enterList bk r).now := by
  have hbank : ((s.enterList bk r).bank bk) = (s.bank bk).listed r := by simp [State.enterList, State.bank]
  have hfive : crowdedOut ((s.enterList bk r).bank bk).waiting = some last := by
    rw [hbank, crowdedOut, if_pos (by simp only [Bank.listed, insertBy_length, hl]; omega)]
    exact hlast
  rw [State.join, State.crowd, hfive]
  dsimp only
  rw [hbank]
  refine State.grantCheck_held ?_
  obtain ⟨w, a, c, hdrop⟩ := State.relisted_slipDrop
    ((s.enterList bk r).setBank bk (((s.bank bk).listed r).remove last)) bk last true (s.enterList bk r).now bk
  rw [hdrop, State.bank_setBank]
  exact Option.isSome_iff_exists.2 ⟨h, hh⟩

/-! ## Preemption -/

/-- A dwell within its range ends after its beginning. -/
theorem Time.later_add {n : Nat} (h : 0 < n) (hn : n < 2147483648) (t : Time) : Time.later (Time.add t n) t = true := by
  have hdiff : Time.diff (Time.add t n) t = n := by
    have hsub : t + BitVec.ofNat 32 n - t = BitVec.ofNat 32 n := by rw [BitVec.add_comm, BitVec.add_sub_cancel]
    rw [Time.diff, Time.add, hsub, BitVec.toInt_eq_toNat_cond, BitVec.toNat_ofNat, Nat.mod_eq_of_lt (by omega), if_pos (by omega)]
  simp [Time.later, hdiff, h]

/-- The end of a dry holder below the cap, other pulses of its event going on: its bank is released, whoever waits there (R98). -/
theorem State.endDry_released {h : Holder} {i : Nat} {kind : Kind} {d : Bool} {o : PulseOutcome}
    (hj : h.job = .event e.seq i kind d) (he : (s.cyl h.cyl).event = some e) (hothers : e.others i) (ho : o ≠ .capped)
    (hd : e.drive + Time.since s.now h.grantedAt < e.snap.driveMax) : ∃ a, s.endDry bk h o =
      { s with
        banks := s.banks.set bk { s.bank bk with
          capAt := none, dryEndAt := none, mode := .settling, holder := none, releaseAt := some s.now
          settleAt := (s.bank bk).settleExpiry s.su.trim s.now, headAt := a }
        cyls := s.cyls.set h.cyl { s.cyl h.cyl with event := some (e.ended i .resolved (h.resultAt o s.now)) }
        mem := s.mem.mirror s.sb.live [(0x240 + 8 * bk.index, 3)] } := by
  have hevent : ((s.dryFixed bk h i e o).cyl h.cyl).event = some (e.ended i .resolved (h.resultAt o s.now)) :=
    congrArg Cylinder.event (Eight.get_set_same _ _ _)
  have hcap : (s.dryFixed bk h i e o).capCheck h.cyl e.seq o = s.dryFixed bk h i e o := State.capCheck_below hevent rfl ho hd
  have hbank : (s.dryFixed bk h i e o).bank bk = { s.bank bk with capAt := none, dryEndAt := none } := Four.get_set_same _ _ _
  obtain ⟨a, hrelease⟩ := (s.dryFixed bk h i e o).release_eq bk
  refine ⟨a, ?_⟩
  rw [(State.stopDry_eq hj he o).2, (State.stopDry_eq hj he o).1, hcap, hrelease, hbank]
  refine (State.settle_unresolved (e := e.ended i .resolved (h.resultAt o s.now)) (by exact hevent) (hothers.modPulses _)).trans ?_
  simp only [State.dryFixed, State.setCyl, State.setCyls, State.setBank, State.setBanks, Four.set_set]
  rfl

/-- A request that preempts: the holder's end, the conflict, and the place in the list (R93). -/
theorem State.request_preempts (h : (s.bank bk).preemptedBy r = true) :
    s.request bk r = ((s.endHolder bk .truncated).conflict bk).join bk r := by rw [State.request, if_pos h]

/-- A request that no holder keeps out joins, where its bank is not yet available to it (R86). -/
theorem State.request_early {i : Time} (hh : (s.bank bk).holder = none) (hi : (s.bank bk).instant r = some i)
    (hl : Time.later i s.now = true) : s.request bk r = s.join bk r := by
  have hpre : (s.bank bk).preemptedBy r = false := by simp [Bank.preemptedBy, hh]
  have hgrant : (s.bank bk).grantsAtOnce r s.now = false := by simp [Bank.grantsAtOnce, Bank.reached, hi, hl]
  rw [State.request, hpre, hgrant, if_neg Bool.false_ne_true, if_neg Bool.false_ne_true]

/-- A preempted bank whose holder has gone to QUENCH: the request enters the list (R93). -/
theorem State.preempted_held (hh : (s.bank bk).holder.isSome = true) (hl : (s.bank bk).waiting.length < 4)
    (he : (s.cyl r.cyl).event = some e) (hq : e.seq = r.seq) :
    (s.conflict bk).join bk r =
      { s with
        banks := s.banks.set bk (Bank.listed { s.bank bk with conflicts := satCount (s.bank bk).conflicts } r)
        cyls := s.cyls.set r.cyl { s.cyl r.cyl with
          event := some { e with pulses := modPulses r.index (fun p => { p with cond := .waiting }) e.pulses } }
        ev := { s.ev with sticky := s.ev.sticky ||| 0x0200 }
        mem := s.mem.mirror s.sb.live [(0x240 + 8 * bk.index + 2, satCount (s.bank bk).conflicts)] } := by
  have hbank : (s.conflict bk).bank bk = { s.bank bk with conflicts := satCount (s.bank bk).conflicts } := by
    rw [State.conflict_eq]
    exact Four.get_set_same _ _ _
  rw [State.join_held (by rw [hbank]; exact hh) (by rw [hbank]; exact hl),
    State.enterList_eq (e := e) (by rw [State.conflict_eq]; exact he) hq, hbank, State.conflict_eq]
  simp only [Four.set_set]
  rfl

/-- A preempted bank that is released at once: the request waits for the end of the dwell that begins there (R85, R93). -/
theorem State.preempted_free (hh : (s.bank bk).holder = none) (hw : (s.bank bk).waiting = [])
    (hr : (s.bank bk).releaseAt = some s.now) (hboost : r.boost = false) (hlow : 50 ≤ r.minDwell) (hhigh : r.minDwell ≤ 20000)
    (he : (s.cyl r.cyl).event = some e) (hq : e.seq = r.seq) :
    (s.conflict bk).join bk r =
      { s with
        banks := s.banks.set bk { s.bank bk with
          conflicts := satCount (s.bank bk).conflicts, waiting := [r], headAt := some (Time.add s.now r.minDwell) }
        cyls := s.cyls.set r.cyl { s.cyl r.cyl with
          event := some { e with pulses := modPulses r.index (fun p => { p with cond := .waiting }) e.pulses } }
        ev := { s.ev with sticky := s.ev.sticky ||| 0x0200 }
        mem := s.mem.mirror s.sb.live [(0x240 + 8 * bk.index + 2, satCount (s.bank bk).conflicts)] } := by
  have hbank : (s.conflict bk).bank bk = { s.bank bk with conflicts := satCount (s.bank bk).conflicts } := by
    rw [State.conflict_eq]
    exact Four.get_set_same _ _ _
  have hinstant : ((s.conflict bk).bank bk).instant r = some (Time.add s.now r.minDwell) := by
    rw [hbank]
    simp [Bank.instant, hr, hboost, latestOf]
  have hnow : (s.conflict bk).now = s.now := by rw [State.conflict_eq]
  rw [State.join_early (i := Time.add s.now r.minDwell) (e := e) (by rw [hbank]; exact hh) (by rw [hbank]; exact hw) hinstant
    (hnow ▸ Time.later_add (by omega) (by omega) _) (by rw [State.conflict_eq]; exact he) hq, hbank, State.conflict_eq]
  simp only [Four.set_set]
  rfl

end

/-- Settles O38. -/
theorem requestContends : Obligations.RequestContends := by
  intro u s a rest e p bk sense f r w z hst hno hf hr hw hz
  have hr : r = s.startRequest a e p f := hr
  subst hr
  let v : State := s.atStart a rest bk sense
  have hexec : exec (.startExpiry sense []) s = .next (v.request bk (s.startRequest a e p f)) := hst.exec_eq hno hf sense
  have hze : (v.enterList bk (s.startRequest a e p f)) =
      { z with banks := s.banks.set bk ((s.bank bk).listed (s.startRequest a e p f)) } := by
    rw [State.enterList_eq (s := v) (by exact hst.event) rfl, hz]
    rfl
  have hzcyl : z.cyl a.entry.cyl = { s.cyl a.entry.cyl with event := some { e with
      pulses := modPulses a.entry.index (fun q => { q with cond := .waiting }) e.pulses } } := by
    rw [hz]
    exact Eight.get_set_same _ _ _
  refine ⟨fun h seq2 i2 d2 e2 hk hl hm hh hj hne hcyl he2 hs2 hd => ?_, fun h last e3 hh hl hnot hlast he3 hs3 ho => ?_,
    fun i hh hwait hi hlate => ?_⟩
  · subst hs2
    have hpre : (v.bank bk).preemptedBy (s.startRequest a e p f) = true :=
      (Bank.preemptedBy_iff (by exact hh)).2 ⟨hk, hm, e2.seq, i2, d2, hj, hne⟩
    rw [State.request_preempts hpre] at hexec
    have hdry : h.dry = d2 := by simp [Holder.dry, hj]
    have hend : v.endHolder bk .truncated =
        if d2 then v.endDry bk h .truncated else v.endPlayed bk .truncated :=
      hdry ▸ State.endHolder_active (s := v) hh hm .truncated
    refine ⟨fun p2 hd2 hp hpj hpk hpg => ?_, fun hd2 hwait hboost hlow hhigh ho => ?_⟩
    · subst hd2
      have hplay : Playing v bk p2 (v.pins.sense.get bk) := State.expire_playing
        (s := s.setArm { s.arm with armedSet := rest }) (sense := sense) ⟨hp.channel, hp.phase, hp.current⟩ a.start
      have hquench := State.inQuench_event (s := v) (bk := bk) (o := .truncated) (p := p2) (hpj.trans hj) (hpk ▸ he2) nofun
        (hpg.symm ▸ hd) (fun h : false = true => nomatch h)
      let A : State := v.inQuench bk p2 .truncated
      have hAbank : A.bank bk = (s.bank bk).ended p2 .truncated a.start :=
        (congrArg (State.bank · bk) hquench).trans (Four.get_set_same v.banks bk _)
      have hAother : A.cyl a.entry.cyl = s.cyl a.entry.cyl :=
        (congrArg (State.cyl · a.entry.cyl) hquench).trans (Eight.get_set_ne s.cyls _ (by rw [hpk]; exact hcyl.symm))
      have hAcyl : (A.cyl h.cyl).event = some (e2.ended i2 .quench
          ⟨.truncated, Time.since a.start h.grantedAt, p2.peak.getD 0, p2.boostLow⟩) := by
        rw [← hpk, ← hpg]
        exact congrArg Cylinder.event
          ((congrArg (State.cyl · p2.cyl) hquench).trans (Eight.get_set_same s.cyls p2.cyl _))
      have hAsticky : A.ev.sticky = s.ev.sticky :=
        (congrArg (fun y : State => y.ev.sticky) hquench).trans (BitVec.or_zero (x := s.ev.sticky))
      rw [hend, if_neg Bool.false_ne_true, (State.endPlayed_of_playing hplay .truncated).2,
        State.preempted_held (s := A) (e := e) (by rw [hAbank]; exact Option.isSome_iff_exists.2 ⟨h, hh⟩)
          (by rw [hAbank]; exact hl) ((congrArg Cylinder.event hAother).trans hst.event) rfl, hAbank, hAsticky] at hexec
      have hbank := Four.get_set_same A.banks bk
      refine ⟨_, hexec, ?_⟩
      rw [hzcyl, hw]
      refine ⟨congrArg Bank.mode (hbank _), (congrArg Bank.holder (hbank _)).trans hh, congrArg Bank.channel (hbank _),
        congrArg Bank.waiting (hbank _), congrArg Bank.conflicts (hbank _), rfl, ?_, ?_⟩
      · refine (Eight.get_set_same _ _ _).trans ?_
        rw [← hAother]
        rfl
      · exact (congrArg Cylinder.event (Eight.get_set_ne _ _ hcyl)).trans hAcyl
    · subst hd2
      obtain ⟨x, hdryEnd⟩ := State.endDry_released (s := v) (bk := bk) hj he2 ho (o := .truncated) nofun hd
      let A : State := v.endDry bk h .truncated
      have hAbank : A.bank bk = _ := (congrArg (State.bank · bk) hdryEnd).trans (Four.get_set_same v.banks bk _)
      have hAother : A.cyl a.entry.cyl = s.cyl a.entry.cyl :=
        (congrArg (State.cyl · a.entry.cyl) hdryEnd).trans (Eight.get_set_ne s.cyls _ hcyl.symm)
      have hAcyl : A.cyl h.cyl = _ := (congrArg (State.cyl · h.cyl) hdryEnd).trans (Eight.get_set_same s.cyls h.cyl _)
      have hAnow : A.now = a.start := (congrArg State.now hdryEnd).trans rfl
      rw [hend, if_pos rfl, State.preempted_free (s := A) (e := e) (by rw [hAbank]) (by rw [hAbank]; exact hwait)
        (by rw [hAbank, hAnow]; rfl) hboost hlow hhigh ((congrArg Cylinder.event hAother).trans hst.event) rfl, hAbank,
        hAnow] at hexec
      have hAsticky : A.ev.sticky = s.ev.sticky := (congrArg (fun y : State => y.ev.sticky) hdryEnd).trans rfl
      have hbank := Four.get_set_same A.banks bk
      rw [hAsticky] at hexec
      refine ⟨_, hexec, ?_⟩
      rw [hzcyl]
      refine ⟨congrArg Bank.mode (hbank _), congrArg Bank.holder (hbank _), congrArg Bank.releaseAt (hbank _),
        congrArg Bank.waiting (hbank _), congrArg Bank.headAt (hbank _), congrArg Bank.conflicts (hbank _), rfl, ?_, ?_⟩
      · refine (Eight.get_set_same _ _ _).trans ?_
        rw [← hAother]
        rfl
      · exact (congrArg Cylinder.event ((Eight.get_set_ne _ _ hcyl).trans hAcyl)).trans rfl
  · have hpre : (v.bank bk).preemptedBy (s.startRequest a e p f) = false :=
      Bool.eq_false_iff.2 fun hc => hnot ((Bank.preemptedBy_iff (by exact hh)).1 hc)
    have hgrant : (v.bank bk).grantsAtOnce (s.startRequest a e p f) v.now = false := by
      simp [Bank.grantsAtOnce, show (v.bank bk).holder = some h from hh]
    have hjoin : v.request bk (s.startRequest a e p f) = v.join bk (s.startRequest a e p f) := by
      rw [State.request, hpre, hgrant, if_neg Bool.false_ne_true, if_neg Bool.false_ne_true]
    rw [hjoin, State.join_full (s := v) hh hl (hw ▸ hlast), hze] at hexec
    rw [State.slipDrop_others (e := e3) (by exact he3) hs3 ho] at hexec
    rw [State.bank_setBank] at hexec
    refine ⟨_, hexec, ?_⟩
    subst hz
    simp only [State.bank, Four.get_set_same]
    rw [hw]
    exact ⟨rfl, hh, rfl, rfl, rfl, rfl⟩
  · rw [hexec, State.request_early (s := v) hh hi hlate, State.join_early (s := v) hh hwait hi hlate (by exact hst.event) rfl, hz]
    rfl

end Sys2Proof.Machine

/-! # Quenches that end at their entry

Where the current is already below QUENCH_LEVEL the channel goes through QUENCH (`State.inQuench`) and the bank is released by the
same command (R115, R116). -/

namespace Sys2Proof.Machine

section
variable {s : State} {bk : BankId} {p : Player} {e : Event} {seq : Word} {i : Nat} {kind : Kind} {d : Bool}

/-! ## The pulse resolved -/

/-- The pulse of an event that its quench's end resolves (R116). -/
def Event.resolved (e : Event) (i : Nat) : Event :=
  { e with pulses := modPulses i (fun q => { q with cond := .resolved }) e.pulses }

/-- A pulse that ends and is resolved has its results as one that is resolved at its end. -/
theorem Event.ended_resolved (e : Event) (i : Nat) (r : PulseResult) :
    (e.ended i .quench r).resolved i = e.ended i .resolved r := by
  unfold Event.resolved Event.ended
  rw [modPulses_modPulses]
  exact fun _ => rfl

theorem Event.others.ended {i : Nat} (h : e.others i) (c : PulseCond) (r : PulseResult) : (e.ended i c r).others i := by
  obtain ⟨q, hq, hi, hc⟩ := h
  exact ⟨q, List.mem_map.2 ⟨q, hq, if_neg hi⟩, hi, hc⟩

/-- The drops that a cap makes in between leave the pulse that ends. -/
theorem Event.ended_dropped_resolved (e : Event) (i : Nat) (r : PulseResult) (t : Time) (o : PulseOutcome) :
    ((e.ended i .quench r).dropped t o).resolved i = (e.ended i .resolved r).dropped t o := by
  unfold Event.resolved Event.dropped Event.ended modPulses
  simp only [List.map_map]
  congr 1
  refine List.map_congr_left fun q _ => ?_
  unfold Function.comp
  by_cases hi : q.plan.index = i
  · simp [hi, Pulse.dropped]
  · have hindex : (q.dropped t o).plan = q.plan := by
      unfold Pulse.dropped
      split <;> rfl
    simp [hi, hindex]

/-! ## The release -/

/-- A bank released at tick `t`, whoever waits there (R83, R95, R116). -/
def Bank.quenched (x : Bank) (m : Trim) (t : Time) (a : Option Time) : Bank :=
  { x with
    channel := none, mode := .settling, holder := none, releaseAt := some t, settleAt := x.settleExpiry m t, headAt := a }

theorem State.freeBank_released (s : State) (bk : BankId) : ∃ a, (s.freeBank bk).headCheck bk =
    { s with
      banks := s.banks.set bk ((s.bank bk).quenched s.su.trim s.now a)
      mem := s.mem.mirror s.sb.live [(0x240 + 8 * bk.index, 3)] } := by
  obtain ⟨a, h⟩ := (s.setBank bk { s.bank bk with channel := none }).release_eq bk
  refine ⟨a, ?_⟩
  rw [State.freeBank, h, State.bank_setBank]
  simp only [State.setBank, State.setBanks, Four.set_set]
  rfl

/-- The end of a quench of an event in the table, before the event is judged (R116). -/
theorem State.quenchOver_released (hp : (s.bank bk).channel = some p) (hj : p.job = .event seq i kind d)
    (he : (s.cyl p.cyl).event = some e) (hs : e.seq = seq) : ∃ a, s.quenchOver bk =
      { s with
        banks := s.banks.set bk ((s.bank bk).quenched s.su.trim s.now a)
        cyls := s.cyls.set p.cyl { s.cyl p.cyl with event := some (e.resolved i) }
        mem := s.mem.mirror s.sb.live [(0x240 + 8 * bk.index, 3)] } := by
  obtain ⟨a, hfree⟩ := s.freeBank_released bk
  refine ⟨a, ?_⟩
  unfold State.quenchOver
  rw [hp]
  dsimp only
  rw [hj]
  dsimp only
  rw [State.modPulse, State.headCheck_modEvent, hfree]
  exact State.modPulse_of (e := e) (by exact he) hs i _

/-- The end of a quench of the service pulse (R116, R125). -/
theorem State.quenchOver_service {f : Nat} {r : PulseResult} (hp : (s.bank bk).channel = some p) (hj : p.job = .service f)
    (hr : p.result = some r) : ∃ a m, s.quenchOver bk =
      { s with
        banks := s.banks.set bk ((s.bank bk).quenched s.su.trim s.now a)
        sb := { s.sb with service := s.sb.service.closed r }
        ev := { s.ev with sticky := s.ev.sticky ||| 0x8000 }
        mem := m } := by
  have hclosed : s.sb.service.ended r = s.sb.service.closed r := by
    have hb : bytePair (2 * r.boostLow.toNat) 0 = BitVec.ofNat 16 (2 * r.boostLow.toNat) := by cases r.boostLow <;> rfl
    have ho : lowByte r.outcome.code = BitVec.ofNat 16 r.outcome.code := by cases r.outcome <;> rfl
    simp only [ServiceEntry.ended, ServiceEntry.closed, hb, ho]
    rfl
  obtain ⟨a, hfree⟩ := (s.serviceDone r).freeBank_released bk
  refine ⟨a, (s.serviceDone r).mem.mirror (s.serviceDone r).sb.live [(0x240 + 8 * bk.index, 3)], ?_⟩
  unfold State.quenchOver
  rw [hp]
  dsimp only
  rw [hj]
  dsimp only
  rw [State.serviceResult, hr]
  dsimp only
  rw [hfree]
  simp only [State.serviceDone, State.statusAll_eq, hclosed]
  rfl

/-- The end of a quench of an event pulse: its bank and its event, and what it leaves of the lists (R77, R116). -/
theorem State.quenchEnd_released (hp : (s.bank bk).channel = some p) (hj : p.job = .event seq i kind d)
    (he : (s.cyl p.cyl).event = some e) (hs : e.seq = seq) :
    (∃ a, (s.quenchEnd bk).bank bk = (s.bank bk).quenched s.su.trim s.now a)
      ∧ (s.quenchEnd bk).cyl p.cyl = Cylinder.settled { s.cyl p.cyl with event := some (e.resolved i) }
      ∧ (s.quenchEnd bk).now = s.now ∧ ∀ k, s.unlisted k → (s.quenchEnd bk).unlisted k := by
  obtain ⟨a, hover⟩ := State.quenchOver_released hp hj he hs
  have hend : s.quenchEnd bk = (s.quenchOver bk).settle p.cyl := by
    unfold State.quenchEnd State.judge
    rw [hp]
    dsimp only
    rw [hj]
  have hcyls : (s.quenchEnd bk).cyls = _ := (congrArg State.cyls hend).trans (State.settle_cyls _ _)
  have hbanks : (s.quenchEnd bk).banks = s.banks.set bk ((s.bank bk).quenched s.su.trim s.now a) := by
    rw [hend, State.settle_banks, hover]
  have hnow : (s.quenchOver bk).now = s.now := (congrArg State.now hover).trans rfl
  refine ⟨⟨a, ?_⟩, ?_, ?_, fun k hk => ?_⟩
  · rw [State.bank, hbanks, Four.get_set_same]
  · rw [State.cyl, hcyls, Eight.get_set_same, hover, State.cyl, Eight.get_set_same]
  · rw [hend, ((Downstream.refl _).settle _).now, hnow]
  · refine hk.of_set ?_ hbanks rfl
    rw [hend, State.settle_arm, hover]

end

end Sys2Proof.Machine

/-! # A stop in mode CUT

Once every pulse that waits has been dropped, an end drops nothing more, and each bank's end touches that bank and its holder's
cylinder alone (`Touches`). So the four ends of a CUT do not meddle with one another (R136). -/

namespace Sys2Proof.Machine

variable {s t u : State}

/-! ## Nothing left to drop -/

section
variable {k : CylId}

/-- A cylinder's event has no pulse that waits. -/
def Cylinder.settledDown (c : Cylinder) : Prop := ∀ e, c.event = some e → ∀ p ∈ e.pulses, p.cond.droppable = false

theorem Cylinder.settledDown.drop {c : Cylinder} (h : c.settledDown) (t : Time) (o : PulseOutcome) : c.dropPulses t o = c := by
  have hevent : (c.event.map fun e => { e with pulses := e.pulses.map (Pulse.drop t o) }) = c.event := by
    cases he : c.event with
    | none => rfl
    | some e =>
      have hid : e.pulses.map (Pulse.drop t o) = e.pulses :=
        (List.map_congr_left fun p hp => by simp [Pulse.drop, h e he p hp]).trans (List.map_id _)
      rw [Option.map_some, hid]
  unfold Cylinder.dropPulses
  rw [hevent]

/-- A drop in a cylinder that no list names, none of whose pulses waits, changes nothing. -/
theorem State.unlisted.withdraw (h : s.unlisted k) (hd : (s.cyl k).settledDown) (o : PulseOutcome) :
    s.withdraw (· == k) o = s := by
  obtain ⟨hpending, harmed, hwaiting⟩ := h
  have hcyls : (s.cyls.map fun j c => if j == k then c.dropPulses s.now o else c) = s.cyls := by
    refine Eight.ext_get fun j => ?_
    rw [Eight.get_map]
    split
    · rename_i hj
      obtain rfl : j = k := beq_iff_eq.1 hj
      exact hd.drop _ _
    · rfl
  have hbanks : (s.banks.map fun _ x => x.withdraw (· == k)) = s.banks := by
    refine Four.ext_get fun j => (Four.get_map _ _ j).trans ?_
    have hkept : (s.bank j).waiting.filter (fun r => !(r.cyl == k)) = (s.bank j).waiting :=
      List.filter_eq_self.2 fun r hr => by simpa using hwaiting j r hr
    show (s.bank j).withdraw (· == k) = s.bank j
    simp [Bank.withdraw, hkept]
  have harm : (⟨s.arm.pendingList.filter (fun e => !(e.cyl == k)), s.arm.armedSet.filter (fun e => !(e.entry.cyl == k))⟩ : Arming)
      = s.arm := by
    rw [List.filter_eq_self.2 fun q hq => by simpa using hpending q hq,
      List.filter_eq_self.2 fun q hq => by simpa using harmed q hq]
  unfold State.withdraw
  simp only [State.setCyls, State.setArm, State.setBanks, hcyls, hbanks, harm]

/-- Nor does the cap drop anything there (R97). -/
theorem State.unlisted.capCheck (h : s.unlisted k) (hd : (s.cyl k).settledDown) (seq : Word) (o : PulseOutcome) :
    s.capCheck k seq o = s := by
  unfold State.capCheck
  split
  · rename_i e he
    have hevent : (s.cyl k).event = some e := by
      unfold State.eventOf at he
      split at he
      · split at he
        · rename_i hc _
          rwa [Option.some.inj he] at hc
        · cases he
      · cases he
    have hzero : e.droppable = 0 := by
      simp only [Event.droppable, List.length_eq_zero_iff, List.filter_eq_nil_iff]
      exact fun p hp => by simp [hd e hevent p hp]
    split
    · rw [State.dropCapped, h.withdraw hd, hzero]
      rfl
    · rfl
  · rfl

/-- Where nothing waits, no list names a cylinder. -/
theorem State.nothingWaits.unlisted (h : s.nothingWaits) (k : CylId) : s.unlisted k := by
  obtain ⟨hpending, harmed, hwaiting, -⟩ := h
  refine ⟨?_, ?_, fun j => ?_⟩
  · rw [hpending]
    exact nofun
  · rw [harmed]
    exact nofun
  · rw [hwaiting j]
    exact nofun

theorem State.nothingWaits.down (h : s.nothingWaits) (k : CylId) : (s.cyl k).settledDown := h.2.2.2 k

/-- So the cap drops nothing where nothing waits. -/
theorem State.nothingWaits.capCheck (h : s.nothingWaits) (k : CylId) (seq : Word) (o : PulseOutcome) : s.capCheck k seq o = s :=
  (h.unlisted k).capCheck (h.down k) seq o

end

/-! ## One bank and one cylinder -/

/-- What changes is one bank, not in what waits there or its conflicts, and one cylinder, whose event may end but not begin or come
to wait; CONFLICT and the run controller are left alone. -/
structure Touches (bk : BankId) (k : CylId) (s t : State) : Prop where
  bank : ∀ j, j ≠ bk → t.bank j = s.bank j
  waiting : (t.bank bk).waiting = (s.bank bk).waiting
  conflicts : (t.bank bk).conflicts = (s.bank bk).conflicts
  cyl : ∀ j, j ≠ k → t.cyl j = s.cyl j
  none : (s.cyl k).event = none → (t.cyl k).event = none
  down : (s.cyl k).settledDown → (t.cyl k).settledDown
  arm : t.arm = s.arm
  ctl : t.ctl = s.ctl
  flag : t.ev.sticky.getLsbD 9 = s.ev.sticky.getLsbD 9

namespace Touches

variable {bk : BankId} {k : CylId}

theorem refl (bk : BankId) (k : CylId) (s : State) : Touches bk k s s :=
  ⟨fun _ _ => rfl, rfl, rfl, fun _ _ => rfl, id, id, rfl, rfl, rfl⟩

theorem trans (h : Touches bk k s t) (g : Touches bk k t u) : Touches bk k s u where
  bank j hj := (g.bank j hj).trans (h.bank j hj)
  waiting := g.waiting.trans h.waiting
  conflicts := g.conflicts.trans h.conflicts
  cyl j hj := (g.cyl j hj).trans (h.cyl j hj)
  none hn := g.none (h.none hn)
  down hd := g.down (h.down hd)
  arm := g.arm.trans h.arm
  ctl := g.ctl.trans h.ctl
  flag := g.flag.trans h.flag

/-- Where nothing waits, nothing comes to wait. -/
theorem nothingWaits (h : Touches bk k s t) (hw : s.nothingWaits) : t.nothingWaits := by
  obtain ⟨hpending, harmed, hwaiting, hcyls⟩ := hw
  refine ⟨h.arm ▸ hpending, h.arm ▸ harmed, fun j => ?_, fun j => ?_⟩
  · by_cases hj : j = bk
    · subst hj
      exact h.waiting.trans (hwaiting j)
    · exact h.bank j hj ▸ hwaiting j
  · by_cases hj : j = k
    · subst hj
      exact h.down (hcyls j)
    · exact h.cyl j hj ▸ hcyls j

/-- What no list named, no list names. -/
theorem unlisted (h : Touches bk k s t) {j : CylId} (hun : s.unlisted j) : t.unlisted j := by
  obtain ⟨hpending, harmed, hwaiting⟩ := hun
  refine ⟨h.arm ▸ hpending, h.arm ▸ harmed, fun i => ?_⟩
  by_cases hi : i = bk
  · subst hi
    rw [h.waiting]
    exact hwaiting i
  · rw [h.bank i hi]
    exact hwaiting i

theorem of_same (hb : t.banks = s.banks) (hc : t.cyls = s.cyls) (ha : t.arm = s.arm) (hctl : t.ctl = s.ctl)
    (hf : t.ev.sticky.getLsbD 9 = s.ev.sticky.getLsbD 9) : Touches bk k s t where
  bank j _ := by rw [State.bank, hb]; rfl
  waiting := by rw [State.bank, hb]; rfl
  conflicts := by rw [State.bank, hb]; rfl
  cyl j _ := by rw [State.cyl, hc]; rfl
  none hn := by rw [State.cyl, hc]; exact hn
  down hd := by rw [State.cyl, hc]; exact hd
  arm := ha
  ctl := hctl
  flag := hf

theorem setBank (s : State) {x : Bank} (hw : x.waiting = (s.bank bk).waiting) (hc : x.conflicts = (s.bank bk).conflicts) :
    Touches bk k s (s.setBank bk x) where
  bank j hj := State.bank_setBank_ne _ _ hj
  waiting := by rw [State.bank_setBank]; exact hw
  conflicts := by rw [State.bank_setBank]; exact hc
  cyl _ _ := rfl
  none := id
  down := id
  arm := rfl
  ctl := rfl
  flag := rfl

theorem statusAll (s : State) (l : List (Nat × Word)) : Touches bk k s (s.statusAll l) := by
  rw [State.statusAll_eq]
  exact of_same rfl rfl rfl rfl rfl

theorem raise (s : State) {f : Flag} (hf : f.word.getLsbD 9 = false) : Touches bk k s (s.raise f) :=
  of_same rfl rfl rfl rfl (by rw [State.raise_ev, BitVec.getLsbD_or, hf, Bool.or_false])

theorem setMode (s : State) (m : BankMode) : Touches bk k s (s.setMode bk m) :=
  (setBank s (x := { s.bank bk with mode := m }) rfl rfl).trans (statusAll _ _)

theorem setCyl (s : State) {x : Cylinder} (hn : (s.cyl k).event = Option.none → x.event = Option.none)
    (hd : (s.cyl k).settledDown → x.settledDown) : Touches bk k s (s.setCyl k x) where
  bank _ _ := rfl
  waiting := rfl
  conflicts := rfl
  cyl j hj := State.cyl_setCyl_ne _ _ hj
  none h := by rw [State.cyl_setCyl]; exact hn h
  down h := by rw [State.cyl_setCyl]; exact hd h
  arm := rfl
  ctl := rfl
  flag := rfl

/-- The event changed, none of its pulses coming to wait. -/
theorem modEvent (s : State) (seq : Word) {f : Event → Event}
    (hf : ∀ e, (∀ p ∈ e.pulses, p.cond.droppable = false) → ∀ p ∈ (f e).pulses, p.cond.droppable = false) :
    Touches bk k s (s.modEvent k seq f) := by
  unfold State.modEvent
  split
  · rename_i e he
    split
    · refine setCyl s (fun hn => ?_) fun hd d hdd => ?_
      · rw [he] at hn
        cases hn
      · obtain rfl : f e = d := Option.some.inj hdd
        exact hf e (hd e he)
    · exact refl _ _ _
  · exact refl _ _ _

theorem modPulse (s : State) (seq : Word) (i : Nat) {f : Pulse → Pulse} (hf : ∀ p, (f p).cond.droppable = false) :
    Touches bk k s (s.modPulse k seq i f) :=
  modEvent s seq fun e he p hp => by
    obtain ⟨q, hq, rfl⟩ := List.mem_map.1 hp
    split
    · exact hf q
    · exact he q hq

theorem endInEvent (s : State) (seq : Word) (i : Nat) {c : PulseCond} (hc : c.droppable = false) (r : PulseResult) :
    Touches bk k s (s.endInEvent k seq i c r) :=
  (modPulse s seq i fun _ => hc).trans (modEvent _ seq fun _ h => h)

theorem clearFaults (s : State) : Touches bk k s (s.clearFaults k) :=
  (setCyl s (x := { s.cyl k with faults := 0 }) id id).trans (statusAll _ _)

theorem serviceResult (s : State) (p : Player) : Touches bk k s (s.serviceResult p) := by
  unfold State.serviceResult
  split
  · rename_i r _
    have hset : Touches bk k s (s.setSb { s.sb with service := s.sb.service.ended r }) := of_same rfl rfl rfl rfl rfl
    exact (hset.trans (statusAll _ _)).trans (raise _ rfl)
  · exact refl _ _ _

theorem headCheck (s : State) : Touches bk k s (s.headCheck bk) := by
  rw [State.headCheck_eq]
  refine setBank s ?_ ?_
  · unfold Bank.headChecked
    split <;> rfl
  · unfold Bank.headChecked
    split <;> rfl

theorem release (s : State) : Touches bk k s (s.release bk) :=
  (setBank s (x := { s.bank bk with
    holder := Option.none, releaseAt := some s.now, settleAt := (s.bank bk).settleExpiry s.su.trim s.now }) rfl rfl).trans
    (setMode _ _)

theorem freeBank (s : State) : Touches bk k s (s.freeBank bk) :=
  (setBank s (x := { s.bank bk with channel := Option.none }) rfl rfl).trans (release _)

/-- The end of a bank's quench touches the cylinder of its player. -/
theorem quenchOver {p : Player} (hp : (s.bank bk).channel = some p) : Touches bk p.cyl s (s.quenchOver bk) := by
  unfold State.quenchOver
  rw [hp]
  dsimp only
  split
  · exact (serviceResult s p).trans ((freeBank _).trans (headCheck _))
  · exact (freeBank s).trans ((modPulse _ _ _ fun _ => rfl).trans (headCheck _))

theorem fixEnd (s : State) (p : Player) (o : PulseOutcome) : Touches bk p.cyl s (s.fixEnd bk p o) := by
  have hm : Touches bk p.cyl s _ := (setBank s (x := { s.bank bk with
    channel := some { p with cond := .quench, phaseTimer := Option.none, result := some (p.resultAt o s.now) }
    boostEnd := if p.cond.boostGate then some s.now else (s.bank bk).boostEnd
    capAt := Option.none }) rfl rfl).trans (setMode _ .quench)
  unfold State.fixEnd State.reportEnd
  split
  · exact hm.trans (endInEvent _ _ _ rfl _)
  · exact hm

/-- A pulse that is ended TRUNCATED, none of its cylinder waiting, goes to QUENCH. -/
theorem inQuench (p : Player) (hun : s.unlisted p.cyl) (hd : (s.cyl p.cyl).settledDown) :
    Touches bk p.cyl s (s.inQuench bk p .truncated) := by
  have hcount : Touches bk p.cyl s ((s.fixEnd bk p .truncated).clearFaults p.cyl) := (fixEnd s p .truncated).trans (clearFaults _)
  have hend : s.endCounted bk p .truncated = (s.fixEnd bk p .truncated).clearFaults p.cyl := by
    show ((s.fixEnd bk p .truncated).clearFaults p.cyl).capPlayed p .truncated = _
    unfold State.capPlayed
    split
    · exact (hcount.unlisted hun).capCheck (hcount.down hd) _ _
    · rfl
  unfold State.inQuench
  rw [hend]
  exact hcount.trans (setBank _ rfl rfl)

theorem stopPlayed {p : Player} (hp : (s.bank bk).channel = some p) (hun : s.unlisted p.cyl) (hd : (s.cyl p.cyl).settledDown) :
    Touches bk p.cyl s (s.stopPlayed bk .truncated) := by
  by_cases hq : p.cond = .quench
  · have hstop : s.stopPlayed bk .truncated = s := by simp [State.stopPlayed, hp, hq]
    rw [hstop]
    exact refl _ _ _
  · have hquench := inQuench (bk := bk) p hun hd
    rw [State.stopPlayed_eq hp hq]
    unfold State.quenchStanding
    split
    · refine hquench.trans (quenchOver (p := p.ended .truncated s.now) ?_)
      obtain ⟨w, a, c, hb⟩ := s.inQuench_bank bk p .truncated
      rw [hb]
      rfl
    · exact hquench

theorem stopDry (hw : s.nothingWaits) (h : Holder) : Touches bk h.cyl s (s.stopDry bk h .truncated) := by
  unfold State.stopDry
  split
  · exact refl _ _ _
  · rename_i seq i _ _ _
    have hfixed : Touches bk h.cyl s _ := (setBank s (x := { s.bank bk with capAt := Option.none, dryEndAt := Option.none }) rfl
      rfl).trans (endInEvent _ seq i (c := .resolved) rfl ⟨.truncated, Time.since s.now h.grantedAt, 0, false⟩)
    rw [(hfixed.nothingWaits hw).capCheck]
    exact hfixed.trans ((release _).trans (headCheck _))

end Touches

/-! ## The four ends -/

/-- The players play for the cylinders of their banks' holders. -/
def State.playersMatch (s : State) : Prop :=
  ∀ j h q, (s.bank j).holder = some h → (s.bank j).channel = some q → q.cyl = h.cyl

/-- The end of one bank's holder by a STOP touches nothing, or that bank and the cylinder of its ACTIVE holder. -/
theorem State.truncateHolder_touches (hw : s.nothingWaits) {bk : BankId}
    (hm : ∀ h q, (s.bank bk).holder = some h → (s.bank bk).channel = some q → q.cyl = h.cyl) :
    s.truncateHolder bk = s
      ∨ ∃ h, (s.bank bk).holder = some h ∧ (s.bank bk).mode = .active ∧ Touches bk h.cyl s (s.truncateHolder bk) := by
  unfold State.truncateHolder State.stopHolder
  cases hh : (s.bank bk).holder with
  | none => exact .inl rfl
  | some h =>
    dsimp only
    by_cases hactive : (s.bank bk).mode = .active
    · rw [if_pos hactive]
      by_cases hd : h.dry = true
      · rw [if_pos hd]
        exact .inr ⟨h, rfl, hactive, Touches.stopDry hw h⟩
      · rw [if_neg hd]
        cases hp : (s.bank bk).channel with
        | none => exact .inl (by simp [State.stopPlayed, hp])
        | some p => exact .inr ⟨h, rfl, hactive, hm h p hh hp ▸ Touches.stopPlayed hp (hw.unlisted _) (hw.down _)⟩
    · rw [if_neg hactive]
      exact .inl rfl

/-- What several banks' ends leave: nothing waits, the run controller and CONFLICT are as they were, no event has begun, the other
banks are untouched, and so are the cylinders that no ACTIVE holder among those banks has. -/
structure CutKept (l : List BankId) (s t : State) : Prop where
  down : Downstream s t
  nothingWaits : t.nothingWaits
  ctl : t.ctl = s.ctl
  flag : t.ev.sticky.getLsbD 9 = s.ev.sticky.getLsbD 9
  none : ∀ k, (s.cyl k).event = none → (t.cyl k).event = none
  bank : ∀ j, j ∉ l → t.bank j = s.bank j
  cyl : ∀ k, (∀ j ∈ l, ∀ h, (s.bank j).holder = some h → (s.bank j).mode = .active → h.cyl ≠ k) → t.cyl k = s.cyl k

theorem CutKept.foldl (l : List BankId) : ∀ s : State, l.Nodup → s.nothingWaits →
    (∀ j ∈ l, ∀ h q, (s.bank j).holder = some h → (s.bank j).channel = some q → q.cyl = h.cyl) →
    CutKept l s (l.foldl State.truncateHolder s) := by
  induction l with
  | nil => exact fun s _ hw _ => ⟨.refl s, hw, rfl, rfl, fun _ h => h, fun _ _ => rfl, fun _ _ => rfl⟩
  | cons bk l ih =>
    intro s hnd hw hm
    obtain ⟨hbk, hnd⟩ := List.nodup_cons.1 hnd
    have hdown : Downstream s (s.truncateHolder bk) := (Downstream.refl s).truncateHolder bk
    obtain hsame | ⟨h, hh, hactive, htouch⟩ := State.truncateHolder_touches hw (hm bk List.mem_cons_self)
    · rw [List.foldl_cons, hsame]
      obtain ⟨d, w, c, f, n, b, k⟩ := ih s hnd hw fun j hj => hm j (List.mem_cons_of_mem _ hj)
      exact ⟨d, w, c, f, n, fun j hj => b j fun hjl => hj (List.mem_cons_of_mem _ hjl),
        fun j hj => k j fun i hi => hj i (List.mem_cons_of_mem _ hi)⟩
    · have hother : ∀ j ∈ l, (s.truncateHolder bk).bank j = s.bank j := fun j hj =>
        htouch.bank j fun hjb => hbk (hjb ▸ hj)
      obtain ⟨d, w, c, f, n, b, k⟩ := ih (s.truncateHolder bk) hnd (htouch.nothingWaits hw) fun j hj => by
        rw [hother j hj]
        exact hm j (List.mem_cons_of_mem _ hj)
      rw [List.foldl_cons]
      refine ⟨?_, w, c.trans htouch.ctl, f.trans htouch.flag, fun j hj => n j ?_, fun j hj => ?_, fun j hj => ?_⟩
      · exact Downstream.foldl (fun _ i g => g.truncateHolder i) l hdown
      · by_cases hjk : j = h.cyl
        · subst hjk
          exact htouch.none hj
        · rw [htouch.cyl j hjk]
          exact hj
      · rw [b j fun hjl => hj (List.mem_cons_of_mem _ hjl)]
        exact htouch.bank j fun hjb => hj (hjb ▸ List.mem_cons_self)
      · rw [k j fun i hi g hg hgm => hj i (List.mem_cons_of_mem _ hi) g (hother i hi ▸ hg) (hother i hi ▸ hgm)]
        exact htouch.cyl j fun hjk => hj bk List.mem_cons_self h hh hactive hjk.symm

/-- The end of one bank's holder among the four: the banks before it leave it and its cylinder alone, and so do those behind. -/
theorem State.truncateHolders_split (hw : s.nothingWaits) (hm : s.playersMatch) (bk : BankId) : ∃ v, Downstream s v
    ∧ v.nothingWaits ∧ v.bank bk = s.bank bk ∧ s.truncateHolders.bank bk = (v.truncateHolder bk).bank bk
    ∧ ∀ k, (∀ j, j ≠ bk → ∀ h, (s.bank j).holder = some h → (s.bank j).mode = .active → h.cyl ≠ k) →
      v.cyl k = s.cyl k ∧ s.truncateHolders.cyl k = (v.truncateHolder bk).cyl k := by
  obtain ⟨pre, post, hall, hnd⟩ : ∃ pre post, BankId.all = pre ++ bk :: post ∧ (pre ++ bk :: post).Nodup := by
    cases bk
    · exact ⟨[], [.b, .c, .d], by decide⟩
    · exact ⟨[.a], [.c, .d], by decide⟩
    · exact ⟨[.a, .b], [.d], by decide⟩
    · exact ⟨[.a, .b, .c], [], by decide⟩
  obtain ⟨hpreNodup, hrest, hdisjoint⟩ := List.nodup_append.1 hnd
  obtain ⟨hpost, hpostNodup⟩ := List.nodup_cons.1 hrest
  have hpre : bk ∉ pre := fun h => hdisjoint bk h bk List.mem_cons_self rfl
  let v : State := pre.foldl State.truncateHolder s
  have hv : CutKept pre s v := CutKept.foldl pre s hpreNodup hw fun j _ => hm j
  have hvbank : v.bank bk = s.bank bk := hv.bank bk hpre
  let z : State := v.truncateHolder bk
  have hz : z = v ∨ ∃ h, (v.bank bk).holder = some h ∧ (v.bank bk).mode = .active ∧ Touches bk h.cyl v z :=
    State.truncateHolder_touches hv.nothingWaits (hvbank ▸ hm bk)
  have hzwaits : z.nothingWaits := by
    obtain h | ⟨h, -, -, htouch⟩ := hz
    · rw [h]
      exact hv.nothingWaits
    · exact htouch.nothingWaits hv.nothingWaits
  have hzbank : ∀ j ∈ post, z.bank j = s.bank j := fun j hj => by
    have hne : j ≠ bk := fun h => hpost (h ▸ hj)
    rw [← hv.bank j fun h => hdisjoint j h j (List.mem_cons_of_mem _ hj) rfl]
    obtain h | ⟨h, -, -, htouch⟩ := hz
    · rw [h]
    · exact htouch.bank j hne
  have hafter : CutKept post z s.truncateHolders := by
    unfold State.truncateHolders
    rw [hall, List.foldl_append, List.foldl_cons]
    exact CutKept.foldl post z hpostNodup hzwaits fun j hj => hzbank j hj ▸ hm j
  refine ⟨v, hv.down, hv.nothingWaits, hvbank, hafter.bank bk hpost, fun k hk => ⟨hv.cyl k fun j hj => ?_, ?_⟩⟩
  · exact hk j fun h => hpre (h ▸ hj)
  · exact hafter.cyl k fun j hj => hzbank j hj ▸ hk j fun h => hpost (h ▸ hj)

/-! ## The judgement, and the end of the stop -/

/-- The stop stands judged in mode CUT: STOPPING while an event is left, and READY with RUN_STATE, bit 11, when none is (R136). -/
def State.cutJudged (s : State) : Prop :=
  ((∃ k, (s.cyl k).event ≠ none) → s.ctl.run = .stopping ∧ s.ctl.stopMode = .cut)
    ∧ ((∀ k, (s.cyl k).event = none) → s.ctl.run = .ready ∧ s.ctl.stopMode = .none ∧ s.ev.sticky.getLsbD 11 = true)

/-- A stop in mode CUT that is not judged yet, or has been judged with no event left. -/
def State.cutOpen (s : State) : Prop :=
  (s.ctl.run = .stopping ∧ s.ctl.stopMode = .cut)
    ∨ ((∀ k, (s.cyl k).event = none) ∧ s.ctl.run = .ready ∧ s.ctl.stopMode = .none ∧ s.ev.sticky.getLsbD 11 = true)

theorem State.checkStopped_flag (s : State) : s.checkStopped.ev.sticky.getLsbD 9 = s.ev.sticky.getLsbD 9 := by
  unfold State.checkStopped
  split
  · simp [State.changeRun, Flag.word, Flag.bit]
  · rfl

/-- The test of the event table (R136). -/
theorem State.checkStopped_cut (h : s.cutOpen) : s.checkStopped.cutJudged := by
  obtain ⟨hr, hm⟩ | ⟨hnone, hr, hm, hf⟩ := h
  · unfold State.checkStopped
    by_cases he : s.tableEmpty = true
    · rw [if_pos ⟨hr, by rw [hm]; rfl, he⟩]
      have hnone := s.tableEmpty_iff.1 he
      refine ⟨fun ⟨k, hk⟩ => absurd (hnone k) hk, fun _ => ⟨rfl, rfl, ?_⟩⟩
      simp [State.changeRun, Flag.word, Flag.bit]
    · rw [if_neg fun h => he h.2.2]
      exact ⟨fun _ => ⟨hr, hm⟩, fun h => absurd (s.tableEmpty_iff.2 h) he⟩
  · rw [State.checkStopped_of_not fun h => by rw [hr] at h; cases h.1]
    exact ⟨fun ⟨k, hk⟩ => absurd (hnone k) hk, fun _ => ⟨hr, hm, hf⟩⟩

theorem State.cutJudged.cutOpen (h : s.cutJudged) : s.cutOpen := by
  by_cases hn : ∀ k, (s.cyl k).event = none
  · exact .inr ⟨hn, h.2 hn⟩
  · exact .inl (h.1 (not_forall.1 hn))

/-- A judgement in the course of a CUT (R77, R136). -/
theorem State.settle_cut (k : CylId) (h : s.cutOpen) :
    (s.settle k).cutOpen ∧ (s.settle k).ev.sticky.getLsbD 9 = s.ev.sticky.getLsbD 9 := by
  unfold State.settle
  split
  · rename_i e he
    split
    · have hctl : s.ctl.run = .stopping ∧ s.ctl.stopMode = .cut := h.resolve_right fun ⟨hn, _⟩ => by
        rw [hn k] at he
        cases he
      rw [State.finish_eq]
      refine ⟨State.cutJudged.cutOpen (State.checkStopped_cut (.inl hctl)), (State.checkStopped_flag _).trans ?_⟩
      show (s.report k e).ev.sticky.getLsbD 9 = _
      rw [State.report_full]
      dsimp only
      split <;> simp
    · exact ⟨h, rfl⟩
  · exact ⟨h, rfl⟩

theorem State.settleAll_cut (h : s.cutOpen) :
    s.settleAll.cutOpen ∧ s.settleAll.ev.sticky.getLsbD 9 = s.ev.sticky.getLsbD 9 :=
  List.foldlRecOn (motive := fun u : State => u.cutOpen ∧ u.ev.sticky.getLsbD 9 = s.ev.sticky.getLsbD 9) _ _ ⟨h, rfl⟩
    fun _ ⟨ho, hf⟩ k _ => ⟨(State.settle_cut k ho).1, (State.settle_cut k ho).2.trans hf⟩

/-- The state of a stop in mode CUT once everything that waits has been dropped (R136). -/
def State.cutDropped (s : State) : State := (s.setStopMode .cut).withdraw (fun _ => true) .stopDrop

theorem State.cutDropped_cyl (s : State) (k : CylId) :
    s.cutDropped.cyl k = { s.cyl k with event := (s.cyl k).event.map (Event.dropped s.now .stopDrop) } := by
  have hdrop : s.cutDropped.cyl k = (s.cyl k).dropPulses s.now .stopDrop := by
    simp [State.cutDropped, State.withdraw, State.cyl, State.setStopMode]
  have hpulse : Pulse.drop s.now .stopDrop = Pulse.dropped s.now .stopDrop := funext (Pulse.drop_eq_dropped s.now .stopDrop)
  rw [hdrop, Cylinder.dropPulses, hpulse]
  rfl

theorem State.cutDropped_holders (s : State) : s.holdersKept s.cutDropped := State.withdraw_holdersKept (s.setStopMode .cut) _ _

theorem State.cutDropped_match (hm : s.playersMatch) : s.cutDropped.playersMatch := fun j h q hh hq => by
  obtain ⟨-, hholder, hchannel⟩ := s.cutDropped_holders j
  exact hm j h q (hholder ▸ hh) (hchannel ▸ hq)

/-- What a CUT comes to, its four ends aside (R136). -/
theorem State.stopCut_judged (hr : s.ctl.run = .stopping) (hm : s.playersMatch) :
    s.stopCut.nothingWaits ∧ s.stopCut.cutJudged ∧ s.stopCut.ev.sticky.getLsbD 9 = s.ev.sticky.getLsbD 9
      ∧ s.stopCut.banks = s.cutDropped.truncateHolders.banks
      ∧ (∀ k, s.stopCut.cyl k = (s.cutDropped.truncateHolders.cyl k).settled)
      ∧ (∀ k, (s.cyl k).event = none → (s.stopCut.cyl k).event = none)
      ∧ ∀ k, (∀ j h, (s.bank j).holder = some h → (s.bank j).mode = .active → h.cyl ≠ k) →
        s.cutDropped.truncateHolders.cyl k = s.cutDropped.cyl k := by
  have hkept : CutKept BankId.all s.cutDropped s.cutDropped.truncateHolders :=
    CutKept.foldl BankId.all _ (by decide) (State.withdraw_nothingWaits _ _) fun j _ => State.cutDropped_match hm j
  have hopen : s.cutDropped.truncateHolders.cutOpen := .inl (by
    rw [hkept.ctl]
    exact ⟨hr, rfl⟩)
  obtain ⟨hsettled, hflag⟩ := State.settleAll_cut hopen
  have hcyl : ∀ k, s.stopCut.cyl k = (s.cutDropped.truncateHolders.cyl k).settled := fun k => by
    show (State.checkStopped _).cyl k = _
    rw [State.cyl, State.checkStopped_cyls, State.settleAll_cyls, Eight.get_map]
    rfl
  refine ⟨?_, State.checkStopped_cut hsettled, (State.checkStopped_flag _).trans (hflag.trans hkept.flag),
    (State.checkStopped_banks _).trans (State.settleAll_banks _), hcyl, fun k hk => ?_,
    fun k hk => hkept.cyl k fun j _ h hh hact => ?_⟩
  · exact State.nothingWaits_congr (State.settleAll_nothingWaits hkept.nothingWaits) (State.checkStopped_arm _)
      (State.checkStopped_banks _) (State.checkStopped_cyls _)
  · have hnone : (s.cutDropped.truncateHolders.cyl k).event = none := hkept.none k (by rw [State.cutDropped_cyl, hk]; rfl)
    rw [hcyl, Cylinder.settled, hnone]
    exact hnone
  · obtain ⟨hmode, hholder, -⟩ := s.cutDropped_holders j
    exact hk j h (hholder ▸ hh) (hmode ▸ hact)

/-- STOP with mode CUT, in RUNNING or under a weaker stop mode, is taken and goes over to the CUT (R133, R136, R137). -/
theorem State.exec_stopCut (top : BitVec 4) (t : Time) (sense : Four BankSense) (hheld : s.held = false)
    (hr : s.ctl.run = .running ∨ (s.ctl.run = .stopping ∧ (s.ctl.stopMode = .cycle ∨ s.ctl.stopMode = .event))) :
    ∃ v : State, exec (.stop 0 top t sense []) s = .next v.stopCut ∧ v.now = t ∧ v.pins.sense = sense ∧ v.banks = s.banks
      ∧ v.cyls = s.cyls ∧ v.ctl.run = .stopping ∧ v.ev.sticky.getLsbD 9 = s.ev.sticky.getLsbD 9 := by
  let a : State := ((s.at t).seeAll sense).answer (requestWord 3 0 top) .accepted
  have hloaded : s.ctl.run.isLoaded = true := by rcases hr with h | ⟨h, -⟩ <;> rw [h] <;> rfl
  have hexec : exec (.stop 0 top t sense []) s = .next (a.stopBy .cut) := by
    show Host.Outcome.next (State.takeStop 0 top ((s.at t).seeAll sense)) = _
    have hheld : ((s.at t).seeAll sense).held = false := hheld
    have hloaded : ((s.at t).seeAll sense).ctl.run.isLoaded = true := hloaded
    have hmode : stopModeOf 0 = some .cut := rfl
    simp only [State.takeStop, hmode, State.takeRequest, hheld, hloaded]
    rfl
  rcases hr with hr | ⟨hr, hm⟩
  · refine ⟨a.changeRun .stopping, ?_, rfl, rfl, rfl, rfl, rfl, ?_⟩
    · rw [hexec, State.stopBy, show a.ctl.run = .running from hr]
      rfl
    · simp [a, State.changeRun, Flag.word, Flag.bit, State.answer, State.at, State.seeAll]
  · refine ⟨a, ?_, rfl, rfl, rfl, rfl, hr, rfl⟩
    rw [hexec, State.stopBy, show a.ctl.run = .stopping from hr]
    dsimp only
    unfold State.strengthenStop
    rcases hm with hm | hm <;> rw [show a.ctl.stopMode = _ from hm]

/-- What a CUT makes of one bank and of one cylinder, no other ACTIVE holder being of that cylinder (R136). -/
theorem State.stopCut_bank (hm : s.playersMatch) (hr : s.ctl.run = .stopping) (bk : BankId) : ∃ v : State,
    v.nothingWaits ∧ v.now = s.now ∧ v.pins = s.pins ∧ v.su = s.su ∧ v.bank bk = s.cutDropped.bank bk
    ∧ s.stopCut.bank bk = (v.truncateHolder bk).bank bk
    ∧ ∀ k, (∀ j, j ≠ bk → ∀ h, (s.bank j).holder = some h → (s.bank j).mode = .active → h.cyl ≠ k) →
      v.cyl k = s.cutDropped.cyl k ∧ s.stopCut.cyl k = ((v.truncateHolder bk).cyl k).settled := by
  obtain ⟨-, -, -, hbanks, hcyls, -, -⟩ := State.stopCut_judged hr hm
  obtain ⟨v, hdown, hw, hbank, hbk, hcyl⟩ :=
    State.truncateHolders_split (State.withdraw_nothingWaits (s.setStopMode .cut) .stopDrop) (State.cutDropped_match hm) bk
  refine ⟨v, hw, hdown.now, hdown.pins, hdown.su, hbank, ?_, fun k hk => ?_⟩
  · rw [State.bank, hbanks]
    exact hbk
  · obtain ⟨hvcyl, hafter⟩ := hcyl k fun j hj h hh hact => by
      obtain ⟨hmode, hholder, -⟩ := s.cutDropped_holders j
      exact hk j hj h (hholder ▸ hh) (hmode ▸ hact)
    exact ⟨hvcyl, by rw [hcyls k]; exact congrArg Cylinder.settled hafter⟩

end Sys2Proof.Machine

/-! # STOP with mode CUT: the obligation -/

namespace Sys2Proof.Machine

section
variable {s t : State} {bk : BankId} {e : Event} {i : Nat} {kind : Kind} {d : Bool}

/-! ## The end of one holder -/

/-- A played event pulse ended TRUNCATED where its cylinder has no pulse that waits (R95, R113): its results, and no drop more. -/
theorem State.inQuench_waitless {p : Player} (hun : s.unlisted p.cyl) (hdown : (s.cyl p.cyl).settledDown)
    (hj : p.job = .event e.seq i kind d)
    (he : (s.cyl p.cyl).event = some e) :
    (s.inQuench bk p .truncated).bank bk = (s.bank bk).ended p .truncated s.now
      ∧ (s.inQuench bk p .truncated).cyl p.cyl = { (s.cyl p.cyl).counted false with
        event := some (e.ended i .quench (p.resultAt .truncated s.now)) } := by
  have hcounted : (s.fixEnd bk p .truncated).clearFaults p.cyl = (s.fixEnd bk p .truncated).counted p.cyl false :=
    State.clearFaults_eq _ _
  have htouch := (Touches.fixEnd s p .truncated).trans (Touches.clearFaults (bk := bk) (k := p.cyl) _)
  have hcap := (htouch.unlisted hun).capCheck (htouch.down hdown) e.seq .truncated
  have hquench := State.inQuench_uncapped (bk := bk) (o := .truncated) hj he (hcounted ▸ hcap) (fun h : false = true => nomatch h)
  rw [hquench]
  exact ⟨Four.get_set_same _ _ _, Eight.get_set_same _ _ _⟩

/-- The fixing of a dry holder's results, before its cap is met, touches its bank and its cylinder (R98). -/
theorem Touches.dryFixed (h : Holder) (i : Nat) (o : PulseOutcome) (he : (s.cyl h.cyl).event = some e) :
    Touches bk h.cyl s (s.dryFixed bk h i e o) := by
  have hbank : Touches bk h.cyl s (s.setBank bk { s.bank bk with capAt := Option.none, dryEndAt := Option.none }) :=
    Touches.setBank _ rfl rfl
  have hend := Touches.endInEvent (bk := bk) (k := h.cyl)
    (s.setBank bk { s.bank bk with capAt := Option.none, dryEndAt := Option.none }) e.seq i (c := .resolved) rfl
    (h.resultAt o s.now)
  rw [State.endInEvent_of (by exact he) rfl] at hend
  exact hbank.trans hend

/-- A dry holder that a CUT ends (R98, R136): its results, its bank released, and no drop more. -/
theorem State.stopDry_waitless {h : Holder} (hw : s.nothingWaits) (hj : h.job = .event e.seq i kind d)
    (he : (s.cyl h.cyl).event = some e) :
    ((s.stopDry bk h .truncated).bank bk).mode = .settling ∧ ((s.stopDry bk h .truncated).bank bk).holder = none
      ∧ ((s.stopDry bk h .truncated).bank bk).releaseAt = some s.now
      ∧ ((s.stopDry bk h .truncated).cyl h.cyl).event = some (e.ended i .resolved (h.resultAt .truncated s.now)) := by
  have hcap := ((Touches.dryFixed (bk := bk) h i .truncated he).nothingWaits hw).capCheck h.cyl e.seq .truncated
  obtain ⟨a, hrelease⟩ := (s.dryFixed bk h i e .truncated).release_eq bk
  rw [(State.stopDry_eq hj he .truncated).1, hcap, hrelease]
  have hbank := fun x => Four.get_set_same (s.dryFixed bk h i e .truncated).banks bk x
  exact ⟨congrArg Bank.mode (hbank _), congrArg Bank.holder (hbank _), congrArg Bank.releaseAt (hbank _),
    congrArg Cylinder.event (Eight.get_set_same _ _ _)⟩

/-- The bank of a quench that is over is settling (R83, R116). -/
theorem State.quenchOver_mode {p : Player} (hp : (s.bank bk).channel = some p) : ((s.quenchOver bk).bank bk).mode = .settling := by
  have hfree : ∀ v : State, (((v.freeBank bk).headCheck bk).bank bk).mode = .settling := fun v => by
    obtain ⟨a, h⟩ := v.freeBank_released bk
    rw [h]
    exact congrArg Bank.mode (Four.get_set_same _ _ _)
  unfold State.quenchOver
  rw [hp]
  dsimp only
  split
  · exact hfree _
  · rw [State.modPulse, State.headCheck_modEvent, State.bank, State.modEvent_banks]
    exact hfree s

/-- A dry holder's end releases its bank (R98). -/
theorem State.stopDry_mode {h : Holder} (hd : h.dry = true) (o : PulseOutcome) :
    ((s.stopDry bk h o).bank bk).mode = .settling := by
  have hrelease : ∀ v : State, (((v.release bk).headCheck bk).bank bk).mode = .settling := fun v => by
    obtain ⟨a, h⟩ := v.release_eq bk
    rw [h]
    exact congrArg Bank.mode (Four.get_set_same _ _ _)
  unfold Holder.dry at hd
  unfold State.stopDry
  split at hd
  · rename_i hj
    rw [hj]
    exact hrelease _
  · cases hd

/-- A played pulse's end leaves its bank in QUENCH, or released (R113, R115). -/
theorem State.stopPlayed_mode {p : Player} (hp : (s.bank bk).channel = some p) (hq : p.cond ≠ .quench) (o : PulseOutcome) :
    ((s.stopPlayed bk o).bank bk).mode ≠ .active := by
  obtain ⟨w, a, c, hbank⟩ := s.inQuench_bank bk p o
  rw [State.stopPlayed_eq hp hq, State.quenchStanding]
  split
  · rw [State.quenchOver_mode (p := p.ended o s.now) (by rw [hbank]; rfl)]
    decide
  · rw [hbank]
    exact nofun

/-- No bank is ACTIVE after its holder's end (R136). -/
theorem State.truncateHolder_mode (hok : (s.bank bk).ok)
    (hplays : ∀ h, (s.bank bk).mode = .active → (s.bank bk).holder = some h → h.dry = false → (s.bank bk).channel ≠ none) :
    ((s.truncateHolder bk).bank bk).mode ≠ .active := by
  obtain ⟨hholder, hchannel, -⟩ := hok
  unfold State.truncateHolder State.stopHolder
  by_cases hm : (s.bank bk).mode = .active
  · obtain ⟨h, hh⟩ := Option.isSome_iff_exists.1 (hholder.2 (.inl hm))
    rw [hh]
    dsimp only
    rw [if_pos hm]
    by_cases hd : h.dry = true
    · rw [if_pos hd, State.stopDry_mode hd]
      decide
    · rw [if_neg hd]
      obtain ⟨p, hp⟩ := Option.ne_none_iff_exists'.1 (hplays h hm hh (Bool.eq_false_iff.2 hd))
      obtain ⟨-, hquench⟩ := hchannel p hp
      exact State.stopPlayed_mode hp (fun hq => by simp [hm] at hquench; exact hquench hq) .truncated
  · split
    · exact hm
    · rw [if_neg hm]
      exact hm

/-! ## The end of one holder among the four -/

/-- A pulse that has ended in a quench keeps its event in the table (R77). -/
theorem Event.ended_unresolved (he : ∃ q ∈ e.pulses, q.plan.index = i) (r : PulseResult) :
    ∃ q ∈ (e.ended i .quench r).pulses, q.cond ≠ .resolved := by
  obtain ⟨q, hq, hi⟩ := he
  exact ⟨_, List.mem_map.2 ⟨q, hq, if_pos hi⟩, nofun⟩

theorem Event.dropped_index {e : Event} (he : ∃ q ∈ e.pulses, q.plan.index = i) (t : Time) (o : PulseOutcome) :
    ∃ q ∈ (e.dropped t o).pulses, q.plan.index = i := by
  obtain ⟨q, hq, hi⟩ := he
  refine ⟨_, List.mem_map.2 ⟨q, hq, rfl⟩, ?_⟩
  unfold Pulse.dropped
  split <;> exact hi

/-- The bank of an ACTIVE holder at a CUT, and its cylinder, which no other ACTIVE holder has (R136). -/
structure Cutting (s : State) (bk : BankId) (h : Holder) (e : Event) (i : Nat) (kind : Kind) (d : Bool) : Prop where
  players : s.playersMatch
  run : s.ctl.run = .stopping
  holder : (s.bank bk).holder = some h
  active : (s.bank bk).mode = .active
  job : h.job = .event e.seq i kind d
  event : (s.cyl h.cyl).event = some e
  own : ∀ j h', (s.bank j).holder = some h' → h'.cyl = h.cyl → j = bk

/-- What a CUT makes of that bank and that cylinder is what the holder's own end makes of them, once nothing waits. -/
theorem Cutting.end_alone {h : Holder} (c : Cutting s bk h e i kind d) : ∃ v : State,
    v.nothingWaits ∧ v.now = s.now ∧ v.pins = s.pins ∧ (v.bank bk).channel = (s.bank bk).channel
      ∧ (v.bank bk).holder = some h ∧ (v.cyl h.cyl).event = some (e.dropped s.now .stopDrop)
      ∧ s.stopCut.bank bk = ((if h.dry then v.stopDry bk h .truncated else v.stopPlayed bk .truncated)).bank bk
      ∧ s.stopCut.cyl h.cyl =
        ((if h.dry then v.stopDry bk h .truncated else v.stopPlayed bk .truncated).cyl h.cyl).settled := by
  obtain ⟨v, hw, hnow, hpins, -, hbank, hcut, hcyl⟩ := State.stopCut_bank c.players c.run bk
  obtain ⟨hvcyl, hcutcyl⟩ := hcyl h.cyl fun j hj h' hh' _ hk => hj (c.own j h' hh' hk)
  obtain ⟨hmode, hholder, hchannel⟩ := s.cutDropped_holders bk
  rw [← hbank] at hmode hholder hchannel
  have hend : v.truncateHolder bk = if h.dry then v.stopDry bk h .truncated else v.stopPlayed bk .truncated := by
    unfold State.truncateHolder State.stopHolder
    rw [hholder, c.holder]
    dsimp only
    rw [if_pos (hmode.trans c.active)]
  refine ⟨v, hw, hnow, hpins, hchannel, hholder.trans c.holder, ?_, hend ▸ hcut, hend ▸ hcutcyl⟩
  rw [hvcyl, State.cutDropped_cyl, c.event]
  rfl

/-- A played one goes to QUENCH, and its event stays (R77, R136). -/
theorem Cutting.played {h : Holder} {p : Player} (c : Cutting s bk h e i kind d) (hd : h.dry = false) (hk : h.cyl = p.cyl)
    (hj : h.job = p.job) (hi : ∃ q ∈ e.pulses, q.plan.index = i) (hp : Playing s bk p (s.pins.sense.get bk)) :
    (s.stopCut.bank bk).mode = .quench ∧ (s.stopCut.bank bk).holder = some h
      ∧ (s.stopCut.bank bk).channel = some (p.ended .truncated s.now) ∧ (s.stopCut.cyl h.cyl).faults = 0
      ∧ (s.stopCut.cyl h.cyl).event =
        some ((e.dropped s.now .stopDrop).ended i .quench (p.resultAt .truncated s.now)) := by
  obtain ⟨v, hw, hnow, hpins, hchannel, hholder, hevent, hbank, hcyl⟩ := c.end_alone
  rw [hd, if_neg Bool.false_ne_true] at hbank hcyl
  have hplay : Playing v bk p (v.pins.sense.get bk) := ⟨hchannel.trans hp.channel, hp.phase, hpins ▸ hp.current⟩
  obtain ⟨hended, hcounted⟩ := State.inQuench_waitless (bk := bk) (e := e.dropped s.now .stopDrop) (hw.unlisted _) (hw.down _)
    (hj.symm.trans c.job) (hk ▸ hevent)
  have hstop := (State.endPlayed_of_playing hplay .truncated).1
  rw [hstop, hended, hnow] at hbank
  rw [hk, hstop, hcounted, hnow] at hcyl
  rw [hbank, hk]
  have hunresolved := Event.ended_unresolved (Event.dropped_index hi s.now .stopDrop) (p.resultAt .truncated s.now)
  refine ⟨rfl, hholder, rfl, ?_, (State.judged_of_settled hcyl rfl).1 hunresolved⟩
  rw [hcyl, Cylinder.settled_faults]
  rfl

/-- A dry one releases its bank (R98, R136). -/
theorem Cutting.dry {h : Holder} (c : Cutting s bk h e i kind d) (hd : h.dry = true) :
    (s.stopCut.bank bk).mode = .settling ∧ (s.stopCut.bank bk).holder = none ∧ (s.stopCut.bank bk).releaseAt = some s.now
      ∧ s.stopCut.judged h.cyl ((e.dropped s.now .stopDrop).ended i .resolved (h.resultAt .truncated s.now)) := by
  obtain ⟨v, hw, hnow, -, -, -, hevent, hbank, hcyl⟩ := c.end_alone
  rw [hd, if_pos rfl] at hbank hcyl
  obtain ⟨hmode, hholder, hrelease, hended⟩ := State.stopDry_waitless (bk := bk) (e := e.dropped s.now .stopDrop) hw c.job hevent
  rw [hnow] at hrelease hended
  exact ⟨hbank ▸ hmode, hbank ▸ hholder, hbank ▸ hrelease, State.judged_of_settled hcyl hended⟩

end

/-- A part that obeys the bank rules has players only for the holders of their banks (R98). -/
theorem State.banksOk.playersMatch {s : State} (hok : s.banksOk) : s.playersMatch := fun j h q hh hq => by
  obtain ⟨-, hchannel, -⟩ := hok j
  obtain ⟨⟨g, hg, hk, -⟩, -⟩ := hchannel q hq
  rw [hh] at hg
  cases hg
  exact hk.symm

/-- Of the banks, a CUT ends the ACTIVE holders only, and counts no conflict (R136). -/
theorem State.stopCut_banks {s : State} (hok : s.banksOk) (hr : s.ctl.run = .stopping)
    (hplays : ∀ bk h, (s.bank bk).mode = .active → (s.bank bk).holder = some h → h.dry = false → (s.bank bk).channel ≠ none)
    (bk : BankId) : (s.stopCut.bank bk).mode ≠ .active ∧ (s.stopCut.bank bk).conflicts = (s.bank bk).conflicts
      ∧ ((s.bank bk).mode = .quench → (s.stopCut.bank bk).mode = .quench ∧ (s.stopCut.bank bk).holder = (s.bank bk).holder
        ∧ (s.stopCut.bank bk).channel = (s.bank bk).channel) := by
  have hmatch := hok.playersMatch
  obtain ⟨v, hw, -, -, -, hbank, hcut, -⟩ := State.stopCut_bank hmatch hr bk
  obtain ⟨hmode, hholder, hchannel⟩ := s.cutDropped_holders bk
  have hconflicts : (s.cutDropped.bank bk).conflicts = (s.bank bk).conflicts := by
    unfold State.cutDropped
    rw [State.withdraw_bank]
    rfl
  rw [← hbank] at hmode hholder hchannel hconflicts
  obtain ⟨hholderOk, hchannelOk, -⟩ := hok bk
  rw [hcut]
  refine ⟨State.truncateHolder_mode ?_ ?_, ?_, fun hq => ?_⟩
  · refine ⟨?_, ?_, by rw [Bank.waitOk, hw.2.2.1 bk]; exact Nat.zero_le _⟩
    · rw [Bank.holderOk, hmode, hholder]
      exact hholderOk
    · rw [Bank.channelOk, hmode, hholder, hchannel]
      exact hchannelOk
  · rw [hmode, hholder, hchannel]
    exact hplays bk
  · obtain h | ⟨h, -, -, htouch⟩ := State.truncateHolder_touches (bk := bk) hw (by
      rw [hholder, hchannel]
      exact hmatch bk)
    · rw [h, hconflicts]
    · rw [htouch.conflicts, hconflicts]
  · have hsame : v.truncateHolder bk = v := by
      unfold State.truncateHolder State.stopHolder
      split
      · rfl
      · rw [if_neg (by rw [hmode, hq]; decide)]
    rw [hsame]
    exact ⟨hmode.trans hq, hholder, hchannel⟩

/-- In READY, nothing behind the tracker changes the run controller. -/
theorem Downstream.ctl_ready {s t : State} (h : Downstream s t) (hr : s.ctl.run = .ready) : t.ctl = s.ctl := by
  obtain ⟨hrun, hmode⟩ : t.ctl.run = s.ctl.run ∧ t.ctl.stopMode = s.ctl.stopMode := by
    rcases h.ctl with ⟨hrun, hmode | ⟨hstop, -⟩⟩ | ⟨hstop, -⟩
    · exact ⟨hrun, hmode⟩
    · exact absurd (hr.symm.trans hstop) nofun
    · exact absurd (hr.symm.trans hstop) nofun
  have hinhibit := h.inhibit
  have hparity := h.evenParity
  have hresult := h.lastResult
  have hcause := h.resetCause
  have hrequest := h.requestReg
  cases ht : t.ctl
  cases hs : s.ctl
  simp_all

/-- STOP with mode CUT in READY (R124, R136). -/
theorem State.exec_stopReady {s : State} (top : BitVec 4) (t : Time) (sense : Four BankSense) (hheld : s.held = false)
    (hr : s.ctl.run = .ready) : exec (.stop 0 top t sense []) s =
      .next (((s.at t).seeAll sense).answer (requestWord 3 0 top) .accepted).truncateServices := by
  have hheld : ((s.at t).seeAll sense).held = false := hheld
  have hloaded : ((s.at t).seeAll sense).ctl.run.isLoaded = true := by
    rw [show ((s.at t).seeAll sense).ctl.run = .ready from hr]
    rfl
  have hmode : stopModeOf 0 = some .cut := rfl
  show Host.Outcome.next (State.takeStop 0 top ((s.at t).seeAll sense)) = _
  simp only [State.takeStop, hmode, State.takeRequest, hheld, hloaded]
  show Host.Outcome.next (State.stopBy .cut _) = _
  rw [State.stopBy, show (((s.at t).seeAll sense).answer (requestWord 3 0 top) .accepted).ctl.run = .ready from hr]
  rfl

/-- Settles O54. -/
theorem stopCut : Obligations.StopCut := by
  refine ⟨fun s top t sense hheld hok hr hplays => ?_, fun s top t sense bk p h f hheld hr hp hh hm hj hpj => ?_⟩
  · obtain ⟨v, hexec, hnow, hsense, hbanks, hcyls, hrun, hflag⟩ := State.exec_stopCut top t sense hheld hr
    have hbank : ∀ bk, v.bank bk = s.bank bk := fun bk => by rw [State.bank, hbanks]; rfl
    have hcyl : ∀ k, v.cyl k = s.cyl k := fun k => by rw [State.cyl, hcyls]; rfl
    have hvok : v.banksOk := banksOk_congr hok hbanks
    obtain ⟨hwaits, ⟨hopen, hready⟩, hraised, -, hsettled, hnone, hspared⟩ := State.stopCut_judged hrun hvok.playersMatch
    obtain ⟨hpending, harmed, hwaiting, -⟩ := hwaits
    simp only [← hbank, ← hcyl] at hplays ⊢
    subst hnow
    refine ⟨v.stopCut, hexec, ((Downstream.refl v).stopCut hrun).now, hpending, harmed, hwaiting, hnone, fun k e he hk => ?_,
      fun bk h seq i kind d e hh hm hj he hs hi hown => ?_, State.stopCut_banks hvok hrun hplays,
      hraised.trans hflag, hready, hopen⟩
    · refine State.judged_of_settled (hsettled k) ?_
      rw [hspared k fun j h hh hactive => hk j h hh hactive, State.cutDropped_cyl, he]
      rfl
    · subst hs
      have hcut : Cutting v bk h e i kind d := ⟨hvok.playersMatch, hrun, hh, hm, hj, he, hown⟩
      have hdry : h.dry = d := by simp [Holder.dry, hj]
      refine ⟨fun p hd hp => ?_, fun hd => hcut.dry (hdry.trans hd)⟩
      have hp : Playing v bk p (v.pins.sense.get bk) := ⟨(hbank bk).symm ▸ hp.channel, hp.phase, hsense ▸ hp.current⟩
      obtain ⟨-, hchannel, -⟩ := hvok bk
      obtain ⟨⟨g, hg, hk, hgj, -⟩, -⟩ := hchannel p hp.channel
      rw [hh] at hg
      cases hg
      exact hcut.played (hdry.trans hd) hk hgj hi hp
  · let a : State := ((s.at t).seeAll sense).answer (requestWord 3 0 top) .accepted
    have hdown := a.truncateServices_down
    exact ⟨a.truncateServices, State.exec_stopReady top t sense hheld hr, hdown.now, hdown.ctl_ready hr,
      State.truncateServices_playing (s := a) ⟨hp.channel, hp.phase, hp.current⟩ hh hm hj hpj⟩

end Sys2Proof.Machine

/-! # Quenches that end at their entry: the obligation -/

namespace Sys2Proof.Machine

section
variable {s : State} {bk : BankId} {p : Player} {e : Event} {i : Nat} {kind : Kind} {d : Bool} {o : PulseOutcome} {f : Nat}

/-! ## The end and the release in one command, nobody waiting -/

/-- An event pulse whose quench ends at its entry: other pulses of its event go on, below the cap (R113, R115, R116). -/
theorem State.endPlayed_spent_event (h : Spent s bk p (s.pins.sense.get bk)) (hw : (s.bank bk).waiting = [])
    (hj : p.job = .event e.seq i kind d) (he : (s.cyl p.cyl).event = some e) (hothers : e.others i) (ho : o ≠ .capped)
    (hd : e.drive + Time.since s.now p.grantedAt < e.snap.driveMax)
    (hf : o.isFault = true → (s.cyl p.cyl).faults < 255 ∧ (s.cyl p.cyl).faults + 1 < s.faultLimit) :
    s.endPlayed bk o =
      { s with
        banks := s.banks.set bk (((s.bank bk).ended p o s.now).released s.su.trim s.now)
        cyls := s.cyls.set p.cyl { (s.cyl p.cyl).counted o.isFault with
          event := some (e.ended i .resolved (p.resultAt o s.now)) }
        ev := { s.ev with sticky := s.ev.sticky ||| (if o.isFault then 0x0080 else 0) }
        mem := s.mem.mirror s.sb.live
          ((0x240 + 8 * bk.index, 2) :: countedWords p.cyl ((s.cyl p.cyl).counted o.isFault) o.isFault
            ++ [(0x240 + 8 * bk.index, 3)]) } := by
  have hquench := State.inQuench_event (bk := bk) hj he ho hd hf
  have hbank : (s.inQuench bk p o).bank bk = (s.bank bk).ended p o s.now := by
    rw [hquench]
    exact Four.get_set_same _ _ _
  have hcyl : (s.inQuench bk p o).cyl p.cyl = { (s.cyl p.cyl).counted o.isFault with
      event := some (e.ended i .quench (p.resultAt o s.now)) } := by
    rw [hquench]
    exact Eight.get_set_same _ _ _
  have hend := State.quenchEnd_event (s := s.inQuench bk p o) (p := p.ended o s.now) (by rw [hbank]; rfl) hj
    (by rw [hbank]; exact hw) (congrArg Cylinder.event hcyl) rfl (hothers.ended _ _)
  rw [(State.endPlayed_of_spent h o).2, hend]
  have hresolved : { e.ended i .quench (p.resultAt o s.now) with
      pulses := modPulses i (fun q => { q with cond := .resolved }) (e.ended i .quench (p.resultAt o s.now)).pulses }
      = e.ended i .resolved (p.resultAt o s.now) := e.ended_resolved i _
  rw [hresolved, State.bankFreed, hbank, show (p.ended o s.now).cyl = p.cyl from rfl, hcyl, hquench]
  simp only [State.setCyl, State.setCyls, Four.set_set, Eight.set_set, Memory.mirror_mirror]

/-- The service pulse whose quench ends at its entry (R113, R115, R116, R125). -/
theorem State.endPlayed_spent_service (h : Spent s bk p (s.pins.sense.get bk)) (hw : (s.bank bk).waiting = [])
    (hj : p.job = .service f)
    (hf : o.isFault = true → (s.cyl p.cyl).faults < 255 ∧ (s.cyl p.cyl).faults + 1 < s.faultLimit) :
    s.endPlayed bk o =
      { s with
        banks := s.banks.set bk (((s.bank bk).ended p o s.now).released s.su.trim s.now)
        cyls := s.cyls.set p.cyl ((s.cyl p.cyl).counted o.isFault)
        sb := { s.sb with service := s.sb.service.closed (p.resultAt o s.now) }
        ev := { s.ev with sticky := s.ev.sticky ||| (if o.isFault then 0x0080 else 0) ||| 0x8000 }
        mem := s.mem.mirror s.sb.live
          ((0x240 + 8 * bk.index, 2) :: countedWords p.cyl ((s.cyl p.cyl).counted o.isFault) o.isFault
            ++ [(0x1B4, BitVec.ofNat 16 (min 65535 (p.resultAt o s.now).driven)),
              (0x1B6, BitVec.ofNat 16 (min 65535 (p.resultAt o s.now).peak)),
              (0x1B2, BitVec.ofNat 16 (2 * (p.resultAt o s.now).boostLow.toNat)),
              (0x1B8, BitVec.ofNat 16 (p.resultAt o s.now).outcome.code), (0x240 + 8 * bk.index, 3)]) } := by
  have hquench := State.inQuench_service (bk := bk) hj hf
  have hbank : (s.inQuench bk p o).bank bk = (s.bank bk).ended p o s.now := by
    rw [hquench]
    exact Four.get_set_same _ _ _
  have hend := State.quenchEnd_service (s := s.inQuench bk p o) (p := p.ended o s.now) (r := p.resultAt o s.now)
    (by rw [hbank]; rfl) hj rfl (by rw [hbank]; exact hw)
  rw [(State.endPlayed_of_spent h o).2, hend, hbank, hquench]
  simp only [Four.set_set, Memory.mirror_mirror]

/-- What has been shown does not tell the order of its words. -/
theorem Memory.Shown.perm {live : Bool} {l l' : List (Nat × Word)} {m m' : Memory} (h : Memory.Shown live l m m')
    (hl : l.Perm l') : Memory.Shown live l' m m' := by
  cases live with
  | false => exact h
  | true =>
    obtain ⟨houtside, hshows⟩ := h
    exact ⟨fun hm => ⟨(houtside hm).1, fun a ha => (houtside hm).2 a fun off hoff =>
      ha off ((hl.map Prod.fst).mem_iff.1 hoff)⟩, fun hm q hq => hshows hm q (hl.mem_iff.2 hq)⟩

/-- The words that such an end shows, the bank's word written twice. -/
theorem Memory.shown_spent (live : Bool) (m : Memory) (bk : BankId) (k : CylId) (x : Cylinder) (fault : Bool)
    (l : List (Nat × Word)) (hl : l = [] ∨ ∃ a b c g, l = [(0x1B4, a), (0x1B6, b), (0x1B2, c), (0x1B8, g)]) :
    Memory.Shown live ((0x240 + 8 * bk.index, 3) :: countedWords k x fault ++ l) m
      (m.mirror live ((0x240 + 8 * bk.index, 2) :: countedWords k x fault ++ (l ++ [(0x240 + 8 * bk.index, 3)]))) := by
  have hnumber := CylId.number_pos k
  have hcyl : k.number ≤ 8 := by cases k <;> decide
  have hindex : bk.index ≤ 3 := by cases bk <;> decide
  have hshown := Memory.mirror_shown_after live (pre := [(0x240 + 8 * bk.index, 2)])
    (l := countedWords k x fault ++ (l ++ [(0x240 + 8 * bk.index, 3)])) m (by simp) ?_ ?_
  · refine Memory.Shown.perm hshown ?_
    rw [← List.append_assoc]
    exact List.perm_append_singleton _ _
  · rcases hl with rfl | ⟨a, b, c, g, rfl⟩ <;> cases fault <;> simp [countedWords] <;> omega
  · rcases hl with rfl | ⟨a, b, c, g, rfl⟩ <;> cases fault <;> simp [countedWords, memBytes] <;> omega

/-! ## A bank that is released -/

/-- A bank whose quench is over is freed (R116), its cap expiry having stopped at the pulse's end. -/
theorem Bank.quenched_freed {x : Bank} (hx : x.capAt = none) (m : Trim) (t : Time) (a : Option Time) :
    (x.quenched m t a).freed t := ⟨rfl, rfl, rfl, rfl, hx⟩

/-- An end leaves no pulse to drop whether its quench is over or not. -/
theorem Event.ended_droppable (e : Event) (i : Nat) (r : PulseResult) :
    (e.ended i .quench r).droppable = (e.ended i .resolved r).droppable := by
  unfold Event.droppable Event.ended modPulses
  dsimp only
  rw [List.filter_map, List.filter_map, List.length_map, List.length_map]
  refine congrArg List.length (List.filter_congr fun q _ => ?_)
  unfold Function.comp
  by_cases hq : q.plan.index = i
  · simp only [hq, if_true]
    rfl
  · simp only [hq, if_false]

/-! ## At the cap, at an overrun, at a CUT -/

/-- The end at the cap expiry, its quench over at once (R97, R115). -/
theorem State.endPlayed_spent_capped (h : Spent s bk p (s.pins.sense.get bk)) (hj : p.job = .event e.seq i kind d)
    (he : (s.cyl p.cyl).event = some e) (hbk : s.bankOf p.cyl = bk) :
    ((s.endPlayed bk .capped).bank bk).freed s.now
      ∧ ((s.endPlayed bk .capped).bank bk).conflicts = BitVec.ofNat 16
        (min 65535 ((s.bank bk).conflicts.toNat + (e.ended i .resolved (p.resultAt .capped s.now)).droppable))
      ∧ (s.endPlayed bk .capped).unlisted p.cyl
      ∧ (s.endPlayed bk .capped).judged p.cyl ((e.ended i .resolved (p.resultAt .capped s.now)).dropped s.now .capDrop) := by
  obtain ⟨hevent, hconflicts, -, hunlisted⟩ := State.inQuench_capped hj he hbk rfl
  obtain ⟨w, a, c, hbank⟩ := s.inQuench_bank bk p .capped
  obtain ⟨⟨x, hfree⟩, hcyl, -, hkept⟩ := State.quenchEnd_released (s := s.inQuench bk p .capped) (p := p.ended .capped s.now)
    (by rw [hbank]; rfl) hj hevent rfl
  rw [(s.inQuench_down bk p .capped).now] at hfree
  rw [(State.endPlayed_of_spent h .capped).2]
  refine ⟨?_, ?_, hkept _ hunlisted, State.judged_of_settled hcyl ?_⟩
  · rw [hfree]
    exact Bank.quenched_freed (by rw [hbank]; rfl) _ _ _
  · rw [hfree, ← Event.ended_droppable]
    exact hconflicts
  · exact congrArg some (e.ended_dropped_resolved i _ _ _)

/-- The end where the cylinder has no pulse that waits, its quench over at once (R95, R115). -/
theorem State.stopPlayed_spent_waitless (h : Spent s bk p (s.pins.sense.get bk)) (hun : s.unlisted p.cyl)
    (hdown : (s.cyl p.cyl).settledDown) (hj : p.job = .event e.seq i kind d) (he : (s.cyl p.cyl).event = some e) :
    (∃ m a, (s.stopPlayed bk .truncated).bank bk = ((s.bank bk).ended p .truncated s.now).quenched m s.now a)
      ∧ ((s.stopPlayed bk .truncated).cyl p.cyl).event = some (e.ended i .resolved (p.resultAt .truncated s.now))
      ∧ (s.stopPlayed bk .truncated).unlisted p.cyl ∧ s.endPlayed bk .truncated = (s.stopPlayed bk .truncated).settle p.cyl := by
  obtain ⟨hbank, hcyl⟩ := State.inQuench_waitless (bk := bk) hun hdown hj he
  obtain ⟨a, hover⟩ := State.quenchOver_released (s := s.inQuench bk p .truncated) (p := p.ended .truncated s.now)
    (by rw [hbank]; rfl) hj (congrArg Cylinder.event hcyl) rfl
  rw [(s.inQuench_down bk p .truncated).now, hbank] at hover
  rw [(State.endPlayed_of_spent h .truncated).1]
  refine ⟨⟨(s.inQuench bk p .truncated).su.trim, a, ?_⟩, ?_, ?_, ?_⟩
  · rw [hover]
    exact Four.get_set_same _ _ _
  · rw [hover]
    refine (congrArg Cylinder.event (Eight.get_set_same _ _ _)).trans ?_
    exact congrArg some (e.ended_resolved i _)
  · have htouch := Touches.stopPlayed h.channel hun hdown
    rw [(State.endPlayed_of_spent h .truncated).1] at htouch
    exact htouch.unlisted hun
  · rw [(State.endPlayed_of_spent h .truncated).2, State.quenchEnd, hbank]
    dsimp only [Bank.ended]
    unfold State.judge
    rw [show (p.ended .truncated s.now).job = _ from hj]
    rfl

/-- What an overrun drops leaves no pulse of its cylinder waiting (R42). -/
theorem State.withdraw_down {k : CylId} (he : (s.cyl k).event = some e) (x : PulseOutcome) :
    ((s.withdraw (· == k) x).cyl k).settledDown := by
  rw [State.withdraw_cyl he]
  rintro _ ⟨⟩ q hq
  obtain ⟨q', -, rfl⟩ := List.mem_map.1 hq
  rw [← Pulse.drop_eq_dropped]
  exact Pulse.drop_not_droppable _ _ _

/-- An overrun that ends a played pulse of its event, the quench over at once and nobody waiting (R42, R115). -/
theorem State.overrun_spent {h : Holder} (hp : Spent s bk p (s.pins.sense.get bk)) (hh : (s.bank bk).holder = some h)
    (hm : (s.bank bk).mode = .active) (hhj : h.job = .event e.seq i kind false) (hj : p.job = h.job) (hk : p.cyl = h.cyl)
    (he : (s.cyl p.cyl).event = some e) (hbk : s.bankOf p.cyl = bk) (hw : (s.bank bk).waiting = [])
    (hi : ∀ q ∈ e.pulses, q.cond = .active → q.plan.index = i) :
    ((s.overrun p.cyl).bank bk).freed s.now ∧ (s.overrun p.cyl).unlisted p.cyl
      ∧ ((s.overrun p.cyl).bank bk).conflicts = (s.bank bk).conflicts ∧ ((s.overrun p.cyl).cyl p.cyl).event = none
      ∧ ((s.overrun p.cyl).cyl p.cyl).lastSeq = e.seq
      ∧ ((s.overrun p.cyl).cyl p.cyl).lastOutcome =
        some (eventOutcome ((e.dropped s.now .overrunDrop).ended i .resolved (p.resultAt .truncated s.now)).pulses) := by
  let v : State := s.withdraw (· == p.cyl) .overrunDrop
  have hvbank : v.bank bk = s.bank bk := by
    have hkept : (s.bank bk).waiting.filter (fun r => !(r.cyl == p.cyl)) = (s.bank bk).waiting := by rw [hw]; rfl
    refine (s.withdraw_bank _ _ bk).trans ?_
    simp [Bank.withdraw, hkept]
  have hve : (v.cyl p.cyl).event = some (e.dropped s.now .overrunDrop) := by rw [State.withdraw_cyl he]
  have hspent : Spent v bk p (v.pins.sense.get bk) := ⟨hvbank ▸ hp.channel, hp.phase, hp.current⟩
  have hown : v.truncateOwn bk p.cyl e.seq = v.endPlayed bk .truncated :=
    State.truncateOwn_active (d := false) (hvbank ▸ hh) (hvbank ▸ hm) hhj hk.symm
  obtain ⟨⟨m, a, hbank⟩, hevent, hun, hend⟩ := State.stopPlayed_spent_waitless (e := e.dropped s.now .overrunDrop) hspent
    (s.withdraw_unlisted _ _) (State.withdraw_down he _) (hj.trans hhj) hve
  have hpast : Past p.cyl e none (v.stopPlayed bk .truncated) :=
    Past.of_event hevent rfl rfl (Event.ended_past (.inr rfl) hi _ _) hun
  have hverdict : ((v.endPlayed bk .truncated).cyl p.cyl).verdict =
      some (eventOutcome ((e.dropped s.now .overrunDrop).ended i .resolved (p.resultAt .truncated s.now)).pulses) := by
    rw [hend, State.cyl, State.settle_cyls, Eight.get_set_same, Cylinder.settled_verdict, Cylinder.verdict, hevent]
    rfl
  have hendBank : (v.endPlayed bk .truncated).bank bk = ((s.bank bk).ended p .truncated s.now).quenched m s.now a := by
    rw [hend, State.bank, State.settle_banks]
    exact hbank.trans (by rw [hvbank]; rfl)
  have hleft := (hend ▸ hpast.settle p.cyl : Past p.cyl e none (v.endPlayed bk .truncated)).overrunEnd bk
    (s.bank bk).waiting.head?
  obtain ⟨⟨x, hx⟩, -⟩ := State.overrunEnd_empty (s := v.endPlayed bk .truncated) (bk := bk) (by rw [hendBank]; rfl)
    (by rw [hendBank]; exact hw) p.cyl e.seq (s.bank bk).waiting.head?
  obtain ⟨hnone, -, hseq, hout⟩ := hleft.left
  rw [State.overrun_eq he, hbk, hown]
  refine ⟨?_, hleft.unlisted, ?_, hnone, hseq, hout.trans hverdict⟩
  · rw [hx, hendBank]
    exact Bank.quenched_freed (x := (s.bank bk).ended p .truncated s.now) rfl m s.now x
  · rw [hx, hendBank]
    rfl

/-- The played holder that a CUT ends, the quench over at once (R115, R136). -/
theorem Cutting.spent {h : Holder} (c : Cutting s bk h e i kind false) (hk : p.cyl = h.cyl) (hj : p.job = h.job)
    (hp : Spent s bk p (s.pins.sense.get bk)) :
    (s.stopCut.bank bk).freed s.now
      ∧ s.stopCut.judged p.cyl ((e.dropped s.now .stopDrop).ended i .resolved (p.resultAt .truncated s.now)) := by
  obtain ⟨v, hw, hnow, hpins, hchannel, hholder, hevent, hbank, hcyl⟩ := c.end_alone
  have hdry : h.dry = false := by simp [Holder.dry, c.job]
  rw [hdry, if_neg Bool.false_ne_true] at hbank hcyl
  have hspent : Spent v bk p (v.pins.sense.get bk) := ⟨hchannel.trans hp.channel, hp.phase, hpins ▸ hp.current⟩
  obtain ⟨⟨m, a, hended⟩, hresolved, -, -⟩ := State.stopPlayed_spent_waitless (e := e.dropped s.now .stopDrop) hspent
    (hw.unlisted _) (hw.down _) (hj.trans c.job) (hk ▸ hevent)
  rw [hnow] at hended hresolved
  refine ⟨?_, State.judged_of_settled (by rw [hk]; exact hcyl) (by rw [← hk]; exact hresolved)⟩
  rw [hbank, hended]
  exact Bank.quenched_freed rfl _ _ _

/-! ## The service pulse -/

/-- The service pulse ended TRUNCATED, its quench over at once, whoever waits (R115, R125). -/
theorem State.endPlayed_spent_truncated (h : Spent s bk p (s.pins.sense.get bk)) (hj : p.job = .service f) :
    (∃ m a, (s.endPlayed bk .truncated).bank bk = ((s.bank bk).ended p .truncated s.now).quenched m s.now a)
      ∧ (∀ j, j ≠ bk → (s.endPlayed bk .truncated).bank j = s.bank j)
      ∧ ((s.endPlayed bk .truncated).cyl p.cyl).faults = 0
      ∧ (s.endPlayed bk .truncated).sb.service = s.sb.service.closed (p.resultAt .truncated s.now)
      ∧ (s.endPlayed bk .truncated).ev.sticky.getLsbD 15 = true := by
  have hquench := State.inQuench_service (s := s) (bk := bk) (o := .truncated) hj (fun h : false = true => nomatch h)
  have hbank : (s.inQuench bk p .truncated).bank bk = (s.bank bk).ended p .truncated s.now := by
    rw [hquench]
    exact Four.get_set_same _ _ _
  obtain ⟨a, m, hover⟩ := State.quenchOver_service (s := s.inQuench bk p .truncated) (p := p.ended .truncated s.now)
    (r := p.resultAt .truncated s.now) (by rw [hbank]; rfl) hj rfl
  have hend : s.endPlayed bk .truncated = (s.inQuench bk p .truncated).quenchOver bk := by
    rw [(State.endPlayed_of_spent h .truncated).2, State.quenchEnd, hbank]
    dsimp only [Bank.ended]
    unfold State.judge
    rw [show (p.ended .truncated s.now).job = _ from hj]
  rw [hbank, hquench] at hover
  rw [hend, hquench, hover]
  refine ⟨⟨s.su.trim, a, Four.get_set_same _ _ _⟩, fun j hj => ?_, ?_, rfl, ?_⟩
  · exact (Four.get_set_ne _ _ hj).trans (Four.get_set_ne _ _ hj)
  · exact congrArg Cylinder.faults (Eight.get_set_same _ _ _)
  · simp

/-- With the service pulse at one bank alone, that one is truncated (R124). -/
theorem State.truncateServices_alone {h : Holder} (hh : (s.bank bk).holder = some h) (hm : (s.bank bk).mode = .active)
    (hj : h.job = .service f) (hothers : ∀ j, j ≠ bk → (s.bank j).heldByService = false)
    (hkept : ∀ j, j ≠ bk → (s.endPlayed bk .truncated).bank j = s.bank j) :
    s.truncateServices = s.endPlayed bk .truncated := by
  have hbefore : ∀ j, j ≠ bk → s.truncateService j = s := fun j hj => by simp [State.truncateService, hothers j hj]
  have hafter : ∀ j, j ≠ bk → (s.endPlayed bk .truncated).truncateService j = s.endPlayed bk .truncated := fun j hj => by
    simp [State.truncateService, hkept j hj, hothers j hj]
  have hown : s.truncateService bk = s.endPlayed bk .truncated := by
    have hservice : (s.bank bk).heldByService = true := by simp [Bank.heldByService, hh, hj]
    have hdry : h.dry = false := by simp [Holder.dry, hj]
    rw [State.truncateService, if_pos hservice, State.endHolder_active hh hm, hdry, if_neg Bool.false_ne_true]
  unfold State.truncateServices BankId.all
  simp only [List.foldl]
  cases bk
  · rw [hown, hafter .b nofun, hafter .c nofun, hafter .d nofun]
  · rw [hbefore .a nofun, hown, hafter .c nofun, hafter .d nofun]
  · rw [hbefore .a nofun, hbefore .b nofun, hown, hafter .d nofun]
  · rw [hbefore .a nofun, hbefore .b nofun, hbefore .c nofun, hown]

/-- A STOP CUT in READY and the first crank edge truncate the service pulses, and change nothing more of the banks (R124). -/
theorem State.exec_truncateServices {c : Instr} {u : Setup} {t : Time} {all : Four BankSense} (hu : s.su.setup = some u)
    (hc : (∃ top, c = .stop 0 top t all [] ∧ s.held = false ∧ s.ctl.run = .ready)
      ∨ (c = .crankEdge u.crankEdge t all [] ∧ s.ctl.run.tracks = true ∧ s.trk.sync = .noSignal)) :
    ∃ (v : State) (x : Tracker), exec c s = .next { v.truncateServices with trk := x } ∧ v.now = t ∧ v.pins.sense = all
      ∧ v.banks = s.banks ∧ v.sb.service = s.sb.service := by
  rcases hc with ⟨top, rfl, hheld, hr⟩ | ⟨rfl, hr, hs⟩
  · let v : State := ((s.at t).seeAll all).answer (requestWord 3 0 top) .accepted
    exact ⟨v, v.truncateServices.trk, State.exec_stopReady top t all hheld hr, rfl, rfl, rfl, rfl⟩
  · let w : State := ((s.at t).seeAll all).setTrk (s.trk.firstEdge u t)
    have hexec : exec (.crankEdge u.crankEdge t all []) s = .next (w.edgeEvent u false) :=
      congrArg Host.Outcome.next (State.crankArrives_first (s := (s.at t).seeAll all) hu hr (.inl hs))
    rw [State.edgeEvent_of_quiet u false (w := w) rfl] at hexec
    exact ⟨w.setMem (w.mem.mirror w.sb.live (edgeWords w.trk)), _, hexec, rfl, rfl, rfl, rfl⟩

end

/-- Settles O47. -/
theorem quenchAtEntry : Obligations.QuenchAtEntry := by
  refine ⟨fun c fault o t s z bk sense p r x w h hw hc hr hx hwords hz => ?_,
    fun s bk sense p h seq i kind e ended hp hh hm hhj hj hk he hs hended => ⟨fun t ht hbk => ?_, fun hsense hbk hw hi y hy => ?_,
      fun top t all hall hheld hr hown hmatch => ?_⟩,
    fun u s a rest e e2 q bk sense f p h seq i hst hno hf hmark hlow hhigh hmain hw hm hh hhj hne hcyl hp hj hk he2 hs ho hd => ?_,
    fun c u s t all bk p h f hp hh hm hhj hj hothers hu hc => ?_⟩
  · obtain ⟨hexec, ho, hfault, hf⟩ : exec c s = .next ((s.expire t bk sense).endPlayed bk o) ∧ o ≠ .capped ∧ o.isFault = fault
        ∧ (o.isFault = true → (s.cyl p.cyl).faults < 255 ∧ (s.cyl p.cyl).faults + 1 < s.faultLimit) := by
      rcases hc with ⟨rfl, rfl, rfl, rfl⟩ | ⟨rfl, rfl, rfl, ht, hrise, hbyte, hlimit⟩
      · exact ⟨State.exec_durationExpiry_played h.channel h.phase sense, nofun, rfl, nofun⟩
      · exact ⟨State.exec_riseLimit h.channel ht hrise sense, nofun, rfl, fun _ => ⟨hbyte, hlimit⟩⟩
    subst hfault hr hx hwords hz
    have hspent := s.expire_spent h t
    refine ⟨fun seq i kind d e hj he hs hothers hd => ?_, fun f hj => ?_⟩
    · subst hs
      rw [hexec, State.endPlayed_spent_event hspent hw hj he hothers ho hd hf]
      have hshown := Memory.shown_spent s.sb.live s.mem bk p.cyl ((s.cyl p.cyl).counted o.isFault) o.isFault [] (.inl rfl)
      rw [List.append_nil] at hshown
      exact ⟨_, rfl, hshown⟩
    · rw [hexec, State.endPlayed_spent_service hspent hw hj hf]
      exact ⟨_, rfl, Memory.shown_spent s.sb.live s.mem bk p.cyl _ o.isFault _ (.inr ⟨_, _, _, _, rfl⟩)⟩
  · subst hs
    have hdry : h.dry = false := by simp [Holder.dry, hhj]
    rw [State.exec_capExpiry ht, State.endHolder_active (s := s.expire t bk sense) hh hm, hdry, if_neg Bool.false_ne_true, hended]
    exact ⟨_, rfl, ((Downstream.refl _).endPlayed bk .capped).now,
      State.endPlayed_spent_capped (s := s.expire t bk sense) (s.expire_spent hp t) (hj.trans hhj) he hbk⟩
  · subst hs hsense hy
    rw [hended]
    exact State.overrun_spent hp hh hm hhj hj hk he hbk hw hi
  · subst hs hall
    obtain ⟨v, hexec, hnow, hsense, hbanks, hcyls, hrun, -⟩ := State.exec_stopCut top t all hheld hr
    have hbank : ∀ j, v.bank j = s.bank j := fun j => by rw [State.bank, hbanks]; rfl
    have hevent : (v.cyl h.cyl).event = some e := by
      rw [State.cyl, hcyls, ← hk]
      exact he
    have hvmatch : v.playersMatch := fun j => by rw [hbank]; exact hmatch j
    have hcut : Cutting v bk h e i kind false := ⟨hvmatch, hrun, (hbank bk).symm ▸ hh, (hbank bk).symm ▸ hm, hhj, hevent,
      fun j => by rw [hbank]; exact hown j⟩
    obtain ⟨hfreed, hjudged⟩ := hcut.spent hk hj ⟨(hbank bk).symm ▸ hp.channel, hp.phase, hsense ▸ hp.current⟩
    obtain ⟨⟨-, -, hwaiting, -⟩, -⟩ := State.stopCut_judged hrun hvmatch
    rw [hnow] at hfreed hjudged
    rw [hended]
    exact ⟨v.stopCut, hexec, hfreed, hwaiting bk, hjudged⟩
  · subst hs
    let v : State := s.atStart a rest bk sense
    have hdry : h.dry = false := by simp [Holder.dry, hhj]
    have hpre : (v.bank bk).preemptedBy (s.startRequest a e q f) = true :=
      (Bank.preemptedBy_iff (by exact hh)).2 ⟨hmain, hm, e2.seq, i, false, hhj, hne⟩
    have hspent : Spent v bk p (v.pins.sense.get bk) := State.expire_spent
      (s := s.setArm { s.arm with armedSet := rest }) (sense := sense) ⟨hp.channel, hp.phase, hp.current⟩ a.start
    have hended := State.endPlayed_spent_event (s := v) (o := .truncated) hspent hw (hj.trans hhj) (hk ▸ he2) ho nofun hd
      (fun h : false = true => nomatch h)
    let A : State := v.endPlayed bk .truncated
    have hAbank : A.bank bk = ((s.bank bk).ended p .truncated a.start).released s.su.trim a.start :=
      (congrArg (State.bank · bk) hended).trans (Four.get_set_same v.banks bk _)
    have hAother : A.cyl a.entry.cyl = s.cyl a.entry.cyl :=
      (congrArg (State.cyl · a.entry.cyl) hended).trans (Eight.get_set_ne s.cyls _ (by rw [hk]; exact hcyl.symm))
    have hAcyl : (A.cyl h.cyl).event = some (e2.ended i .resolved (p.resultAt .truncated a.start)) := by
      rw [← hk]
      exact congrArg Cylinder.event ((congrArg (State.cyl · p.cyl) hended).trans (Eight.get_set_same s.cyls p.cyl _))
    have hAnow : A.now = a.start := (congrArg State.now hended).trans rfl
    have hAsticky : A.ev.sticky = s.ev.sticky :=
      (congrArg (fun y : State => y.ev.sticky) hended).trans (BitVec.or_zero (x := s.ev.sticky))
    have hexec := hst.exec_eq hno hf sense
    rw [State.request_preempts hpre, State.endHolder_active (s := v) hh hm, hdry, if_neg Bool.false_ne_true,
      State.preempted_free (s := A) (e := e) (by rw [hAbank]; rfl) (by rw [hAbank]; exact hw) (by rw [hAbank, hAnow]; rfl) hmark
        hlow hhigh ((congrArg Cylinder.event hAother).trans hst.event) rfl, hAbank, hAnow, hAsticky] at hexec
    have hbank := Four.get_set_same A.banks bk
    exact ⟨_, hexec, ⟨congrArg Bank.mode (hbank _), congrArg Bank.holder (hbank _), congrArg Bank.channel (hbank _),
      congrArg Bank.releaseAt (hbank _), congrArg Bank.capAt (hbank _)⟩,
      congrArg (fun x : Bank => x.waiting.map fun r => (r.seq, r.index)) (hbank _), congrArg Bank.headAt (hbank _),
      congrArg Bank.conflicts (hbank _), rfl, (congrArg Cylinder.event (Eight.get_set_ne _ _ hcyl)).trans hAcyl⟩
  · obtain ⟨v, x, hexec, hnow, hsense, hbanks, hservice⟩ := State.exec_truncateServices hu hc
    have hbank : ∀ j, v.bank j = s.bank j := fun j => by rw [State.bank, hbanks]; rfl
    obtain ⟨⟨m, a, hended⟩, hkept, hfaults, hclosed, hflag⟩ := State.endPlayed_spent_truncated (s := v)
      ⟨(hbank bk).symm ▸ hp.channel, hp.phase, hsense ▸ hp.current⟩ hj
    have halone := State.truncateServices_alone ((hbank bk).symm ▸ hh) ((hbank bk).symm ▸ hm) hhj
      (fun j hne => (hbank j).symm ▸ hothers j hne) hkept
    rw [halone] at hexec
    rw [hnow] at hended hclosed
    have hfreed : ((v.endPlayed bk .truncated).bank bk).freed t := by
      rw [hended]
      exact Bank.quenched_freed rfl _ _ _
    exact ⟨_, hexec, (((Downstream.refl v).endPlayed bk .truncated).now).trans hnow, hfreed, hfaults, hservice ▸ hclosed, hflag⟩

end Sys2Proof.Machine

/-! # What a channel drives and presents, and the changes of its inputs

The pins and codes of a bank are those of its player's condition (R103, R104, R187, R188); an input change acts where the input is in
use, and ignores it where it is not (R104, R110). -/

namespace Sys2Proof.Machine

section
variable {s : State} {bk : BankId} {p : Player}

/-! ## Gates and codes -/

/-- An IDLE channel drives no gate and presents no code (R103, R188). -/
theorem State.outputs_idle (hp : (s.bank bk).channel = none) :
    s.boostPin bk = false ∧ s.batteryPin bk = false ∧ (s.bank bk).codes = (0, 0, 0) := by
  simp [State.boostPin, State.batteryPin, Bank.codes, hp]

/-- A bank's gates and codes are those of its player (R103, R104, R187, R188). -/
theorem State.outputs_playing (hp : (s.bank bk).channel = some p) :
    s.boostPin bk = p.cond.boostGate ∧ s.batteryPin bk = p.cond.batteryGate ∧ (s.bank bk).codes = p.codes := by
  simp [State.boostPin, State.batteryPin, Bank.codes, hp]

theorem ChannelCond.lowSide_iff (c : ChannelCond) : c.lowSide = true ↔ c ≠ .quench := by
  cases c <;> simp [ChannelCond.lowSide]

/-- A cylinder's low side is on exactly while some bank plays a phase for it (R103, R187). -/
theorem State.lowSidePin_iff (s : State) (k : CylId) :
    s.lowSidePin k = true ↔ ∃ j p, (s.bank j).channel = some p ∧ p.cyl = k ∧ p.cond ≠ .quench := by
  constructor
  · intro h
    obtain ⟨j, -, hj⟩ := List.any_eq_true.1 h
    cases hp : (s.bank j).channel with
    | none => simp [hp] at hj
    | some p =>
      simp only [hp, Bool.and_eq_true, beq_iff_eq, ChannelCond.lowSide_iff] at hj
      exact ⟨j, p, hp, hj⟩
  · rintro ⟨j, p, hp, rfl, hc⟩
    exact s.lowSidePin_of_playing j hp hc

/-! ## Input changes -/

/-- HOLD decays once the current is at its upper level (R110). -/
theorem State.upperChange_hold (hp : (s.bank bk).channel = some p) (hc : p.cond = .hold true)
    (hs : p.profile.holdUpper ≤ (s.senseOf bk).current.toNat) : s.upperChange bk = s.setHolding bk p false := by
  simp [State.upperChange, hp, hc, senseAtLeast, hs]

/-- HOLD charges once the current is below its lower level (R110). -/
theorem State.lowerChange_hold (hp : (s.bank bk).channel = some p) (hc : p.cond = .hold false)
    (hs : (s.senseOf bk).current.toNat < p.profile.holdLower) : s.lowerChange bk = s.setHolding bk p true := by
  simp [State.lowerChange, hp, hc, senseUnder, hs]

/-- FREEWHEEL and QUENCH do not use the upper input (R104). -/
theorem State.upperChange_unused (hp : (s.bank bk).channel = some p) (hc : p.cond = .freewheel ∨ p.cond = .quench) :
    s.upperChange bk = s := by
  rcases hc with hc | hc <;> simp [State.upperChange, hp, hc]

/-- A rise phase and FREEWHEEL do not use the lower input (R104). -/
theorem State.lowerChange_unused (hp : (s.bank bk).channel = some p)
    (hc : p.cond = .freewheel ∨ (∃ b l, p.cond = .boostRise b l) ∨ ∃ l, p.cond = .batteryRise l) : s.lowerChange bk = s := by
  rcases hc with hc | ⟨b, l, hc⟩ | ⟨l, hc⟩ <;> simp [State.lowerChange, hp, hc]

/-- QUENCH does not use the short input: a pulse that has ended is not ended again (R104, R114). -/
theorem State.shortChange_unused (hp : (s.bank bk).channel = some p) (hc : p.cond = .quench) : s.shortChange bk = s := by
  have hend : s.endPlayed bk .shortFault = s := by simp [State.endPlayed, State.stopPlayed, hp, hc]
  simp only [State.shortChange, hp, hend, ite_self]

/-- An IDLE channel uses no input (R104). -/
theorem State.inputChanges_idle (hp : (s.bank bk).channel = none) :
    s.upperChange bk = s ∧ s.lowerChange bk = s ∧ s.shortChange bk = s := by
  simp [State.upperChange, State.lowerChange, State.shortChange, hp]

end

/-- Settles O45: an input change acts in the state at its tick (`State.expire`), and the pins follow the player's condition
(`State.outputs_playing`, `State.lowSidePin_iff`). -/
theorem inputsAndGates : Obligations.InputsAndGates := by
  refine ⟨fun s z bk sense t hz => ?_, fun s bk => ⟨State.outputs_idle, fun p hp => ?_, s.lowSidePin_iff⟩⟩
  · obtain rfl : z = s.expire t bk sense := hz
    have hsense : (s.expire t bk sense).senseOf bk = sense := Four.get_set_same _ _ _
    refine ⟨fun p hp => ?_, fun hp => ?_⟩
    · have hp : ((s.expire t bk sense).bank bk).channel = some p := hp
      exact ⟨fun hc hs => congrArg Host.Outcome.next (State.upperChange_hold hp hc (hsense.symm ▸ hs)),
        fun hc hs => congrArg Host.Outcome.next (State.lowerChange_hold hp hc (hsense.symm ▸ hs)),
        fun hc => congrArg Host.Outcome.next (State.upperChange_unused hp hc),
        fun hc => congrArg Host.Outcome.next (State.lowerChange_unused hp hc),
        fun hc => congrArg Host.Outcome.next (State.shortChange_unused hp hc)⟩
    · obtain ⟨hupper, hlower, hshort⟩ := State.inputChanges_idle (s := s.expire t bk sense) hp
      exact ⟨congrArg Host.Outcome.next hupper, congrArg Host.Outcome.next hlower, congrArg Host.Outcome.next hshort⟩
  · obtain ⟨hboost, hbattery, hcodes⟩ := State.outputs_playing hp
    rw [hboost, hbattery, hcodes, Player.codes]
    refine ⟨fun b l hc => ?_, fun l hc => ?_, fun hc => ?_, fun charging hc => ?_, fun hc => ?_⟩ <;> rw [hc] <;>
      exact ⟨rfl, rfl, rfl⟩

end Sys2Proof.Machine

/-! # Requests taken and refused

A request is refused with nothing but the word and the result changed, or accepted with its effect (R128). Which it is follows from
the run state and from what the argument names (R129): the cylinder of RELEASE and SERVICE, and for SERVICE the conditions of
R141. -/

namespace Sys2Proof.Machine

section
variable {s : State} {arg : Byte} {top : BitVec 4}

/-! ## The run states and the argument -/

theorem RunState.isLoaded_eq_false_iff {r : RunState} : r.isLoaded = false ↔ r = .stopped ∨ r = .loading := by
  cases r <;> simp [RunState.isLoaded]

theorem RunState.isLoaded_of {r : RunState} (hs : r ≠ .stopped) (hl : r ≠ .loading) : r.isLoaded = true :=
  Bool.of_not_eq_false fun h => (isLoaded_eq_false_iff.1 h).elim hs hl

theorem RunState.takesLoad_eq_false {r : RunState} (h : r ≠ .stopped ∧ r ≠ .ready) : r.takesLoad = false := by
  cases r <;> simp_all [RunState.takesLoad]

theorem switchArg_eq_false (h : 1 < arg.toNat) : switchArg arg = false := decide_eq_false (Nat.not_le.2 h)

theorem CylId.fromNumber_eq_some_iff {n : Nat} {k : CylId} : CylId.fromNumber n = some k ↔ k.number = n := by
  constructor
  · unfold CylId.fromNumber
    split <;> intro h <;> cases h <;> rfl
  · rintro rfl
    exact CylId.fromNumber_number k

theorem CylId.number_range (k : CylId) : 1 ≤ k.number ∧ k.number ≤ 8 := by cases k <;> decide

/-- An argument names a cylinder of the setup copy in force by its number (R129). -/
theorem State.namedCylinder_eq_some_iff {n : Nat} {k : CylId} :
    s.namedCylinder n = some k ↔ ∃ u, s.su.setup = some u ∧ n ≤ u.cylCount ∧ k.number = n := by
  unfold State.namedCylinder
  cases s.su.setup with
  | none => simp
  | some u => simp [CylId.fromNumber_eq_some_iff]

/-- Only 0, 1 and 2 name a stop mode (R129). -/
theorem stopModeOf_none (h : 2 < arg.toNat) : stopModeOf arg = none := by
  unfold stopModeOf
  split <;> first | omega | rfl

/-! ## Taking and refusing -/

theorem State.takeRequest_accepted (hh : s.held = false) {accepted : Bool} (ha : accepted = true) (w : Word)
    (effect : State → State) : s.takeRequest w accepted effect = effect (s.answer w .accepted) := by
  simp [State.takeRequest, hh, ha]

theorem State.takeRequest_refused (hh : s.held = false) {accepted : Bool} (ha : accepted = false) (w : Word)
    (effect : State → State) : s.takeRequest w accepted effect = s.answer w .refused := by
  simp [State.takeRequest, hh, ha]

/-- A STOP is refused by the run state or by its argument (R129, R133). -/
theorem State.takeStop_refused (hh : s.held = false) (h : s.ctl.run.isLoaded = false ∨ stopModeOf arg = none) :
    s.takeStop arg top = s.answer (requestWord 3 arg top) .refused := by
  unfold State.takeStop
  cases hm : stopModeOf arg with
  | none => exact State.takeRequest_refused hh rfl _ _
  | some m => exact State.takeRequest_refused hh (h.resolve_right (hm ▸ nofun)) _ _

theorem State.takeRelease_accepted {k : CylId} (hh : s.held = false) (hk : s.namedCylinder arg.toNat = some k)
    (hr : s.ctl.run.isLoaded = true) :
    s.takeRelease arg top = (s.answer (requestWord 5 arg top) .accepted).releaseCyl k := by
  rw [State.takeRelease, hk]
  exact State.takeRequest_accepted hh hr _ _

/-- A RELEASE that names a cylinder of the setup copy is refused by the run state alone (R129). -/
theorem State.takeRelease_refused (hh : s.held = false)
    (h : ∀ k, s.namedCylinder arg.toNat = some k → s.ctl.run.isLoaded = false) :
    s.takeRelease arg top = s.answer (requestWord 5 arg top) .refused := by
  unfold State.takeRelease
  cases hk : s.namedCylinder arg.toNat with
  | none => exact State.takeRequest_refused hh rfl _ _
  | some k => exact State.takeRequest_refused hh (h k hk) _ _

theorem State.takeService_accepted {k : CylId} {sense : BankSense} (hh : s.held = false)
    (hk : s.namedCylinder (serviceCyl arg) = some k) (ha : s.serviceAllowed k arg = true) :
    s.takeService arg top sense =
      (s.answer (requestWord 6 arg top) .accepted).beginService k (serviceProfile arg) sense := by
  rw [State.takeService, hk]
  exact State.takeRequest_accepted hh ha _ _

/-- A SERVICE that names a cylinder of the setup copy is refused by the conditions of R141 alone. -/
theorem State.takeService_refused {sense : BankSense} (hh : s.held = false)
    (h : ∀ k, s.namedCylinder (serviceCyl arg) = some k → s.serviceAllowed k arg = false) :
    s.takeService arg top sense = s.answer (requestWord 6 arg top) .refused := by
  unfold State.takeService
  cases hk : s.namedCylinder (serviceCyl arg) with
  | none => exact State.takeRequest_refused hh rfl _ _
  | some k => exact State.takeRequest_refused hh (h k hk) _ _

/-! ## The conditions of SERVICE -/

/-- No service pulse is in progress where no bank is held by one. -/
theorem State.serviceHolder_isNone_iff : s.serviceHolder.isNone = true ↔ s.noService := by
  have hall : ∀ bk, bk ∈ BankId.all := fun bk => by cases bk <;> decide
  simp only [State.serviceHolder, Option.isNone_iff_eq_none, List.findSome?_eq_none_iff, hall, true_implies]
  refine forall_congr' fun bk => ?_
  unfold Bank.heldByService
  cases (s.bank bk).holder with
  | none => simp
  | some h => cases hj : h.job <;> simp [hj]

/-- The conditions of R141 beside the argument's cylinder. -/
theorem State.serviceAllowed_iff {k : CylId} : s.serviceAllowed k arg = true ↔
    s.ctl.run = .ready ∧ serviceProfile arg < s.profileCount ∧ arg.toNat < 128 ∧ s.trk.sync = .noSignal
      ∧ (s.cyl k).quarantined = false ∧ (s.bank (s.bankOf k)).mode = .idle ∧ s.noService := by
  simp only [State.serviceAllowed, serviceTop, Bool.and_eq_true, beq_iff_eq, decide_eq_true_eq, Bool.not_eq_true',
    decide_eq_false_iff_not, not_le, State.serviceHolder_isNone_iff, and_assoc]

end

/-! ## The effects -/

/-- RELEASE of a cylinder, field by field (R122). -/
theorem State.releaseCyl_eq (k : CylId) (s : State) : s.releaseCyl k =
    { s with
      cyls := s.cyls.set k { s.cyl k with quarantined := false, faults := 0 }
      mem := s.mem.mirror s.sb.live [(0x1C0 + 16 * (k.number - 1), 0), (0x1C8 + 16 * (k.number - 1), 0)] } := by
  have hfaults : offCyl k + 8 = 0x1C8 + 16 * (k.number - 1) := by
    unfold offCyl
    omega
  unfold State.releaseCyl
  rw [State.statusAll_eq, cylStateWords, faultWords, hfaults]
  rfl

/-- INHIBIT and PARITY_SENSE change their own item and the request's word and result (R140, R142). -/
theorem State.switches_accepted {s : State} {arg : Byte} (top : BitVec 4) (hh : s.held = false) (hl : s.ctl.run ≠ .loading)
    (ha : arg.toNat ≤ 1) :
    (s.ctl.run ≠ .stopped → exec (.inhibit arg top) s = .next
      { s with ctl := { s.ctl.taken (requestWord 4 arg top) .accepted with inhibit := decide (arg = 1) } })
    ∧ exec (.paritySense arg top) s = .next
      { s with ctl := { s.ctl.taken (requestWord 8 arg top) .accepted with evenParity := decide (arg = 1) } } := by
  have hswitch : switchArg arg = true := decide_eq_true ha
  exact ⟨fun hs => congrArg Host.Outcome.next
      (State.takeRequest_accepted hh (Bool.and_eq_true_iff.2 ⟨RunState.isLoaded_of hs hl, hswitch⟩) _ _),
    congrArg Host.Outcome.next (State.takeRequest_accepted hh (Bool.and_eq_true_iff.2 ⟨bne_iff_ne.2 hl, hswitch⟩) _ _)⟩

/-- RELEASE of a cylinder of the setup copy (R122, R129). -/
theorem State.release_accepted {u : Setup} {s : State} {arg : Byte} (top : BitVec 4) {k : CylId} (hh : s.held = false)
    (hl : s.ctl.run ≠ .loading) (hs : s.ctl.run ≠ .stopped) (hu : s.su.setup = some u) (hk : arg.toNat = k.number)
    (hc : k.number ≤ u.cylCount) :
    ∃ m, exec (.release arg top []) s = .next
        { s with
          ctl := s.ctl.taken (requestWord 5 arg top) .accepted
          cyls := s.cyls.set k { s.cyl k with quarantined := false, faults := 0 }
          mem := m }
      ∧ Memory.Shown s.sb.live [(0x1C0 + 16 * (k.number - 1), 0), (0x1C8 + 16 * (k.number - 1), 0)] s.mem m := by
  have hnamed : s.namedCylinder arg.toNat = some k := State.namedCylinder_eq_some_iff.2 ⟨u, hu, hk ▸ hc, hk.symm⟩
  have hrange := CylId.number_range k
  refine ⟨_, congrArg Host.Outcome.next ((State.takeRelease_accepted hh hnamed (RunState.isLoaded_of hs hl)).trans
    (State.releaseCyl_eq k _)), Memory.shown_of s.sb.live s.mem ?_ ?_⟩
  · exact List.pairwise_pair.2 (.inl (by dsimp only; omega))
  · simp only [List.map_cons, List.map_nil, List.mem_cons, List.not_mem_nil, or_false, memBytes]
    omega

/-- An argument that names no cylinder of the setup copy (R129). -/
theorem State.namedCylinder_none {s : State} {n : Nat}
    (h : n = 0 ∨ 8 < n ∨ ∀ u, s.su.setup = some u → u.cylCount < n) : s.namedCylinder n = none := by
  refine Option.eq_none_iff_forall_ne_some.2 fun k hk => ?_
  obtain ⟨u, hu, hcount, hn⟩ := State.namedCylinder_eq_some_iff.1 hk
  have hrange := CylId.number_range k
  rcases h with h | h | h
  · omega
  · omega
  · exact absurd (h u hu) (Nat.not_lt.2 hcount)

/-- A SERVICE with a condition of R141, or of its argument (R129), that does not hold is refused. -/
theorem State.service_refused {s : State} {arg : Byte} {top : BitVec 4} {sense : BankSense} (hh : s.held = false)
    (h : s.ctl.run ≠ .ready ∨ s.trk.sync ≠ .noSignal ∨ ¬ s.noService ∨ 128 ≤ arg.toNat ∨ arg.toNat % 16 = 0
      ∨ 8 < arg.toNat % 16
      ∨ (∀ u, s.su.setup = some u → u.cylCount < arg.toNat % 16 ∨ u.profiles.length ≤ arg.toNat / 16 % 8)
      ∨ (∀ k : CylId, k.number = arg.toNat % 16 →
        (s.cyl k).quarantined = true ∨ (s.bank (s.bankOf k)).mode ≠ .idle)) :
    s.takeService arg top sense = s.answer (requestWord 6 arg top) .refused := by
  refine State.takeService_refused hh fun k hk => Bool.eq_false_iff.2 fun ha => ?_
  obtain ⟨u, hu, hcount, hn⟩ := State.namedCylinder_eq_some_iff.1 hk
  obtain ⟨hrun, hprofile, htop, hsync, hquarantined, hmode, hservice⟩ := State.serviceAllowed_iff.1 ha
  have hrange := CylId.number_range k
  simp only [State.profileCount, hu, serviceProfile, serviceCyl] at hprofile hcount hn
  rcases h with h | h | h | h | h | h | h | h
  · exact h hrun
  · exact h hsync
  · exact h hservice
  · omega
  · omega
  · omega
  · have := h u hu
    omega
  · exact (h k hn).elim (fun hq => by simp [hquarantined] at hq) fun hm => hm hmode

/-- Settles O55: a request is refused where its run states (`State.takeRequest_refused`) or the cylinder it names
(`State.namedCylinder_none`) say so. -/
theorem switchesAndRefusals : Obligations.SwitchesAndRefusals := by
  refine ⟨fun s arg top hh hl ha => State.switches_accepted top hh hl ha,
    fun u s arg top k hh hl hs hu hk hc => State.release_accepted top hh hl hs hu hk hc,
    fun s arg top code t sense one r hh hr => ?_⟩
  obtain rfl : r = fun w => s.answer w .refused := funext hr
  refine ⟨fun h => congrArg Host.Outcome.next (State.takeRequest_refused hh (RunState.takesLoad_eq_false h) _ _),
    fun h => congrArg Host.Outcome.next (State.takeRequest_refused hh (beq_eq_false_iff_ne.2 h) _ _), fun h => ?_, fun h => ?_,
    fun h => ?_, fun h => congrArg Host.Outcome.next (State.service_refused (s := s.at t) hh h), fun h => ?_,
    fun _ => congrArg Host.Outcome.next (State.takeRequest_refused hh rfl _ _)⟩
  · rw [← or_assoc] at h
    exact congrArg Host.Outcome.next (State.takeStop_refused (s := (s.at t).seeAll sense) hh
      (h.imp RunState.isLoaded_eq_false_iff.2 stopModeOf_none))
  · rw [← or_assoc] at h
    exact congrArg Host.Outcome.next (State.takeRequest_refused hh
      (Bool.and_eq_false_iff.2 (h.imp RunState.isLoaded_eq_false_iff.2 switchArg_eq_false)) _ _)
  · rw [← or_assoc] at h
    refine congrArg Host.Outcome.next (State.takeRelease_refused hh fun k hk =>
      RunState.isLoaded_eq_false_iff.2 (h.resolve_right fun hn => ?_))
    have hnone : s.namedCylinder arg.toNat = none :=
      State.namedCylinder_none (hn.imp_left fun h0 => congrArg BitVec.toNat h0)
    exact nomatch hnone.symm.trans hk
  · exact congrArg Host.Outcome.next (State.takeRequest_refused hh
      (Bool.and_eq_false_iff.2 (h.imp bne_eq_false_iff_eq.2 switchArg_eq_false)) _ _)

end Sys2Proof.Machine

/-! # An accepted SERVICE

SERVICE makes the service pulse the holder of its bank, starts the service entry and engages the channel (R123); its words are those
of the bank's state and of the service entry, and the BOOST_LOW count where the profile meets a low BOOST_OK. -/

namespace Sys2Proof.Machine

section
variable {s : State} {arg : Byte} {k : CylId} {bk : BankId} {f : Nat}

/-! ## The acceptance -/

/-- A SERVICE argument is its cylinder's number and, from bit 4 on, its profile (R129). -/
theorem serviceArg_parts (ha : arg.toNat = k.number + 16 * f) (hlt : arg.toNat < 128) :
    serviceCyl arg = k.number ∧ serviceProfile arg = f ∧ f < 8 := by
  have hrange := CylId.number_range k
  unfold serviceCyl serviceProfile
  omega

/-- SERVICE where every condition of R129 and R141 holds. -/
theorem State.exec_service_accepted {u : Setup} (top : BitVec 4) (t : Time) (sense : BankSense) (hh : s.held = false)
    (hu : s.su.setup = some u) (hr : s.ctl.run = .ready) (hsync : s.trk.sync = .noSignal) (ha : arg.toNat = k.number + 16 * f)
    (hlt : arg.toNat < 128) (hk : k.number ≤ u.cylCount) (hf : f < u.profiles.length) (hq : (s.cyl k).quarantined = false)
    (hm : (s.bank (s.bankOf k)).mode = .idle) (hn : s.noService) :
    exec (.service arg top t sense []) s =
      .next (((s.at t).answer (requestWord 6 arg top) .accepted).beginService k f sense) := by
  obtain ⟨hcyl, hprofile, -⟩ := serviceArg_parts ha hlt
  have hnamed : (s.at t).namedCylinder (serviceCyl arg) = some k :=
    State.namedCylinder_eq_some_iff.2 ⟨u, hu, hcyl.symm ▸ hk, hcyl.symm⟩
  have hcount : (s.at t).profileCount = u.profiles.length := by
    have hu : (s.at t).su.setup = some u := hu
    simp only [State.profileCount, hu]
  have hallowed : (s.at t).serviceAllowed k arg = true :=
    State.serviceAllowed_iff.2 ⟨hr, by rw [hprofile, hcount]; exact hf, hlt, hsync, hq, hm, hn⟩
  rw [← hprofile]
  exact congrArg Host.Outcome.next (State.takeService_accepted (s := s.at t) hh hnamed hallowed)

/-! ## The holder and the service entry -/

/-- The words of a bank made ACTIVE and of a service entry started, OUTCOME first (R101, R123, R172). -/
def serviceWords (bk : BankId) (k : CylId) (f : Nat) : List (Nat × Word) :=
  [(0x240 + 8 * bk.index, 1), (0x1B8, 0), (0x1B0, BitVec.ofNat 16 (k.number + 256 * f)), (0x1B2, 0), (0x1B4, 0), (0x1B6, 0)]

/-- Steps 1 and 2 of R123, field by field. -/
theorem State.startEntry_holdService (s : State) (bk : BankId) (k : CylId) (hf : f < 8) :
    (s.holdService bk k f).startEntry k f =
      { s with
        banks := s.banks.set bk { s.bank bk with holder := some ⟨.service f, k, s.now⟩, mode := .active }
        sb := { s.sb with service := ⟨BitVec.ofNat 16 (k.number + 256 * f), 0, 0, 0, 0⟩ }
        mem := s.mem.mirror s.sb.live (serviceWords bk k f) } := by
  have hword : bytePair k.number f = BitVec.ofNat 16 (k.number + 256 * f) := by
    have hrange := CylId.number_range k
    rw [bytePair, Nat.mod_eq_of_lt (by omega), Nat.mod_eq_of_lt (by omega)]
  rw [State.startEntry, State.holdService, State.setMode_eq, State.bank_setBank, State.statusAll_eq, ServiceEntry.started, hword]
  simp only [State.setSb, State.setMem, State.setBank, State.setBanks, Four.set_set, Memory.mirror_mirror]
  rfl

/-! ## The memory -/

theorem Memory.SameOutside.refl (l : List Nat) (m : Memory) : m.SameOutside l m := fun hm => ⟨hm, fun _ _ => ⟨rfl, rfl⟩⟩

theorem Memory.Shown.sameOutside {live : Bool} {l : List (Nat × Word)} {m m' : Memory} (h : Memory.Shown live l m m') :
    m.SameOutside (if live then l.map Prod.fst else []) m' := by
  cases live
  · obtain rfl : m' = m := h
    exact .refl _ _
  · exact h.1

theorem serviceWords_shown (bk : BankId) (k : CylId) (f : Nat) (live : Bool) (m : Memory) :
    Memory.Shown live (serviceWords bk k f) m (m.mirror live (serviceWords bk k f)) := by
  refine Memory.shown_of live m ?_ ?_ <;> cases bk <;> simp [serviceWords, BankId.index, memBytes]

/-- The words of an acceptance stand in the end, and beside them only the BOOST_LOW count of the bank may have changed. -/
theorem serviceWords_kept {bk : BankId} {k : CylId} {f : Nat} {live : Bool} {m m' m'' : Memory} (hm : m.calm)
    (h : Memory.Shown live (serviceWords bk k f) m m')
    (g : m'.SameOutside (if live then [0x244 + 8 * bk.index] else []) m'') :
    m.SameOutside (if live then [0x1B8, 0x1B0, 0x1B2, 0x1B4, 0x1B6, 0x240 + 8 * bk.index, 0x244 + 8 * bk.index] else []) m''
      ∧ (live = true → ∀ p ∈ serviceWords bk k f, m''.Shows p.1 p.2) := by
  refine ⟨(h.sameOutside.trans g).mono fun a ha => ?_, fun hl p hp => ?_⟩
  · cases live
    · exact ha
    · simp only [serviceWords, if_true, List.map_cons, List.map_nil, List.mem_append, List.mem_cons, List.not_mem_nil,
        or_false] at ha ⊢
      tauto
  · obtain ⟨hcalm, hshows⟩ := h.shows hm hl
    refine g.shows hcalm (fun off ho => ?_) (hshows p hp)
    obtain rfl : off = 0x244 + 8 * bk.index := by simpa [hl] using ho
    simp only [serviceWords, List.mem_cons, List.not_mem_nil, or_false] at hp
    rcases hp with rfl | rfl | rfl | rfl | rfl | rfl <;> dsimp only <;> omega

/-! ## The channel engaged -/

/-- A channel engaged without a standing short report plays its profile; of its bank only the channel and the BOOST_LOW count have
changed, and of the memory at most that count's word (R105, R107). -/
theorem State.engage_kept {u : Setup} {job : Job} {dur : Nat} {pr : Profile} (hu : s.su.setup = some u)
    (hs : (s.senseOf bk).current.toNat < (u.banks.get bk).shortLevel) (hf : u.profiles[f]? = some pr) :
    Engaged (s.engage bk job k f dur) bk job k pr dur s.now
      ∧ ∃ q lows m, s.engage bk job k f dur =
          { s with banks := s.banks.set bk { s.bank bk with channel := some q, boostLowCount := lows }, mem := m }
        ∧ s.mem.SameOutside (if s.sb.live then [0x244 + 8 * bk.index] else []) m := by
  obtain ⟨-, -, -, -, hengaged⟩ := State.engage_plays (job := job) (k := k) (dur := dur) hu hs hf rfl
  obtain ⟨q, words, lows, hengage, -, -, -, -, -, -, hwords⟩ := State.engage_eq u s bk job k f dur hu hs
  refine ⟨hengaged, q, lows, _, hengage, ?_⟩
  rcases hwords with rfl | hshown
  · rw [Memory.mirror_nil]
    exact .refl _ _
  · exact hshown.sameOutside

/-- What an accepted SERVICE does without a standing short report (R123). -/
theorem State.beginService_plays {u : Setup} {pr : Profile} {sense : BankSense} (hu : s.su.setup = some u) (hbk : s.bankOf k = bk)
    (hf : u.profiles[f]? = some pr) (hlt : f < 8) (hs : sense.current.toNat < (u.banks.get bk).shortLevel) (hm : s.mem.calm) :
    Engaged (s.beginService k f sense) bk (.service f) k pr s.su.trim.serviceDuration s.now
      ∧ ∃ q lows m, s.beginService k f sense =
          { s with
            pins := { s.pins with sense := s.pins.sense.set bk sense }
            banks := s.banks.set bk { s.bank bk with
              holder := some ⟨.service f, k, s.now⟩, mode := .active, channel := some q, boostLowCount := lows }
            sb := { s.sb with service := ⟨BitVec.ofNat 16 (k.number + 256 * f), 0, 0, 0, 0⟩ }
            mem := m }
        ∧ s.mem.SameOutside
          (if s.sb.live then [0x1B8, 0x1B0, 0x1B2, 0x1B4, 0x1B6, 0x240 + 8 * bk.index, 0x244 + 8 * bk.index] else []) m
        ∧ (s.sb.live = true → ∀ p ∈ serviceWords bk k f, m.Shows p.1 p.2) := by
  subst hbk
  have hsense : ((s.see (s.bankOf k) sense).senseOf (s.bankOf k)) = sense := Four.get_set_same _ _ _
  rw [State.beginService, State.startEntry_holdService _ _ _ hlt]
  obtain ⟨hengaged, q, lows, m, hengage, hcount⟩ := State.engage_kept (job := .service f) (k := k)
    (dur := s.su.trim.serviceDuration) (s := { s.see (s.bankOf k) sense with
      banks := s.banks.set (s.bankOf k) { s.bank (s.bankOf k) with holder := some ⟨.service f, k, s.now⟩, mode := .active }
      sb := { s.sb with service := ⟨BitVec.ofNat 16 (k.number + 256 * f), 0, 0, 0, 0⟩ }
      mem := s.mem.mirror s.sb.live (serviceWords (s.bankOf k) k f) }) (bk := s.bankOf k) hu (hsense.symm ▸ hs) hf
  refine ⟨hengaged, q, lows, m, hengage.trans ?_, serviceWords_kept hm (serviceWords_shown _ k f s.sb.live s.mem) hcount⟩
  simp [State.bank, State.see, State.setPins]

end

/-- Settles O48: the conditions of R141 hold (`State.exec_service_accepted`), and the acceptance makes the service pulse the holder and
engages the channel (`State.beginService_plays`). -/
theorem serviceAccepted : Obligations.ServiceAccepted := by
  intro u s arg top t sense k bk f pr hh hm hu hr hsync ha hlt hk hf hbk hq hidle hn hs
  have hbank : s.bankOf k = bk := by simp [State.bankOf, hu, hbk]
  obtain ⟨hcount, -⟩ := List.getElem?_eq_some_iff.1 hf
  obtain ⟨-, -, hlow⟩ := serviceArg_parts ha hlt
  have hexec := State.exec_service_accepted top t sense hh hu hr hsync ha hlt hk hcount hq (hbank ▸ hidle) hn
  obtain ⟨hengaged, q, lows, m, hbegin, hsame, hshows⟩ := State.beginService_plays
    (s := (s.at t).answer (requestWord 6 arg top) .accepted) hu hbank hf hlow hs hm
  refine ⟨_, hexec, ?_⟩
  rw [hbegin] at hengaged ⊢
  refine ⟨rfl, rfl, ?_, ?_, hengaged, rfl, fun j hj => Four.get_set_ne _ _ hj, rfl, rfl, rfl, rfl, rfl, hsame, fun hl => ?_⟩
  · exact congrArg Bank.mode (Four.get_set_same _ _ _)
  · exact congrArg Bank.holder (Four.get_set_same _ _ _)
  · exact ⟨hshows hl (0x1B8, 0) (.tail _ (.head _)),
      hshows hl (0x1B0, BitVec.ofNat 16 (k.number + 256 * f)) (.tail _ (.tail _ (.head _))),
      hshows hl (0x240 + 8 * bk.index, 1) (.head _)⟩

end Sys2Proof.Machine

/-! # RUN_STATE is raised wherever a stop ends

An operation of the part itself changes the run state only by ending a stop (`RunStep`), and the test of the event table that ends
it raises RUN_STATE (R130, R135). `State.announced r u` carries that along: there is one lemma for each operation, in the order of
the model's files. -/

namespace Sys2Proof.Machine

/-- The run state is still `r`, or RUN_STATE, bit 11, has been raised. -/
def State.announced (r : RunState) (u : State) : Prop := u.ctl.run = r ∨ u.ev.sticky.getLsbD 11 = true

namespace State.announced

variable {r : RunState} {u t : State}

theorem refl (s : State) : s.announced s.ctl.run := .inl rfl

/-- A step that keeps the run state and every flag. -/
theorem step (h : u.announced r) (hk : Keeps u t) (hr : t.ctl = u.ctl) : t.announced r := h.imp (hr ▸ id) hk.bit

theorem setArm (h : u.announced r) (x : Arming) : (u.setArm x).announced r := h
theorem setBanks (h : u.announced r) (x : Four Bank) : (u.setBanks x).announced r := h
theorem setBank (h : u.announced r) (bk : BankId) (x : Bank) : (u.setBank bk x).announced r := h
theorem setCyls (h : u.announced r) (x : Eight Cylinder) : (u.setCyls x).announced r := h
theorem setCyl (h : u.announced r) (k : CylId) (x : Cylinder) : (u.setCyl k x).announced r := h
theorem setSu (h : u.announced r) (x : SetupUnit) : (u.setSu x).announced r := h
theorem setTrk (h : u.announced r) (x : Tracker) : (u.setTrk x).announced r := h
theorem modTrk (h : u.announced r) (f : Tracker → Tracker) : (u.modTrk f).announced r := h
theorem setLatch (h : u.announced r) (x : Latch) : (u.setLatch x).announced r := h
theorem modLatch (h : u.announced r) (f : Latch → Latch) : (u.modLatch f).announced r := h
theorem setSb (h : u.announced r) (x : StatusOwner) : (u.setSb x).announced r := h
theorem setFreeCount (h : u.announced r) (n : Nat) : (u.setFreeCount n).announced r := h
theorem setNow (h : u.announced r) (x : Time) : (u.setNow x).announced r := h
theorem expire (h : u.announced r) (x : Time) (bk : BankId) (sense : BankSense) : (u.expire x bk sense).announced r := h
theorem setStopMode (h : u.announced r) (m : StopMode) : (u.setStopMode m).announced r := h
theorem turn (h : u.announced r) : u.turn.announced r := h

theorem raise (h : u.announced r) (f : Flag) : (u.raise f).announced r := h.step ((Keeps.refl u).raise f) rfl

theorem statusAll (h : u.announced r) (l : List (Nat × Word)) : (u.statusAll l).announced r := by
  rw [State.statusAll_eq]
  exact h

theorem status (h : u.announced r) (off : Nat) (w : Word) : (u.status off w).announced r := by
  rw [State.status_eq]
  exact h

theorem foldl {α : Type} {f : State → α → State} (hf : ∀ u a, u.announced r → (f u a).announced r) (l : List α)
    (h : u.announced r) : (l.foldl f u).announced r :=
  List.foldlRecOn (motive := State.announced r) l f h fun v hv a _ => hf v a hv

/-- What touches the ring, the latch's items and the flags alone. -/
theorem ringOnly (h : u.announced r) (hk : Keeps u t) (ht : RingOnly u t) : t.announced r :=
  h.step hk (by rw [show t = _ from ht])

/-! ## Events -/

/-- Every change of the run state raises RUN_STATE (R130). -/
theorem changeRun (u : State) (q : RunState) : (u.changeRun q).announced r :=
  .inr (State.raise_bit (u.setCtl { u.ctl with run := q }) .runState)

theorem checkStopped (h : u.announced r) : u.checkStopped.announced r := by
  unfold State.checkStopped
  split
  · exact changeRun _ _
  · exact h

theorem modEvent (h : u.announced r) (k : CylId) (seq : Word) (f : Event → Event) : (u.modEvent k seq f).announced r := by
  unfold State.modEvent
  split
  · split
    · exact h.setCyl _ _
    · exact h
  · exact h

theorem modPulse (h : u.announced r) (k : CylId) (seq : Word) (index : Nat) (f : Pulse → Pulse) :
    (u.modPulse k seq index f).announced r := h.modEvent _ _ _

theorem withdraw (h : u.announced r) (reach : CylId → Bool) (o : PulseOutcome) : (u.withdraw reach o).announced r :=
  ((h.setCyls _).setArm _).setBanks _

theorem conflict (h : u.announced r) (bk : BankId) : (u.conflict bk).announced r := ((h.setBank _ _).statusAll _).raise _

theorem conflicts (bk : BankId) (n : Nat) : ∀ {u : State}, u.announced r → (u.conflicts bk n).announced r := by
  induction n with
  | zero => exact fun h => h
  | succ n ih => exact fun h => ih (h.conflict bk)

theorem closeEntry (h : u.announced r) (k : CylId) (src : Source) (o : EventOutcome) (seq : Word) :
    (u.closeEntry k src o seq).announced r := (h.setCyl _ _).statusAll _

theorem notifyDone (h : u.announced r) (n : Bool) : (u.notifyDone n).announced r := by
  unfold State.notifyDone
  split
  · exact h.raise _
  · exact h

theorem report (h : u.announced r) (k : CylId) (e : Event) : (u.report k e).announced r :=
  h.step ((Downstream.refl u).report k e).toKeeps (by rw [State.report_eq])

theorem settle (h : u.announced r) (k : CylId) : (u.settle k).announced r := by
  unfold State.settle
  split
  · split
    · exact ((h.report _ _).setCyl _ _).checkStopped
    · exact h
  · exact h

theorem settleAll (h : u.announced r) : u.settleAll.announced r := .foldl (fun _ k g => g.settle k) _ h

/-! ## Channels -/

theorem setMode (h : u.announced r) (bk : BankId) (m : BankMode) : (u.setMode bk m).announced r :=
  (h.setBank _ _).statusAll _

theorem headCheck (h : u.announced r) (bk : BankId) : (u.headCheck bk).announced r := by
  unfold State.headCheck
  dsimp only
  split
  · exact h.setBank _ _
  · exact h

theorem release (h : u.announced r) (bk : BankId) : (u.release bk).announced r := (h.setBank _ _).setMode _ _

theorem quarantineTest (h : u.announced r) (k : CylId) : (u.quarantineTest k).announced r := by
  unfold State.quarantineTest
  split
  · exact (((h.setCyl _ _).statusAll _).raise _).withdraw _ _
  · exact h

theorem countEnd (h : u.announced r) (k : CylId) (o : PulseOutcome) : (u.countEnd k o).announced r := by
  unfold State.countEnd
  split
  · exact (((h.setCyl _ _).statusAll _).raise _).quarantineTest _
  · exact (h.setCyl _ _).statusAll _

theorem capCheck (h : u.announced r) (k : CylId) (seq : Word) (o : PulseOutcome) : (u.capCheck k seq o).announced r := by
  unfold State.capCheck
  split
  · split
    · exact .conflicts _ _ (h.withdraw _ _)
    · exact h
  · exact h

theorem endInEvent (h : u.announced r) (k : CylId) (seq : Word) (index : Nat) (c : PulseCond) (x : PulseResult) :
    (u.endInEvent k seq index c x).announced r := (h.modPulse _ _ _ _).modEvent _ _ _

theorem serviceResult (h : u.announced r) (p : Player) : (u.serviceResult p).announced r := by
  unfold State.serviceResult
  split
  · exact ((h.setSb _).statusAll _).raise _
  · exact h

theorem freeBank (h : u.announced r) (bk : BankId) : (u.freeBank bk).announced r := (h.setBank _ _).release _

theorem quenchOver (h : u.announced r) (bk : BankId) : (u.quenchOver bk).announced r := by
  unfold State.quenchOver
  split
  · exact h
  · split
    · exact ((h.serviceResult _).freeBank _).headCheck _
    · exact ((h.freeBank _).modPulse _ _ _ _).headCheck _

theorem judge (h : u.announced r) (p : Player) : (u.judge p).announced r := by
  unfold State.judge
  split
  · exact h.settle _
  · exact h

theorem quenchEnd (h : u.announced r) (bk : BankId) : (u.quenchEnd bk).announced r := by
  unfold State.quenchEnd
  split
  · exact h
  · exact (h.quenchOver _).judge _

theorem startQuench (h : u.announced r) (bk : BankId) : (u.startQuench bk).announced r := by
  unfold State.startQuench State.quenchStanding
  split
  · exact h
  · split
    · exact (h.setBank _ _).quenchOver _
    · exact h.setBank _ _

theorem fixEnd (h : u.announced r) (bk : BankId) (p : Player) (o : PulseOutcome) : (u.fixEnd bk p o).announced r := by
  unfold State.fixEnd State.reportEnd
  split
  · exact ((h.setBank _ _).setMode _ _).endInEvent _ _ _ _ _
  · exact (h.setBank _ _).setMode _ _

theorem capPlayed (h : u.announced r) (p : Player) (o : PulseOutcome) : (u.capPlayed p o).announced r := by
  unfold State.capPlayed
  split
  · exact h.capCheck _ _ _
  · exact h

theorem stopPlayed (h : u.announced r) (bk : BankId) (o : PulseOutcome) : (u.stopPlayed bk o).announced r := by
  unfold State.stopPlayed
  split
  · exact h
  · split
    · exact h
    · exact (((h.fixEnd _ _ _).countEnd _ _).capPlayed _ _).startQuench _

theorem endPlayed (h : u.announced r) (bk : BankId) (o : PulseOutcome) : (u.endPlayed bk o).announced r := by
  unfold State.endPlayed
  split
  · exact h
  · dsimp only
    split
    · exact (h.stopPlayed _ _).judge _
    · exact h.stopPlayed _ _

theorem stopDry (h : u.announced r) (bk : BankId) (x : Holder) (o : PulseOutcome) : (u.stopDry bk x o).announced r := by
  unfold State.stopDry
  split
  · exact h
  · exact ((((h.setBank _ _).endInEvent _ _ _ _ _).capCheck _ _ _).release _).headCheck _

theorem endDry (h : u.announced r) (bk : BankId) (x : Holder) (o : PulseOutcome) : (u.endDry bk x o).announced r := by
  unfold State.endDry
  split
  · exact h
  · exact (h.stopDry _ _ _).settle _

theorem endHolder (h : u.announced r) (bk : BankId) (o : PulseOutcome) : (u.endHolder bk o).announced r := by
  unfold State.endHolder
  split
  · exact h
  · split
    · split
      · exact h.endDry _ _ _
      · exact h.endPlayed _ _
    · exact h

theorem stopHolder (h : u.announced r) (bk : BankId) (o : PulseOutcome) : (u.stopHolder bk o).announced r := by
  unfold State.stopHolder
  split
  · exact h
  · split
    · split
      · exact h.stopDry _ _ _
      · exact h.stopPlayed _ _
    · exact h

theorem countBoostLow (bk : BankId) (n : Nat) : ∀ {u : State}, u.announced r → (u.countBoostLow bk n).announced r := by
  induction n with
  | zero => exact fun h => h
  | succ n ih => exact fun h => ih ((h.setBank _ _).statusAll _)

theorem comeToRest (h : u.announced r) (bk : BankId) (p : Player) (stop : PlayStop) :
    (u.comeToRest bk p stop).announced r := by
  unfold State.comeToRest
  split
  · exact (h.setBank _ _).endPlayed _ _
  · exact h.setBank _ _

theorem enterPhase (h : u.announced r) (bk : BankId) (n : Nat) : (u.enterPhase bk n).announced r := by
  unfold State.enterPhase
  split
  · exact h
  · exact (countBoostLow _ _ (h.setFreeCount _)).comeToRest _ _ _

theorem engage (h : u.announced r) (bk : BankId) (job : Job) (k : CylId) (profile duration : Nat) :
    (u.engage bk job k profile duration).announced r := by
  unfold State.engage
  split
  · exact h
  · exact (h.setBank _ _).enterPhase _ _

theorem nextPhase (h : u.announced r) (bk : BankId) : (u.nextPhase bk).announced r := by
  unfold State.nextPhase
  split
  · exact h.enterPhase _ _
  · exact h

theorem levelReached (h : u.announced r) (bk : BankId) (p : Player) : (u.levelReached bk p).announced r :=
  (h.setBank _ _).enterPhase _ _

theorem upperChange (h : u.announced r) (bk : BankId) : (u.upperChange bk).announced r := by
  unfold State.upperChange
  split
  · exact h
  · split
    · split
      · exact h.levelReached _ _
      · exact h
    · split
      · exact h.levelReached _ _
      · exact h
    · split <;> exact h
    · exact h
    · exact h

theorem lowerChange (h : u.announced r) (bk : BankId) : (u.lowerChange bk).announced r := by
  unfold State.lowerChange
  split
  · exact h
  · split
    · split <;> exact h
    · split
      · exact h.quenchEnd _
      · exact h
    · exact h
    · exact h
    · exact h

theorem shortChange (h : u.announced r) (bk : BankId) : (u.shortChange bk).announced r := by
  unfold State.shortChange
  split
  · exact h
  · split
    · exact h.endPlayed _ _
    · exact h

/-! ## The arbiters -/

theorem grant (h : u.announced r) (bk : BankId) (q : Request) : (u.grant bk q).announced r := by
  have hmade : (u.makeHolder bk q).announced r := ((h.setBank _ _).setMode _ _).modPulse _ _ _ _
  unfold State.grant State.drivePulse
  split
  · exact hmade
  · exact hmade.engage _ _ _ _ _

theorem grantCheck (h : u.announced r) (bk : BankId) : (u.grantCheck bk).announced r := by
  unfold State.grantCheck
  dsimp only
  split
  · exact h
  · split
    · exact h.setBank _ _
    · split
      · exact (h.setBank _ _).grant _ _
      · exact h.setBank _ _

theorem recheck (h : u.announced r) (bk : BankId) (old : Option Request) : (u.recheck bk old).announced r := by
  unfold State.recheck
  split
  · exact h
  · exact h.grantCheck _

theorem slipDrop (h : u.announced r) (bk : BankId) (q : Request) (crowded : Bool) (x : Time) :
    (u.slipDrop bk q crowded x).announced r := ((h.modPulse _ _ _ _).conflict _).settle _

theorem crowd (h : u.announced r) (bk : BankId) : (u.crowd bk).announced r := by
  unfold State.crowd
  split
  · exact (h.setBank _ _).slipDrop _ _ _ _
  · exact h

theorem join (h : u.announced r) (bk : BankId) (q : Request) : (u.join bk q).announced r :=
  (((h.setBank _ _).modPulse _ _ _ _).crowd _).grantCheck _

theorem request (h : u.announced r) (bk : BankId) (q : Request) : (u.request bk q).announced r := by
  unfold State.request
  split
  · exact ((h.endHolder _ _).conflict _).join _ _
  · split
    · exact h.grant _ _
    · exact h.join _ _

/-! ## The arming unit -/

theorem resolveHeld (h : u.announced r) (k : CylId) (seq : Word) (index : Nat) (o : PulseOutcome) :
    (u.resolveHeld k seq index o).announced r := h.modPulse _ _ _ _

theorem present (h : u.announced r) (a : ArmedEntry) : (u.present a).announced r := by
  unfold State.present
  split
  · split
    · split
      · exact h.request _ _
      · exact h
    · exact h
  · exact h

theorem markLate (h : u.announced r) (a : ArmedEntry) : (u.markLate a).announced r := h.modPulse _ _ _ _

theorem lateAt {acc : State × List ArmedEntry} (h : acc.1.announced r) (v : EdgeView) (a : ArmedEntry) :
    (State.lateAt v a acc).1.announced r := by
  unfold State.lateAt
  split
  · exact h.markLate _
  · exact (((h.markLate _).resolveHeld _ _ _ _).conflict _).settle _

theorem reread (h : u.announced r) (k : CylId) (seq : Word) : (u.reread k seq).announced r := by
  unfold State.reread
  split
  · split
    · exact h.turn
    · exact h
  · exact h

theorem armRead {acc : State × List ArmedEntry} (h : acc.1.announced r) (x : Setup) (v : EdgeView) (e : ArmEntry) :
    (State.armRead x v e acc).1.announced r := by
  unfold State.armRead
  split
  · exact (h.resolveHeld _ _ _ _).settle _
  · split
    · exact (h.setArm _).modPulse _ _ _ _
    · exact h.lateAt _ _

theorem armStep {acc : State × List ArmedEntry} (h : acc.1.announced r) (x : Setup) (v : EdgeView) (e : ArmEntry) :
    (State.armStep x v acc e).1.announced r := by
  unfold State.armStep
  split
  · exact armRead (acc := (_, _)) ((h.setArm _).reread _ _) _ _ _
  · exact h

theorem armAll (h : u.announced r) (x : Setup) (v : EdgeView) : (u.armAll x v).announced r := by
  have harmed : (u.arm.pendingList.foldl (State.armStep x v) (u, [])).1.announced r :=
    List.foldlRecOn (motive := fun acc : State × List ArmedEntry => acc.1.announced r) _ _ h fun _ g e _ => g.armStep x v e
  exact .foldl (fun _ a g => g.present a) _ harmed

theorem startPulse (h : u.announced r) (a : ArmedEntry) : (u.startPulse a).announced r := by
  unfold State.startPulse State.startRead
  split
  · exact ((h.reread _ _).resolveHeld _ _ _ _).settle _
  · exact (h.reread _ _).present _

/-! ## The trim copy -/

theorem setHold (h : u.announced r) (k : CylId) (n : Nat) : (u.setHold k n).announced r := (h.setCyl _ _).statusAll _

theorem limitHolds (h : u.announced r) : u.limitHolds.announced r := by
  refine .foldl (fun v k g => ?_) _ h
  unfold State.limitHold
  split
  · exact g.setHold _ _
  · exact g

theorem copyTrim (h : u.announced r) : u.copyTrim.announced r := by
  have hread : u.fetchTrim.2.announced r := h.ringOnly (Downstream.refl u).fetchTrim.toKeeps (RingOnly.refl u).fetchTrim
  unfold State.copyTrim State.useTrim
  split
  · exact ((hread.setSu _).statusAll _).limitHolds
  · exact (hread.raise _).limitHolds

/-! ## The latch -/

theorem holdTo (h : u.announced r) (k : CylId) (n : Nat) : (u.holdTo k n).announced r := by
  unfold State.holdTo
  split
  · exact h
  · exact h.setHold _ _

theorem placePulse (h : u.announced r) (x : Setup) (v : EdgeView) (k : CylId) (e : Event) (p : PulseEntry) :
    (u.placePulse x v k e p).announced r := by
  unfold State.placePulse
  dsimp only
  split
  · exact h.resolveHeld _ _ _ _
  · exact h.setArm _

theorem enterEvent (h : u.announced r) (x : Setup) (v : EdgeView) (k : CylId) (e : Event) :
    (u.enterEvent x v k e).announced r := by
  unfold State.enterEvent
  split
  · exact h.report _ _
  · exact (State.announced.foldl (fun _ p g => g.placePulse x v k e p) _ (h.setCyl _ _)).settle _

theorem useHeld (h : u.announced r) (k : CylId) (src : Source) : (u.useHeld k src).announced r := by
  unfold State.useHeld
  split
  · exact h.setHold _ _
  · exact h

theorem enterFuel (h : u.announced r) (k : CylId) (src : Source) : (u.enterFuel k src).announced r := by
  unfold State.enterFuel
  split
  · exact (h.setCyl _ _).raise _
  · exact h.setCyl _ _

theorem countMiss (h : u.announced r) (k : CylId) : (u.countMiss k).announced r := ((h.setCyl _ _).statusAll _).raise _

theorem fallBack (h : u.announced r) (x : Setup) (w : EdgeView) (v : LatchView) : (u.fallBack x w v).announced r :=
  (((h.countMiss _).useHeld _ _).enterFuel _ _).enterEvent _ _ _ _

theorem closedEvent (h : u.announced r) (v : LatchView) (o : EventOutcome) (notify : Bool) :
    (u.closedEvent v o notify).announced r := by
  have hclear : (u.clearHold v.cyl o).announced r := by
    unfold State.clearHold
    split
    · exact h.holdTo _ _
    · exact h
  have hfuel : ((u.clearHold v.cyl o).planFuel v).announced r := by
    unfold State.planFuel
    split
    · exact hclear.setCyl _ _
    · exact hclear
  exact (hfuel.closeEntry _ _ _ _).notifyDone _

theorem served (h : u.announced r) (x : Setup) (w : EdgeView) (v : LatchView) (out : TakeResult) :
    (u.served x w v out).announced r := by
  unfold State.served
  split
  · exact ((h.setCyl _ _).holdTo _ _).enterEvent _ _ _ _
  · exact h.closedEvent _ _ _
  · split
    · exact (h.countMiss _).closeEntry _ _ _ _
    · exact h.fallBack _ _ _

theorem take (h : u.announced r) (x : Setup) (v : LatchView) (fuel : Nat) : (u.take x v fuel).1.announced r :=
  h.ringOnly (Downstream.take x v fuel (Downstream.refl u)).toKeeps (RingOnly.take x v fuel (RingOnly.refl u))

theorem serveNext (h : u.announced r) (x : Setup) (v : EdgeView) (k : CylId) (target : Word) :
    (u.serveNext x v k target).announced r := ((h.modLatch _).take _ _ _).served _ _ _ _

theorem truncateOwn (h : u.announced r) (bk : BankId) (k : CylId) (seq : Word) : (u.truncateOwn bk k seq).announced r := by
  unfold State.truncateOwn
  split
  · split
    · exact h.endHolder _ _
    · exact h
  · exact h

theorem overrun (h : u.announced r) (k : CylId) : (u.overrun k).announced r := by
  unfold State.overrun
  split
  · exact h
  · exact ((((h.withdraw _ _).truncateOwn _ _ _).modEvent _ _ _).settle _).recheck _ _

theorem latchCylinder (h : u.announced r) (x : Setup) (v : EdgeView) (p : CylId × Word) :
    (u.latchCylinder x v p).announced r :=
  ((((h.overrun _).serveNext _ _ _ _).turn.setLatch _).statusAll _).setCyl _ _

theorem latchAll (h : u.announced r) (x : Setup) (v : EdgeView) : (u.latchAll x v).announced r := by
  have hfresh : (u.freshEntries x v).announced r := by
    unfold State.freshEntries
    split
    · exact h.setCyls _
    · exact h
  unfold State.latchAll
  split
  · exact .foldl (fun _ p g => g.latchCylinder x v p) _ (hfresh.modLatch _)
  · exact h

/-! ## The run controller -/

theorem recover (h : u.announced r) : u.recover.announced r := (h.withdraw _ _).settleAll

theorem stopEvent (h : u.announced r) : u.stopEvent.announced r := (h.setStopMode _).checkStopped

theorem endCycleMode (h : u.announced r) : u.endCycleMode.announced r := by
  unfold State.endCycleMode
  split
  · exact h.stopEvent
  · exact h

theorem truncateServices (h : u.announced r) : u.truncateServices.announced r := by
  refine .foldl (fun v bk g => ?_) _ h
  unfold State.truncateService
  split
  · exact g.endHolder _ _
  · exact g

theorem stopCut (h : u.announced r) : u.stopCut.announced r := by
  have hended : (((u.setStopMode .cut).withdraw (fun _ => true) .stopDrop).truncateHolders).announced r :=
    .foldl (fun _ bk g => g.stopHolder bk _) _ ((h.setStopMode _).withdraw _ _)
  exact hended.settleAll.checkStopped

/-! ## The tracker -/

theorem loseSync (h : u.announced r) (gap : Bool) : (u.loseSync gap).announced r :=
  ((((h.setTrk _).statusAll _).raise _).recover).endCycleMode

theorem assumePhase (h : u.announced r) (x : Setup) : (u.assumePhase x).announced r := by
  unfold State.assumePhase
  split
  · exact (h.setTrk _).raise _
  · exact h

theorem assumeAtEntry (h : u.announced r) (x : Setup) : (u.assumeAtEntry x).announced r := by
  unfold State.assumeAtEntry
  split
  · exact (h.statusAll _).assumePhase x
  · exact h.assumePhase x

theorem countMarkerError (h : u.announced r) : u.countMarkerError.announced r := (h.setTrk _).status _ _

theorem markerError (h : u.announced r) (x : Setup) : (u.markerError x).announced r := by
  unfold State.markerError State.checkRun
  split
  · exact (((((((h.countMarkerError.modTrk _).setTrk _).statusAll _).raise _).recover).endCycleMode).assumePhase x)
  · exact h.countMarkerError.modTrk _

theorem cycleBoundary (h : u.announced r) (x : Setup) : (u.cycleBoundary x).announced r := by
  have hchecked : ((u.modTrk fun y => { y with cycle := y.cycle + 1 }).checkMissing x).announced r := by
    unfold State.checkMissing
    split
    · exact (h.modTrk _).markerError x
    · exact h.modTrk _
  exact ((hchecked.modTrk _).copyTrim).endCycleMode

theorem trackEdge (h : u.announced r) (x : Setup) (j : Judgement) : (u.trackEdge x j).announced r := by
  unfold State.trackEdge
  split
  · exact h.modTrk _
  · exact h.modTrk _
  · exact (h.modTrk _).assumeAtEntry x
  · split
    · unfold State.syncedEdge
      split
      · exact (h.modTrk _).cycleBoundary x
      · exact h.modTrk _
    · exact h.modTrk _
  · exact h.loseSync _

theorem edgeEvent (h : u.announced r) (x : Setup) (q : Bool) : (u.edgeEvent x q).announced r := by
  have hended : ((u.statusAll (edgeWords u.trk)).truncateServices).announced r := (h.statusAll _).truncateServices
  unfold State.edgeEvent State.fireEdge
  split
  · exact (hended.latchAll _ _).armAll _ _
  · exact hended.modTrk _

theorem crankTaken (h : u.announced r) (x : Setup) : (u.crankTaken x).announced r := by
  unfold State.crankTaken
  split
  · exact (h.setTrk _).edgeEvent _ _
  · split
    · exact (h.setTrk _).edgeEvent _ _
    · split
      · exact (h.setTrk _).status _ _
      · exact (((h.setTrk _).trackEdge _ _).modTrk _).edgeEvent _ _

theorem phaseSlip (h : u.announced r) : u.phaseSlip.announced r := (((h.setTrk _).statusAll _).raise _).recover

theorem markerUnphased (h : u.announced r) (c : MarkerClass) : (u.markerUnphased c).announced r := by
  cases c with
  | window => exact ((h.setTrk _).statusAll _).raise _
  | twin => exact ((h.setTrk _).statusAll _).raise _
  | outside => exact h.countMarkerError

theorem markerAssumed (h : u.announced r) (c : MarkerClass) : (u.markerAssumed c).announced r := by
  cases c with
  | window => exact (h.setTrk _).statusAll _
  | twin => exact h.phaseSlip
  | outside => exact h.countMarkerError

theorem markerPhased (h : u.announced r) (x : Setup) (c : MarkerClass) : (u.markerPhased x c).announced r := by
  cases c with
  | window => exact h.modTrk _
  | twin => exact h.phaseSlip
  | outside => exact (h.modTrk _).markerError x

theorem markerTaken (h : u.announced r) (x : Setup) : (u.markerTaken x).announced r := by
  unfold State.markerTaken
  dsimp only
  split
  · split
    · exact h.markerAssumed _
    · exact h.markerUnphased _
  · exact h.markerPhased _ _
  · exact h
  · exact h
  · exact h

/-! ## Edges and expiries -/

theorem crankArrives (h : u.announced r) (edge : Edge) : (u.crankArrives edge).announced r := by
  unfold State.crankArrives
  split
  · split
    · exact h.crankTaken _
    · exact h
  · exact h

theorem markerArrives (h : u.announced r) (edge : Edge) : (u.markerArrives edge).announced r := by
  unfold State.markerArrives
  split
  · split
    · exact h.markerTaken _
    · exact h
  · exact h

theorem stallExpires (h : u.announced r) : u.stallExpires.announced r := by
  unfold State.stallExpires
  split
  · exact (((((h.setNow _).setTrk _).statusAll _).raise _).recover).endCycleMode
  · exact h

theorem startExpires (h : u.announced r) (sense : BankSense) : (u.startExpires sense).announced r := by
  unfold State.startExpires
  split
  · exact ((h.setArm _).expire _ _ _).startPulse _
  · exact h

theorem deadlineExpires (h : u.announced r) (bk : BankId) (seq : Word) (entry : Nat) (sense : BankSense) :
    (u.deadlineExpires bk seq entry sense).announced r := by
  unfold State.deadlineExpires
  split
  · exact (((h.expire _ _ _).setBank _ _).slipDrop _ _ _ _).recheck _ _
  · exact h

/-- An effect at a timer's time. -/
theorem onTimer (h : u.announced r) (timer : Option Time) (bk : BankId) (sense : BankSense) {effect : State → State}
    (he : ∀ {u : State}, u.announced r → (effect u).announced r) : (u.onTimer timer bk sense effect).announced r := by
  unfold State.onTimer
  split
  · exact he (h.expire _ _ _)
  · exact h

theorem settleExpires (h : u.announced r) (bk : BankId) : (u.settleExpires bk).announced r := by
  unfold State.settleExpires
  split
  · exact ((h.setNow _).setBank _ _).setMode _ _
  · exact h

theorem durationExpires (h : u.announced r) (bk : BankId) (sense : BankSense) :
    (u.durationExpires bk sense).announced r := by
  unfold State.durationExpires
  split
  · exact (h.expire _ _ _).endPlayed _ _
  · exact h.onTimer _ _ _ fun g => g.endHolder _ _

end State.announced

end Sys2Proof.Machine

/-! # What every command leaves, and what arrives among its accesses

A command is its operands' arrival, then its effect with what arrives meanwhile (`exec_eq`). Its effect obeys the rules of the command
(`effect_obeys`), host accesses served beside it touch nothing those rules speak of (`Serves`), and of the arrivals that are
left when it has ended none that came before was a reset (`State.meanwhile_left`). -/

namespace Sys2Proof

open Machine

/-! ## The parts of a command -/

/-- How the time and the sense lines that a command carries reach the state (R189). -/
def Instr.arrive : Instr → State → State
  | .crankEdge _ t sense _, s => (s.at t).seeAll sense
  | .markerEdge _ t _, s => s.at t
  | .upperInputChange bk t sense _, s => s.expire t bk sense
  | .lowerInputChange bk t sense _, s => s.expire t bk sense
  | .shortInputChange bk t sense _, s => s.expire t bk sense
  | .stop _ _ t sense _, s => (s.at t).seeAll sense
  | .service _ _ t _ _, s => s.at t
  | _, s => s

/-- The effect of a command that is taken in `s`, whose timers and run state it goes by. -/
def Instr.effect (c : Instr) (s : State) : State → State :=
  match c with
  | .crankEdge edge _ _ _ => State.crankArrives edge
  | .markerEdge edge _ _ => State.markerArrives edge
  | .stall _ => State.stallExpires
  | .startExpiry sense _ => State.startExpires sense
  | .slipDeadlineExpiry bk seq entry sense _ => State.deadlineExpires bk seq entry.toNat sense
  | .headTimerExpiry bk sense _ => State.onTimer (s.bank bk).headAt bk sense (State.grantCheck bk)
  | .settleExpiry bk _ => State.settleExpires bk
  | .capExpiry bk sense _ => State.onTimer (s.bank bk).capAt bk sense (State.endHolder bk .capped)
  | .durationExpiry bk sense _ => State.durationExpires bk sense
  | .riseLimitExpiry bk sense _ => State.onTimer (s.bank bk).riseTimer bk sense (State.endPlayed bk .openFault)
  | .freewheelExpiry bk sense _ => State.onTimer (s.bank bk).freewheelTimer bk sense (State.nextPhase bk)
  | .quenchExpiry bk sense _ => State.onTimer (s.bank bk).quenchTimer bk sense (State.quenchEnd bk)
  | .upperInputChange bk _ _ _ => State.upperChange bk
  | .lowerInputChange bk _ _ _ => State.lowerChange bk
  | .shortInputChange bk _ _ _ => State.shortChange bk
  | .load arg top _ => State.takeRequest (requestWord 1 arg top) s.ctl.run.takesLoad State.beginLoad
  | .loadComplete _ => State.loadPasses
  | .loadFail _ => State.loadFails
  | .run arg top _ => State.takeRequest (requestWord 2 arg top) (s.ctl.run == .ready) State.beginRun
  | .stop arg top _ _ _ => State.takeStop arg top
  | .inhibit arg top => State.takeRequest (requestWord 4 arg top) (s.ctl.run.isLoaded && switchArg arg) (State.setInhibit arg)
  | .release arg top _ => State.takeRelease arg top
  | .service arg top _ sense _ => State.takeService arg top sense
  | .softReset arg top => State.takeSoftReset arg top
  | .paritySense arg top =>
    State.takeRequest (requestWord 8 arg top) (s.ctl.run != .loading && switchArg arg) (State.setParitySense arg)
  | .undefinedRequest code arg top => State.takeRequest (requestWord code arg top) false id
  | .eventRead => State.takeRead State.readEvent
  | .eventMaskWrite mask => State.takeWrite (State.setMask mask)
  | .registerWriteIgnored _ _ => id
  | .hostMemoryWrite addr data => State.takeWrite (State.hostWrite addr data)
  | .hostMemoryRead addr => State.takeRead (State.hostRead addr)
  | .powerOnReset => fun u => (((u.resetBlocks .power).setMem u.mem.powerOn).setPins { u.pins with powerOn := true }).setNow 0
  | .powerOnResetEnd => fun u => if u.pins.powerOn then (u.setPins { u.pins with powerOn := false }).setNow 0 else u
  | .pinReset => State.assertReset
  | .pinResetRelease => fun u => u.setPins { u.pins with resetN := false }

/-- Every command is its arrival, then its effect with what arrives meanwhile. -/
theorem exec_eq (c : Instr) (s : State) : exec c s = .next ((c.arrive s).meanwhile c.during (c.effect s)) := by
  cases c with
  | powerOnResetEnd =>
    show execPowerOnResetEnd s = .next (if s.pins.powerOn then (s.setPins { s.pins with powerOn := false }).setNow 0 else s)
    unfold execPowerOnResetEnd
    split <;> rfl
  | _ => rfl

/-- The resets that are commands of their own (R143). -/
def Instr.isReset : Instr → Prop
  | .softReset _ _ => True
  | .powerOnReset => True
  | .pinReset => True
  | _ => False

theorem Instr.isReset.resets {c : Instr} (h : c.isReset) : c.resets := by
  cases c with
  | softReset arg top => exact .inl ⟨arg, top, rfl⟩
  | powerOnReset => exact .inr (.inl rfl)
  | pinReset => exact .inr (.inr (.inl rfl))
  | _ => exact h.elim

/-- The edges, the timer expiries and the changes of the comparator inputs: what is no access of the host and no reset. -/
def Instr.internal : Instr → Prop
  | .crankEdge _ _ _ _ => True
  | .markerEdge _ _ _ => True
  | .stall _ => True
  | .startExpiry _ _ => True
  | .slipDeadlineExpiry _ _ _ _ _ => True
  | .headTimerExpiry _ _ _ => True
  | .settleExpiry _ _ => True
  | .capExpiry _ _ _ => True
  | .durationExpiry _ _ _ => True
  | .riseLimitExpiry _ _ _ => True
  | .freewheelExpiry _ _ _ => True
  | .quenchExpiry _ _ _ => True
  | .upperInputChange _ _ _ _ => True
  | .lowerInputChange _ _ _ _ => True
  | .shortInputChange _ _ _ _ => True
  | _ => False

end Sys2Proof

namespace Sys2Proof.Machine

variable {s t u : State} {c : Instr}

/-! ## What is left to arrive -/

/-- The arrivals of `l` have been served from the front, no reset among them, and the rest is in the arbiter's hands (R163). -/
def Memory.Awaits (l : List Arrival) (m : Memory) : Prop :=
  ∃ p, m.port = some p ∧ ∃ served, l.map Arrival.what = served ++ p.arrivals.map Arrival.what
    ∧ ∀ w ∈ served, resetArrives w = false

/-- The arbiter serves a front part of what has arrived, and stops at a reset (R163, R173). -/
theorem Memory.serve_awaits (l : List Arrival) : ∀ (p : Port) (m : Memory), (Memory.serve l p m).Awaits l := by
  induction l with
  | nil => exact fun p m => ⟨_, rfl, [], rfl, by simp⟩
  | cons x rest ih =>
    intro p m
    have served : ∀ (q : Port) (v : Memory), resetArrives x.what = false → (Memory.serve rest q v).Awaits (x :: rest) := by
      intro q v hx
      obtain ⟨z, hz, before, hbefore, hreset⟩ := ih q v
      refine ⟨z, hz, x.what :: before, by rw [List.map_cons, hbefore]; rfl, fun w hw => ?_⟩
      rcases List.mem_cons.1 hw with rfl | hw
      · exact hx
      · exact hreset w hw
    have kept : ∀ y : Port, y.arrivals.map Arrival.what = (x :: rest).map Arrival.what →
        Memory.Awaits (x :: rest) { m with port := some y } := fun y hy => ⟨y, rfl, [], hy.symm, by simp⟩
    unfold Memory.serve
    split
    · split
      · exact served _ _ (by simp_all [resetArrives])
      · exact served _ _ (by simp_all [resetArrives])
      · exact kept _ rfl
      · exact kept _ rfl
    · exact kept _ rfl

/-- What awaits depends on the port's arrivals alone. -/
theorem Memory.Awaits.congr {l : List Arrival} {m m' : Memory} (h : m.Awaits l)
    (hp : m'.port.map Port.arrivals = m.port.map Port.arrivals) : m'.Awaits l := by
  obtain ⟨p, hport, hserved⟩ := h
  obtain ⟨q, hq, hqp⟩ := Option.map_eq_some_iff.1 (hp.trans (congrArg _ hport))
  exact ⟨q, hq, hqp ▸ hserved⟩

theorem Memory.Awaits.turn {l : List Arrival} {m : Memory} (h : m.Awaits l) : m.turn.Awaits l := by
  obtain ⟨p, hport, served, hserved, hreset⟩ := h
  unfold Memory.turn
  rw [hport]
  obtain ⟨q, hq, more, hmore, hreset'⟩ := Memory.serve_awaits p.arrivals p m
  exact ⟨q, hq, served ++ more, by rw [hserved, hmore, List.append_assoc], fun w hw =>
    (List.mem_append.1 hw).elim (hreset w) (hreset' w)⟩

theorem Memory.Awaits.putPart {l : List Arrival} {m : Memory} (h : m.Awaits l) (off : Nat) (w : Word) :
    (m.putPart off w).Awaits l := h.congr (by rw [Memory.putPart_port])

theorem Memory.Awaits.goLive {l : List Arrival} {m : Memory} (h : m.Awaits l) : m.goLive.Awaits l :=
  h.congr (by simp [Memory.goLive, Function.comp_def])

theorem Memory.Awaits.mirror {l : List Arrival} {m : Memory} (h : m.Awaits l) (live : Bool) (ws : List (Nat × Word)) :
    (m.mirror live ws).Awaits l := by
  unfold Memory.mirror
  split
  · exact List.foldlRecOn (motive := Memory.Awaits l) ws _ h fun _ hv p _ => hv.turn.putPart p.1 p.2
  · exact h

/-- The part's own accesses leave what awaits as it is, but for what is served before them. -/
theorem Memory.awaits_partWrites (live : Bool) (l : List Arrival) : PartWrites live (Memory.Awaits l) where
  turn _ h := h.turn
  status _ _ off w _ _ h := h.putPart off w
  ring _ off w _ h := h.putPart off w

/-! ## What only named commands change -/

/-- The queue, the reset pins, the mask, the sticky flags raised, and of the run controller all but the run state and the stop
mode. -/
structure Steady (s t : State) : Prop where
  pending : t.pending = s.pending
  powerOn : t.pins.powerOn = s.pins.powerOn
  resetN : t.pins.resetN = s.pins.resetN
  inhibit : t.ctl.inhibit = s.ctl.inhibit
  evenParity : t.ctl.evenParity = s.ctl.evenParity
  lastResult : t.ctl.lastResult = s.ctl.lastResult
  resetCause : t.ctl.resetCause = s.ctl.resetCause
  request : t.ctl.request = s.ctl.request
  mask : t.ev.mask = s.ev.mask
  sticky : s.ev.sticky &&& t.ev.sticky = s.ev.sticky

theorem Keeps.steady (h : Keeps s t) : Steady s t where
  pending := h.pending
  powerOn := h.powerOn
  resetN := h.resetN
  inhibit := h.inhibit
  evenParity := h.evenParity
  lastResult := h.lastResult
  resetCause := h.resetCause
  request := h.requestReg
  mask := h.mask
  sticky := h.sticky

theorem Keeps.awaits (h : Keeps s t) {l : List Arrival} (hl : s.mem.Awaits l) : t.mem.Awaits l :=
  h.memory _ (Memory.awaits_partWrites _ l) hl

/-- Flags that are kept twice over are kept. -/
theorem sticky_trans {a b d : Word} (h : a &&& b = a) (g : b &&& d = b) : a &&& d = a := by
  calc a &&& d = (a &&& b) &&& d := by rw [h]
    _ = a &&& (b &&& d) := BitVec.and_assoc _ _ _
    _ = a := by rw [g, h]

theorem Steady.refl (s : State) : Steady s s := (Keeps.refl s).steady

theorem Steady.trans (h : Steady s u) (g : Steady u t) : Steady s t where
  pending := g.pending.trans h.pending
  powerOn := g.powerOn.trans h.powerOn
  resetN := g.resetN.trans h.resetN
  inhibit := g.inhibit.trans h.inhibit
  evenParity := g.evenParity.trans h.evenParity
  lastResult := g.lastResult.trans h.lastResult
  resetCause := g.resetCause.trans h.resetCause
  request := g.request.trans h.request
  mask := g.mask.trans h.mask
  sticky := sticky_trans h.sticky g.sticky

theorem Steady.raise (h : Steady s u) (f : Flag) : Steady s (u.raise f) := h.trans ((Keeps.refl u).raise f).steady

theorem Steady.changeRun (h : Steady s u) (r : RunState) : Steady s (u.changeRun r) :=
  Steady.raise (u := u.setCtl { u.ctl with run := r }) { h with } _

theorem Steady.held (h : Steady s t) : t.held = s.held := by
  unfold State.held
  rw [h.powerOn, h.resetN]

/-- Beside these, a host access and what a port leaves behind keep the run state and the setup copy. -/
structure Serves (s t : State) : Prop extends Steady s t where
  run : t.ctl.run = s.ctl.run
  setup : t.su.setup = s.su.setup

theorem Serves.refl (s : State) : Serves s s := ⟨.refl s, rfl, rfl⟩

theorem Serves.trans (h : Serves s u) (g : Serves u t) : Serves s t :=
  ⟨h.toSteady.trans g.toSteady, g.run.trans h.run, g.setup.trans h.setup⟩

theorem Serves.raise (h : Serves s u) (f : Flag) : Serves s (u.raise f) := { h.toSteady.raise f, h with }

/-- A command's operands reach the tick count and the sense lines alone. -/
theorem arrive_serves (c : Instr) (s : State) : Serves s (c.arrive s) := by
  cases c <;> exact { Serves.refl s with }

theorem State.openPort_serves (during : List Arrival) (s : State) : Serves s (s.openPort during) := { Serves.refl s with }

/-- What the port kept is put in place: the data lines, MEM_PARITY, LAST_PARITY_ADDR, and the reading of a LOAD (R147, R168). -/
theorem State.closed_serves (s : State) (p : Port) :
    Serves s (((s.setMem { s.mem with port := none }).keepReads p).keepLoad p) := by
  have hcalm : Serves s (s.setMem { s.mem with port := none }) := { Serves.refl s with }
  have hreads : Serves s ((s.setMem { s.mem with port := none }).keepReads p) := by
    unfold State.keepReads
    cases p.parityError with
    | false => cases p.data <;> cases p.parityAddr <;> exact { hcalm with }
    | true => cases p.data <;> cases p.parityAddr <;> exact { hcalm.raise .memParity with }
  rw [State.keepLoad_eq]
  split
  · split
    · exact { hreads with }
    · exact hreads
  · exact hreads

/-! ## Arrivals taken after the command -/

theorem State.hostWrite_serves (addr : BitVec 13) (data : Word) (s : State) : Serves s (s.hostWrite addr data) := by
  unfold State.hostWrite
  rw [State.readBeforeWrite_eq]
  split <;> exact { Serves.refl s with }

theorem State.hostRead_serves (addr : BitVec 13) (s : State) : Serves s (s.hostRead addr) := by
  unfold State.hostRead State.hostParityError
  split
  · rw [State.status_eq]
    exact { (Serves.refl s).raise .memParity with }
  · exact { Serves.refl s with }

theorem State.takeWrite_serves {effect : State → State} (h : Serves s (effect s)) : Serves s (s.takeWrite effect) := by
  unfold State.takeWrite
  split
  · exact .refl s
  · exact h

theorem State.takeRead_serves {effect : State → State} (h : Serves s (effect s)) : Serves s (s.takeRead effect) := by
  unfold State.takeRead
  split
  · exact { Serves.refl s with }
  · split
    · exact .refl s
    · exact h

/-- A host access, or a reset: then the part is in STOPPED, or held already and left as it is (R143, R161). -/
theorem State.afterwards_cases (s : State) (x : Arrival) :
    Serves s (s.afterwards x) ∨ (resetArrives x.what = true ∧ (s.afterwards x).ctl.run = .stopped) := by
  unfold State.afterwards
  cases x.what with
  | hostWrite addr data => exact .inl (State.takeWrite_serves (State.hostWrite_serves addr data s))
  | hostRead addr => exact .inl (State.takeRead_serves (State.hostRead_serves addr s))
  | softReset arg top =>
    dsimp only
    unfold State.takeSoftReset State.takeRequest
    split
    · exact .inl (.refl s)
    · exact .inr ⟨rfl, rfl⟩
  | pinReset => exact .inr ⟨rfl, rfl⟩

theorem State.afterwards_serves {x : Arrival} (hx : resetArrives x.what = false) (s : State) : Serves s (s.afterwards x) :=
  (s.afterwards_cases x).resolve_right fun h => by simp [hx] at h

theorem State.foldl_afterwards_serves (l : List Arrival) (hl : ∀ x ∈ l, resetArrives x.what = false) (s : State) :
    Serves s (l.foldl State.afterwards s) :=
  List.foldlRecOn (motive := Serves s) l _ (.refl s) fun _ h x hx => h.trans (State.afterwards_serves (hl x hx) _)

/-- Several arrivals: host accesses that change nothing the rules speak of, or a reset among them, and STOPPED at the end. -/
theorem State.foldl_afterwards_cases (l : List Arrival) (s : State) : Serves s (l.foldl State.afterwards s)
    ∨ ((∃ x ∈ l, resetArrives x.what = true) ∧ (l.foldl State.afterwards s).ctl.run = .stopped) := by
  refine List.foldlRecOn (motive := fun v => Serves s v ∨ ((∃ x ∈ l, resetArrives x.what = true) ∧ v.ctl.run = .stopped)) l _
    (.inl (.refl s)) fun v hv x hx => ?_
  rcases v.afterwards_cases x with h | ⟨hreset, hstopped⟩
  · exact hv.imp (fun g => g.trans h) fun ⟨hx, hr⟩ => ⟨hx, h.run.trans hr⟩
  · exact .inr ⟨⟨x, hx, hreset⟩, hstopped⟩

theorem State.foldl_afterwards_pending (l : List Arrival) (s : State) : (l.foldl State.afterwards s).pending = s.pending :=
  List.foldlRecOn (motive := fun v : State => v.pending = s.pending) l _ rfl fun v hv x _ => (v.afterwards_pending x).trans hv

/-- A command with what arrives meanwhile: its effect, then what the port kept, then the arrivals not served yet, which are those of
`during` but for a front part without a reset. -/
theorem State.meanwhile_left {during : List Arrival} {effect : State → State} (s : State)
    (he : during ≠ [] → ∀ u : State, u.mem.Awaits during → (effect u).mem.Awaits during) :
    ∃ (u v : State) (left : List Arrival), (u = s ∨ u = s.openPort during) ∧ Serves (effect u) v
      ∧ s.meanwhile during effect = left.foldl State.afterwards v
      ∧ ∃ served, during.map Arrival.what = served ++ left.map Arrival.what ∧ ∀ w ∈ served, resetArrives w = false := by
  unfold State.meanwhile
  split
  · exact ⟨s, _, [], .inl rfl, .refl _, rfl, [], rfl, by simp⟩
  · split
    · exact ⟨s, _, _, .inl rfl, .refl _, rfl, [], rfl, by simp⟩
    · rename_i x rest _
      obtain ⟨p, hport, hserved⟩ := he (by simp) (s.openPort (x :: rest)) ⟨_, rfl, [], rfl, by simp⟩
      refine ⟨_, _, p.arrivals, .inr rfl, State.closed_serves _ p, ?_, hserved⟩
      rw [State.closePort, hport]

end Sys2Proof.Machine

/-! # The rules of each command

What the effect of a command does to the run state, the flags and the settings (`Obeys`), for every command but the resets; from
it, from `Serves` and from `State.meanwhile_left` follows what each command makes of them, whatever arrives (`exec_outcome`). -/

namespace Sys2Proof.Machine

variable {s t u : State} {c : Instr}

/-- The rules of a command that is no reset: the moves of the run state it may make (R127, R130), and what is left to the commands
named for it. -/
structure Obeys (c : Instr) (s t : State) : Prop where
  pending : t.pending = s.pending
  pins : c ≠ .powerOnResetEnd → c ≠ .pinResetRelease → t.pins.powerOn = s.pins.powerOn ∧ t.pins.resetN = s.pins.resetN
  run : t.ctl.run ≠ s.ctl.run → c.moves s.ctl.run t.ctl.run ∧ t.ev.sticky.getLsbD 11 = true
  sticky : c ≠ .eventRead → s.ev.sticky &&& t.ev.sticky = s.ev.sticky
  mask : (∀ m, c ≠ .eventMaskWrite m) → t.ev.mask = s.ev.mask
  inhibit : (∀ arg top, c ≠ .inhibit arg top) → t.ctl.inhibit = s.ctl.inhibit
  evenParity : (∀ arg top, c ≠ .paritySense arg top) → t.ctl.evenParity = s.ctl.evenParity
  request : c.requestWord? = none → t.ctl.request = s.ctl.request ∧ t.ctl.lastResult = s.ctl.lastResult
  resetCause : t.ctl.resetCause = s.ctl.resetCause
  setup : (∀ l, c ≠ .loadComplete l) → (∀ l, c ≠ .loadFail l) → t.su.setup = s.su.setup

theorem Steady.obeys (h : Steady s t)
    (hr : t.ctl.run ≠ s.ctl.run → c.moves s.ctl.run t.ctl.run ∧ t.ev.sticky.getLsbD 11 = true)
    (hs : (∀ l, c ≠ .loadComplete l) → (∀ l, c ≠ .loadFail l) → t.su.setup = s.su.setup) : Obeys c s t where
  pending := h.pending
  pins _ _ := ⟨h.powerOn, h.resetN⟩
  run := hr
  sticky _ := h.sticky
  mask _ := h.mask
  inhibit _ := h.inhibit
  evenParity _ := h.evenParity
  request _ := ⟨h.request, h.lastResult⟩
  resetCause := h.resetCause
  setup := hs

theorem Serves.obeys (h : Serves s t) : Obeys c s t := h.toSteady.obeys (fun hn => absurd h.run hn) fun _ _ => h.setup

theorem Obeys.refl (c : Instr) (s : State) : Obeys c s s := (Serves.refl s).obeys

/-- What is served before a command's effect, and after it, does not touch its rules. -/
theorem Serves.obeys_serves {v : State} (h : Serves s u) (g : Obeys c u v) (k : Serves v t) : Obeys c s t where
  pending := k.pending.trans (g.pending.trans h.pending)
  pins h1 h2 := ⟨k.powerOn.trans ((g.pins h1 h2).1.trans h.powerOn), k.resetN.trans ((g.pins h1 h2).2.trans h.resetN)⟩
  run hn := by
    rw [k.run, ← h.run] at hn ⊢
    obtain ⟨hmoves, hbit⟩ := g.run hn
    exact ⟨hmoves, sticky_kept k.sticky hbit⟩
  sticky hn := sticky_trans h.sticky (sticky_trans (g.sticky hn) k.sticky)
  mask hn := k.mask.trans ((g.mask hn).trans h.mask)
  inhibit hn := k.inhibit.trans ((g.inhibit hn).trans h.inhibit)
  evenParity hn := k.evenParity.trans ((g.evenParity hn).trans h.evenParity)
  request hn := ⟨k.request.trans ((g.request hn).1.trans h.request), k.lastResult.trans ((g.request hn).2.trans h.lastResult)⟩
  resetCause := k.resetCause.trans (g.resetCause.trans h.resetCause)
  setup h1 h2 := k.setup.trans ((g.setup h1 h2).trans h.setup)

/-- An operation of the part itself makes at most the one move from STOPPING to READY. -/
theorem Keeps.obeys (h : Keeps s t) (ha : t.announced s.ctl.run) (hm : c.moves .stopping .ready) : Obeys c s t := by
  refine h.steady.obeys (fun hn => ?_) fun _ _ => h.setup
  rcases h.ctl with ⟨hr, -⟩ | ⟨hs, hr, -⟩
  · exact absurd hr hn
  · exact ⟨hs ▸ hr ▸ hm, ha.resolve_left hn⟩

/-- Every change of the run state raises RUN_STATE (R130). -/
theorem State.changeRun_bit (r : RunState) (s : State) : (s.changeRun r).ev.sticky.getLsbD 11 = true :=
  State.raise_bit (s.setCtl { s.ctl with run := r }) .runState

/-! ## Edges, expiries and input changes -/

theorem effect_keeps (hc : c.internal) (s u : State) : Keeps u (c.effect s u) := by
  have h := Keeps.refl u
  cases c with
  | crankEdge edge _ _ _ => exact h.crankArrives edge
  | markerEdge edge _ _ => exact h.markerArrives edge
  | stall _ => exact h.stallExpires
  | startExpiry sense _ => exact h.startExpires sense
  | slipDeadlineExpiry bk seq entry sense _ => exact h.deadlineExpires bk seq _ sense
  | headTimerExpiry bk sense _ => exact h.onTimer _ _ _ fun v => (Downstream.refl v).grantCheck bk
  | settleExpiry bk _ => exact h.settleExpires bk
  | capExpiry bk sense _ => exact h.onTimer _ _ _ fun v => (Downstream.refl v).endHolder bk _
  | durationExpiry bk sense _ => exact h.durationExpires bk sense
  | riseLimitExpiry bk sense _ => exact h.onTimer _ _ _ fun v => (Downstream.refl v).endPlayed bk _
  | freewheelExpiry bk sense _ => exact h.onTimer _ _ _ fun v => (Downstream.refl v).nextPhase bk
  | quenchExpiry bk sense _ => exact h.onTimer _ _ _ fun v => (Downstream.refl v).quenchEnd bk
  | upperInputChange bk _ _ _ => exact ((Downstream.refl u).upperChange bk).toKeeps
  | lowerInputChange bk _ _ _ => exact ((Downstream.refl u).lowerChange bk).toKeeps
  | shortInputChange bk _ _ _ => exact ((Downstream.refl u).shortChange bk).toKeeps
  | _ => exact hc.elim

theorem effect_announced (hc : c.internal) (s u : State) : (c.effect s u).announced u.ctl.run := by
  have h := State.announced.refl u
  cases c with
  | crankEdge edge _ _ _ => exact h.crankArrives edge
  | markerEdge edge _ _ => exact h.markerArrives edge
  | stall _ => exact h.stallExpires
  | startExpiry sense _ => exact h.startExpires sense
  | slipDeadlineExpiry bk seq entry sense _ => exact h.deadlineExpires bk seq _ sense
  | headTimerExpiry bk sense _ => exact h.onTimer _ _ _ fun g => g.grantCheck bk
  | settleExpiry bk _ => exact h.settleExpires bk
  | capExpiry bk sense _ => exact h.onTimer _ _ _ fun g => g.endHolder bk _
  | durationExpiry bk sense _ => exact h.durationExpires bk sense
  | riseLimitExpiry bk sense _ => exact h.onTimer _ _ _ fun g => g.endPlayed bk _
  | freewheelExpiry bk sense _ => exact h.onTimer _ _ _ fun g => g.nextPhase bk
  | quenchExpiry bk sense _ => exact h.onTimer _ _ _ fun g => g.quenchEnd bk
  | upperInputChange bk _ _ _ => exact h.upperChange bk
  | lowerInputChange bk _ _ _ => exact h.lowerChange bk
  | shortInputChange bk _ _ _ => exact h.shortChange bk
  | _ => exact hc.elim

theorem moves_of_internal (hc : c.internal) : c.moves .stopping .ready := by
  cases c with
  | crankEdge | markerEdge | stall | startExpiry | slipDeadlineExpiry | headTimerExpiry | settleExpiry | capExpiry
  | durationExpiry | riseLimitExpiry | freewheelExpiry | quenchExpiry | upperInputChange | lowerInputChange
  | shortInputChange => exact ⟨rfl, rfl⟩
  | _ => exact hc.elim

/-! ## Requests -/

/-- A request taken, accepted or refused; in a part held in reset it is not taken (R128, R161). -/
theorem State.takeRequest_cases (s : State) (w : Word) (accepted : Bool) (effect : State → State) :
    s.takeRequest w accepted effect = s
      ∨ (accepted = true ∧ s.takeRequest w accepted effect = effect (s.answer w .accepted))
      ∨ s.takeRequest w accepted effect = s.answer w .refused := by
  unfold State.takeRequest
  split
  · exact .inl rfl
  · split
    · exact .inr (.inl ⟨‹_›, rfl⟩)
    · exact .inr (.inr rfl)

/-- A request obeys the rules where its effect does: the word and the result are its own (R128). -/
theorem Obeys.takeRequest (w : Word) (accepted : Bool) {effect : State → State}
    (he : accepted = true → ∀ v : State, v.ctl.run = s.ctl.run → Obeys c v (effect v)) (hc : c.requestWord? ≠ none) :
    Obeys c s (s.takeRequest w accepted effect) := by
  have answered : ∀ {q v}, Obeys c (s.answer w q) v → Obeys c s v := fun h => { h with request := fun hn => absurd hn hc }
  rcases s.takeRequest_cases w accepted effect with h | ⟨ha, h⟩ | h <;> rw [h]
  · exact .refl c s
  · exact answered (he ha _ rfl)
  · exact answered (.refl c _)

/-- What is to arrive awaits a request's effect. -/
theorem Memory.Awaits.takeRequest {l : List Arrival} (h : s.mem.Awaits l) (w : Word) (accepted : Bool) {effect : State → State}
    (he : ∀ v : State, v.mem.Awaits l → (effect v).mem.Awaits l) : (s.takeRequest w accepted effect).mem.Awaits l := by
  rcases s.takeRequest_cases w accepted effect with hq | ⟨-, hq⟩ | hq <;> rw [hq]
  · exact h
  · exact he _ h
  · exact h

/-- LOAD begins: the staging copy emptied, the tracker at rest, LOADING (R131). -/
theorem State.beginLoad_obeys {arg : Byte} {top : BitVec 4} {l : List Arrival} (h : s.ctl.run.takesLoad = true) :
    Obeys (.load arg top l) s s.beginLoad := by
  have hidle := (Keeps.refl (s.setSu { s.su with staging := [] })).idleTracker
  have hsteady : Steady s (s.setSu { s.su with staging := [] }).idleTracker := { hidle.steady with }
  refine (hsteady.changeRun .loading).obeys (fun _ => ⟨⟨?_, rfl⟩, State.changeRun_bit _ _⟩) fun _ _ => hidle.setup
  cases hr : s.ctl.run <;> simp_all [RunState.takesLoad]

theorem Memory.Awaits.beginLoad {l : List Arrival} (h : s.mem.Awaits l) : s.beginLoad.mem.Awaits l :=
  ((Keeps.refl (s.setSu { s.su with staging := [] })).idleTracker).awaits h

/-- RUN begins: the trim copied, RUNNING (R132). -/
theorem State.beginRun_obeys {arg : Byte} {top : BitVec 4} {l : List Arrival} (h : s.ctl.run = .ready) :
    Obeys (.run arg top l) s s.beginRun := by
  have hcopy := (Keeps.refl s).copyTrim
  have hsteady : Steady s (s.copyTrim.modLatch fun x => { x with entriesUnset := true }) := { hcopy.steady with }
  exact (hsteady.changeRun .running).obeys (fun _ => ⟨⟨h, rfl⟩, State.changeRun_bit _ _⟩) fun _ _ => hcopy.setup

theorem Memory.Awaits.beginRun {l : List Arrival} (h : s.mem.Awaits l) : s.beginRun.mem.Awaits l :=
  (Keeps.refl s).copyTrim.awaits h

theorem State.enterStop_down (m : StopMode) (hr : s.ctl.run = .stopping) : Downstream s (s.enterStop m) := by
  have h := Downstream.refl s
  cases m with
  | none => exact h
  | event => exact h.stopEvent hr
  | cut => exact h.stopCut hr
  | cycle =>
    simp only [State.enterStop]
    split
    · exact h.setStopMode hr (by decide)
    · exact h.stopEvent hr

theorem State.strengthenStop_down (m : StopMode) (hr : s.ctl.run = .stopping) : Downstream s (s.strengthenStop m) := by
  have h := Downstream.refl s
  unfold State.strengthenStop
  split
  · exact h.stopEvent hr
  · exact h.stopCut hr
  · exact h.stopCut hr
  · exact h

theorem State.strengthenStop_announced (m : StopMode) : (s.strengthenStop m).announced s.ctl.run := by
  have h := State.announced.refl s
  unfold State.strengthenStop
  split
  · exact h.stopEvent
  · exact h.stopCut
  · exact h.stopCut
  · exact h

/-- From RUNNING a STOP goes to STOPPING, which it may end at once (R133 to R136). -/
theorem State.enterStop_obeys {arg : Byte} {top : BitVec 4} {x : Time} {sense : Four BankSense} {l : List Arrival} (m : StopMode)
    (hr : s.ctl.run = .running) : Obeys (.stop arg top x sense l) s ((s.changeRun .stopping).enterStop m) := by
  have hd := State.enterStop_down (s := s.changeRun .stopping) m rfl
  refine (((Steady.refl s).changeRun .stopping).trans hd.steady).obeys
    (fun _ => ⟨.inl ⟨hr, ?_⟩, hd.toKeeps.bit (State.changeRun_bit .stopping s)⟩) fun _ _ => hd.setup
  rcases hd.ctl with ⟨h, -⟩ | ⟨-, h, -⟩
  · exact .inl h
  · exact .inr h

theorem State.stopBy_obeys {arg : Byte} {top : BitVec 4} {x : Time} {sense : Four BankSense} {l : List Arrival} (m : StopMode) :
    Obeys (.stop arg top x sense l) s (s.stopBy m) := by
  have hmoves : (Instr.stop arg top x sense l).moves .stopping .ready := .inr ⟨rfl, rfl⟩
  unfold State.stopBy
  split
  · split
    · exact s.truncateServices_down.toKeeps.obeys (State.announced.refl s).truncateServices hmoves
    · exact .refl _ s
  · exact State.enterStop_obeys m ‹_›
  · exact (State.strengthenStop_down m ‹_›).toKeeps.obeys (State.strengthenStop_announced m) hmoves
  · exact .refl _ s
  · exact .refl _ s

theorem Memory.Awaits.stopBy {l : List Arrival} (h : s.mem.Awaits l) (m : StopMode) : (s.stopBy m).mem.Awaits l := by
  unfold State.stopBy
  split
  · split
    · exact s.truncateServices_down.awaits h
    · exact h
  · exact (State.enterStop_down (s := s.changeRun .stopping) m rfl).awaits h
  · exact (State.strengthenStop_down m ‹_›).awaits h
  · exact h
  · exact h

theorem State.releaseCyl_keeps (k : CylId) (s : State) : Keeps s (s.releaseCyl k) :=
  (Downstream.statusAll ((cylStateWords_in _ _).append (faultWords_in _ _)) ((Downstream.refl s).setCyl _ _)).toKeeps

theorem State.releaseCyl_serves (k : CylId) (s : State) : Serves s (s.releaseCyl k) :=
  ⟨(s.releaseCyl_keeps k).steady, by rw [State.releaseCyl_eq], (s.releaseCyl_keeps k).setup⟩

theorem State.beginService_keeps (k : CylId) (profile : Nat) (sense : BankSense) (s : State) :
    Keeps s (s.beginService k profile sense) :=
  ((Keeps.refl s).see _ _).andThen ((Downstream.statusAll (serviceStartWords_in _)
    ((((Downstream.refl _).setBank _ _).setMode _ _).setService _)).engage _ _ _ _ _)

/-- An accepted SERVICE comes in READY, which nothing behind the tracker leaves (R141). -/
theorem State.beginService_serves (k : CylId) (profile : Nat) (sense : BankSense) (hr : s.ctl.run = .ready) :
    Serves s (s.beginService k profile sense) := by
  have hk := s.beginService_keeps k profile sense
  refine ⟨hk.steady, ?_, hk.setup⟩
  rcases hk.ctl with ⟨h, -⟩ | ⟨h, -⟩
  · exact h
  · simp [hr] at h

/-! ## The ends of a LOAD -/

/-- LOAD completion writes the whole status block, and changes nothing else but its owner (R153, R181). -/
theorem State.loadStatus_serves (s : State) : Serves s s.loadStatus := by
  unfold State.loadStatus State.showAll State.openStatus State.goLive
  rw [State.statusAll_eq, State.status_eq]
  exact { Serves.refl s with }

theorem Memory.Awaits.loadStatus {l : List Arrival} (h : s.mem.Awaits l) : s.loadStatus.mem.Awaits l := by
  have hopen : (s.setSb ⟨true, 0xFFFF, s.loadedService⟩).openStatus.mem.Awaits l := by
    rw [State.openStatus, State.status_eq, State.goLive, State.setMem_mem, State.setMem_mem]
    exact Memory.Awaits.goLive (h.mirror _ _)
  rw [State.loadStatus, State.showAll, State.statusAll_eq, State.setMem_mem]
  exact hopen.mirror _ _

theorem State.completeLoad_obeys {l : List Arrival} (st : List StagedByte) (h : s.ctl.run = .loading) :
    Obeys (.loadComplete l) s (s.completeLoad st) := by
  have hblocks : Steady s (s.loadBlocks (setupOf st)) := { Steady.refl s with }
  have hstatus := (hblocks.trans (Keeps.refl _).loadTrim.steady).trans (State.loadStatus_serves _).toSteady
  exact (hstatus.changeRun .ready).obeys (fun _ => ⟨⟨h, rfl⟩, State.changeRun_bit _ _⟩) fun hn => absurd rfl (hn l)

theorem State.loadPasses_obeys {l : List Arrival} : Obeys (.loadComplete l) s s.loadPasses := by
  unfold State.loadPasses
  split
  · split
    · exact State.completeLoad_obeys _ ‹_›
    · exact .refl _ s
  · exact .refl _ s

theorem Memory.Awaits.loadPasses {l : List Arrival} (h : s.mem.Awaits l) : s.loadPasses.mem.Awaits l := by
  unfold State.loadPasses
  split
  · split
    · have hblocks : (s.loadBlocks (setupOf s.stagedAll)).mem.Awaits l := h
      have hstatus := ((Keeps.refl _).loadTrim.awaits hblocks).loadStatus
      rw [State.completeLoad, State.changeRun, State.raise_mem, State.setCtl_mem]
      exact hstatus
    · exact h
  · exact h

theorem State.loadFails_obeys {l : List Arrival} : Obeys (.loadFail l) s s.loadFails := by
  unfold State.loadFails
  split
  · split
    · rename_i hr _ e _
      have hwritten : Steady s ((((s.setSu { s.su with setup := none, staging := [], error := e }).setTrk s.trk.idle).writeWord
        offSetupError (lowByte e.code)).writeWord offSetupErrorOffset e.offset) := { Steady.refl s with }
      exact (hwritten.changeRun .stopped).obeys (fun _ => ⟨⟨hr, rfl⟩, State.changeRun_bit _ _⟩) fun _ hn => absurd rfl (hn l)
    · exact .refl _ s
  · exact .refl _ s

theorem Memory.Awaits.loadFails {l : List Arrival} (h : s.mem.Awaits l) : s.loadFails.mem.Awaits l := by
  unfold State.loadFails
  split
  · split
    · exact ((h.turn.putPart _ _).turn.putPart _ _)
    · exact h
  · exact h

/-! ## Every command -/

/-- The effect of every command but the resets obeys its rules. -/
theorem effect_obeys (hc : ¬ c.isReset) (hu : u.ctl.run = s.ctl.run) : Obeys c u (c.effect s u) := by
  have hrun : ∀ v : State, v.ctl.run = u.ctl.run → v.ctl.run = s.ctl.run := fun _ h => h.trans hu
  by_cases hi : c.internal
  · exact (effect_keeps hi s u).obeys (effect_announced hi s u) (moves_of_internal hi)
  cases c with
  | load arg top l => exact .takeRequest _ _ (fun ha v hv => State.beginLoad_obeys (hrun v hv ▸ ha)) (Option.some_ne_none _)
  | loadComplete l => exact State.loadPasses_obeys
  | loadFail l => exact State.loadFails_obeys
  | run arg top l =>
    exact .takeRequest _ _ (fun ha v hv => State.beginRun_obeys ((hrun v hv).trans (beq_iff_eq.1 ha))) (Option.some_ne_none _)
  | stop arg top x sense l =>
    show Obeys _ u (u.takeStop arg top)
    unfold State.takeStop
    split
    · exact .takeRequest _ _ (fun _ _ _ => State.stopBy_obeys _) (Option.some_ne_none _)
    · exact .takeRequest _ _ nofun (Option.some_ne_none _)
  | inhibit arg top =>
    exact .takeRequest _ _ (fun _ v _ => { Obeys.refl _ v with inhibit := fun hn => absurd rfl (hn arg top) }) (Option.some_ne_none _)
  | release arg top l =>
    show Obeys _ u (u.takeRelease arg top)
    unfold State.takeRelease
    split
    · exact .takeRequest _ _ (fun _ v _ => (v.releaseCyl_serves _).obeys) (Option.some_ne_none _)
    · exact .takeRequest _ _ nofun (Option.some_ne_none _)
  | service arg top x sense l =>
    show Obeys _ u (u.takeService arg top sense)
    unfold State.takeService
    split
    · exact .takeRequest _ _ (fun ha v hv =>
        (State.beginService_serves _ _ _ (hv.trans (State.serviceAllowed_iff.1 ha).1)).obeys) (Option.some_ne_none _)
    · exact .takeRequest _ _ nofun (Option.some_ne_none _)
  | paritySense arg top =>
    exact .takeRequest _ _ (fun _ v _ => { Obeys.refl _ v with evenParity := fun hn => absurd rfl (hn arg top) }) (Option.some_ne_none _)
  | undefinedRequest code arg top => exact .takeRequest _ _ nofun (Option.some_ne_none _)
  | eventRead =>
    show Obeys _ u (u.takeRead State.readEvent)
    unfold State.takeRead
    split
    · exact { Obeys.refl _ u with }
    · split
      · exact .refl _ u
      · exact { Obeys.refl _ u with sticky := fun hn => absurd rfl hn, run := fun hn => absurd rfl hn }
  | eventMaskWrite m =>
    show Obeys _ u (u.takeWrite (State.setMask m))
    unfold State.takeWrite
    split
    · exact .refl _ u
    · exact { Obeys.refl _ u with mask := fun hn => absurd rfl (hn m) }
  | registerWriteIgnored reg data => exact .refl _ u
  | hostMemoryWrite addr data => exact (State.takeWrite_serves (State.hostWrite_serves addr data u)).obeys
  | hostMemoryRead addr => exact (State.takeRead_serves (State.hostRead_serves addr u)).obeys
  | powerOnResetEnd =>
    show Obeys _ u (if u.pins.powerOn then (u.setPins { u.pins with powerOn := false }).setNow 0 else u)
    split
    · exact { Obeys.refl _ u with pins := fun hn => absurd rfl hn }
    · exact .refl _ u
  | pinResetRelease => exact { Obeys.refl _ u with pins := fun _ hn => absurd rfl hn }
  | softReset arg top => exact absurd trivial hc
  | powerOnReset => exact absurd trivial hc
  | pinReset => exact absurd trivial hc
  | _ => exact absurd trivial hi

/-- What is to arrive awaits the effect of every command that makes accesses. -/
theorem effect_awaits (hc : c.during ≠ []) (s u : State) {l : List Arrival} (h : u.mem.Awaits l) :
    (c.effect s u).mem.Awaits l := by
  by_cases hi : c.internal
  · exact (effect_keeps hi s u).awaits h
  cases c with
  | load arg top _ => exact h.takeRequest _ _ fun _ g => g.beginLoad
  | loadComplete _ => exact h.loadPasses
  | loadFail _ => exact h.loadFails
  | run arg top _ => exact h.takeRequest _ _ fun _ g => g.beginRun
  | stop arg top x sense _ =>
    show (u.takeStop arg top).mem.Awaits l
    unfold State.takeStop
    split
    · exact h.takeRequest _ _ fun _ g => g.stopBy _
    · exact h.takeRequest _ _ fun _ g => g
  | release arg top _ =>
    show (u.takeRelease arg top).mem.Awaits l
    unfold State.takeRelease
    split
    · exact h.takeRequest _ _ fun v g => (v.releaseCyl_keeps _).awaits g
    · exact h.takeRequest _ _ fun _ g => g
  | service arg top x sense _ =>
    show (u.takeService arg top sense).mem.Awaits l
    unfold State.takeService
    split
    · exact h.takeRequest _ _ fun v g => (v.beginService_keeps _ _ _).awaits g
    · exact h.takeRequest _ _ fun _ g => g
  | _ => simp_all [Instr.internal, Instr.during]

/-- A command that makes accesses is no reset of its own. -/
theorem not_isReset_of_during (hc : c.during ≠ []) : ¬ c.isReset := by
  cases c <;> simp_all [Instr.isReset, Instr.during]

/-- A reset puts every block at its reset values, and leaves the queue, the tick count, the pins and the memory (R143). -/
theorem State.resetBlocks_eq (cause : ResetCause) (s : State) : s.resetBlocks cause =
    { State.reset with
      pending := s.pending, now := s.now, pins := s.pins, ctl := { State.reset.ctl with resetCause := cause }
      mem := s.mem, freeCount := s.freeCount } := by
  simp only [State.resetBlocks, State.setCtl, State.setEv, State.setSu, State.setTrk, State.setLatch, State.setCyls, State.setArm,
    State.setBanks, State.setFaultLimit, State.setSb]
  rfl

/-- SOFT_RESET is not taken by a part held in reset, and resets every block of any other (R144, R161). -/
theorem State.takeSoftReset_eq (arg : Byte) (top : BitVec 4) (s : State) :
    s.takeSoftReset arg top = if s.held then s else s.resetBlocks .soft := by
  unfold State.takeSoftReset State.takeRequest
  simp only [State.resetBlocks_eq, if_true]
  rfl

/-- The resets keep the queue, and leave STOPPED where they are taken (R143). -/
theorem effect_of_isReset (hc : c.isReset) (s u : State) :
    (c.effect s u).pending = u.pending ∧ (c.effect s u = u ∨ (c.effect s u).ctl.run = .stopped) := by
  cases c with
  | softReset arg top =>
    simp only [Instr.effect, State.takeSoftReset_eq, State.resetBlocks_eq]
    split
    · exact ⟨rfl, .inl rfl⟩
    · exact ⟨rfl, .inr rfl⟩
  | powerOnReset =>
    simp only [Instr.effect, State.resetBlocks_eq]
    exact ⟨rfl, .inr rfl⟩
  | pinReset =>
    simp only [Instr.effect, State.assertReset, State.resetBlocks_eq]
    exact ⟨rfl, .inr rfl⟩
  | _ => exact hc.elim

/-- Every command keeps the queue; and it obeys its rules, or it is a reset, or meets one, and leaves STOPPED. -/
theorem exec_outcome (h : exec c s = .next t) : t.pending = s.pending ∧ (Obeys c s t ∨ (c.resets ∧ t.ctl.run = .stopped)) := by
  obtain rfl := Host.Outcome.next.inj ((exec_eq c s).symm.trans h)
  have harrive := arrive_serves c s
  by_cases hc : c.isReset
  · have hnone : c.during = [] := by
      by_contra hd
      exact not_isReset_of_during hd hc
    rw [hnone, State.meanwhile_nil]
    obtain ⟨hpending, hout⟩ := effect_of_isReset hc s (c.arrive s)
    refine ⟨hpending.trans harrive.pending, ?_⟩
    rcases hout with hout | hout
    · rw [hout]
      exact .inl harrive.obeys
    · exact .inr ⟨hc.resets, hout⟩
  · obtain ⟨u, v, left, hu, hv, hend, served, hserved, -⟩ := State.meanwhile_left (effect := c.effect s) (c.arrive s)
      fun hd u => effect_awaits hd s u
    have hstart : Serves s u := by
      rcases hu with rfl | rfl
      · exact harrive
      · exact harrive.trans (State.openPort_serves _ _)
    have hobeys := effect_obeys hc hstart.run
    rw [hend]
    refine ⟨(State.foldl_afterwards_pending left v).trans (hv.pending.trans (hobeys.pending.trans hstart.pending)), ?_⟩
    rcases State.foldl_afterwards_cases left v with hleft | ⟨⟨x, hx, hreset⟩, hstopped⟩
    · exact .inl (hstart.obeys_serves hobeys (hv.trans hleft))
    · have hwhat : x.what ∈ c.during.map Arrival.what := by
        rw [hserved]
        exact List.mem_append_right _ (List.mem_map_of_mem hx)
      obtain ⟨y, hy, hyx⟩ := List.mem_map.1 hwhat
      exact .inr ⟨.inr (.inr (.inr ⟨y, hy, hyx ▸ hreset⟩)), hstopped⟩

/-! ## The obligations -/

/-- Settles O2: every command is a next state (`exec_eq`), and neither its effect nor an arrival touches the queue
(`exec_outcome`). -/
theorem everyCommandAnswersNext : Obligations.EveryCommandAnswersNext := fun c s =>
  ⟨_, exec_eq c s, (exec_outcome (exec_eq c s)).1⟩

/-- Settles O10: the rules of a command give its moves with RUN_STATE, and what is left are the resets. -/
theorem runStateMoves : Obligations.RunStateMoves := fun _ _ _ h hn => (exec_outcome h).2.imp_left fun hobeys => hobeys.run hn

/-- Settles O11: a command that neither is a reset nor meets one obeys its rules (`exec_outcome`). -/
theorem flagsAndSettingsKept : Obligations.FlagsAndSettingsKept := by
  intro c s t h hc
  have hobeys : Obeys c s t := (exec_outcome h).2.resolve_right fun hr => hc hr.1
  exact ⟨hobeys.sticky, hobeys.mask, hobeys.inhibit, hobeys.evenParity, hobeys.request, hobeys.resetCause, hobeys.setup⟩

end Sys2Proof.Machine

/-! # Resets, and the part held in reset

A reset that arrives during a command is what remains of it (R143, R173): every block stands at its reset values. A part held in reset
stays so (`Blank`): its timers do not run, no edge or write is taken, and a read leaves the data lines alone changed. -/

namespace Sys2Proof.Machine

variable {s t u : State} {c : Instr} {cause : ResetCause}

/-! ## A reset that arrives during a command -/

/-- Of arrivals that end in their only reset, the front part that has been served leaves that reset as the last. -/
theorem left_of_reset {pre left : List Arrival} {x : Arrival} {served : List Meanwhile}
    (h : (pre ++ [x]).map Arrival.what = served ++ left.map Arrival.what) (hserved : ∀ w ∈ served, resetArrives w = false)
    (hpre : ∀ w ∈ pre, resetArrives w.what = false) (hx : resetArrives x.what = true) :
    ∃ front y, left = front ++ [y] ∧ y.what = x.what ∧ ∀ w ∈ front, resetArrives w.what = false := by
  rw [List.map_append] at h
  rcases List.eq_nil_or_concat' left with rfl | ⟨front, y, rfl⟩
  · have hmem : x.what ∈ served := by
      rw [List.map_nil, List.append_nil] at h
      rw [← h]
      simp
    exact absurd (hserved _ hmem) (by simp [hx])
  · rw [List.map_append, ← List.append_assoc] at h
    obtain ⟨hfront, hlast⟩ := List.append_inj' h rfl
    refine ⟨front, y, rfl, (List.singleton_inj.1 hlast).symm, fun w hw => ?_⟩
    have hwhat : w.what ∈ pre.map Arrival.what := hfront ▸ List.mem_append_right _ (List.mem_map_of_mem hw)
    obtain ⟨z, hz, hzw⟩ := List.mem_map.1 hwhat
    exact hzw ▸ hpre z hz

/-- A command whose arrivals end in their only reset comes to that reset, in a state that has the queue and the reset pins as they
were. -/
theorem exec_reset_arrives {pre : List Arrival} {x : Arrival} (hd : c.during = pre ++ [x])
    (hpre : ∀ w ∈ pre, resetArrives w.what = false) (hx : resetArrives x.what = true) :
    ∃ (w : State) (y : Arrival), exec c s = .next (w.afterwards y) ∧ y.what = x.what ∧ w.pending = s.pending
      ∧ w.pins.powerOn = s.pins.powerOn ∧ w.pins.resetN = s.pins.resetN := by
  have hne : c.during ≠ [] := by simp [hd]
  have harrive := arrive_serves c s
  obtain ⟨u, v, left, hu, hv, hend, served, hserved, hreset⟩ := State.meanwhile_left (effect := c.effect s) (c.arrive s)
    fun hd u => effect_awaits hd s u
  have hstart : Serves s u := by
    rcases hu with rfl | rfl
    · exact harrive
    · exact harrive.trans (State.openPort_serves _ _)
  obtain ⟨front, y, rfl, hy, hfront⟩ := left_of_reset (hd ▸ hserved) hreset hpre hx
  have hobeys : Obeys c s (front.foldl State.afterwards v) :=
    hstart.obeys_serves (effect_obeys (not_isReset_of_during hne) hstart.run)
      (hv.trans (State.foldl_afterwards_serves front hfront v))
  obtain ⟨hpower, hresetN⟩ := hobeys.pins (by rintro rfl; exact hne rfl) (by rintro rfl; exact hne rfl)
  refine ⟨_, y, ?_, hy, hobeys.pending, hpower, hresetN⟩
  rw [exec_eq, hend, List.foldl_append]
  rfl

/-- Settles O13: what a command leaves when a reset arrives is that reset (`exec_reset_arrives`), and a reset leaves the queue, the
tick count, the pins and the memory (`State.resetBlocks_eq`). -/
theorem resetDuringCommand : Obligations.ResetDuringCommand := by
  intro c s pre x hd hh _ hpre
  refine ⟨fun arg top hx => ?_, fun hx => ?_⟩
  · obtain ⟨w, y, hexec, hy, hpending, hpower, hresetN⟩ := exec_reset_arrives (s := s) hd hpre (by rw [hx]; rfl)
    have hheld : w.held = false := by rw [State.held, hpower, hresetN]; exact hh
    have hw : w.afterwards y = w.resetBlocks .soft := by simp [State.afterwards, hy, hx, State.takeSoftReset_eq, hheld]
    rw [hw, State.resetBlocks_eq] at hexec
    exact ⟨_, hexec, hpower, hresetN, by rw [hpending]⟩
  · obtain ⟨w, y, hexec, hy, hpending, hpower, hresetN⟩ := exec_reset_arrives (s := s) hd hpre (by rw [hx]; rfl)
    have hheld : w.held = false := by rw [State.held, hpower, hresetN]; exact hh
    have hw : w.afterwards y = (w.resetBlocks .pin).setPins { w.pins with resetN := true } := by
      simp [State.afterwards, hy, hx, State.assertReset, State.pinCause, hheld]
    rw [hw, State.resetBlocks_eq] at hexec
    exact ⟨_, hexec, hpower, rfl, by rw [hpending]; rfl⟩

/-! ## A part at its reset values -/

/-- Every block of the part stands at its reset values (R143). -/
structure Blank (cause : ResetCause) (s : State) : Prop where
  ctl : s.ctl = .reset cause
  ev : s.ev = ⟨0, 0⟩
  su : s.su = .reset
  trk : s.trk = .reset
  latch : s.latch = .reset
  cyls : s.cyls = .fill .reset
  arm : s.arm = ⟨[], []⟩
  banks : s.banks = .fill .reset
  faultLimit : s.faultLimit = 0
  sb : s.sb = .reset

theorem State.resetBlocks_blank (cause : ResetCause) (s : State) : Blank cause (s.resetBlocks cause) := by
  rw [State.resetBlocks_eq]
  exact ⟨rfl, rfl, rfl, rfl, rfl, rfl, rfl, rfl, rfl, rfl⟩

/-- Resetting a part changes nothing exactly where it stands at its reset values. -/
theorem State.resetBlocks_eq_self_iff : s.resetBlocks cause = s ↔ Blank cause s := by
  refine ⟨fun h => h ▸ State.resetBlocks_blank cause s,
    fun ⟨hctl, hev, hsu, htrk, hlatch, hcyls, harm, hbanks, hlimit, hsb⟩ => ?_⟩
  rw [State.resetBlocks_eq]
  cases s
  subst hctl hev hsu htrk hlatch hcyls harm hbanks hlimit hsb
  rfl

theorem State.heldOk_iff : s.heldOk ↔ (s.held = true → ∃ cause, cause ≠ .soft ∧ Blank cause s) := by
  simp only [State.heldOk, State.resetBlocks_eq_self_iff]

theorem State.heldOk_of_not_held (h : s.held = false) : s.heldOk := fun hh => by simp [h] at hh

theorem Blank.setPins (h : Blank cause s) (x : Pins) : Blank cause (s.setPins x) := { h with }
theorem Blank.setNow (h : Blank cause s) (x : Time) : Blank cause (s.setNow x) := { h with }

theorem Blank.bank (h : Blank cause s) (bk : BankId) : s.bank bk = .reset := by
  rw [State.bank, h.banks]
  cases bk <;> rfl

theorem Blank.run (h : Blank cause s) : s.ctl.run = .stopped := by rw [h.ctl]; rfl

/-! ## A part held in reset takes no write -/

theorem State.takeRequest_held (hh : s.held = true) (w : Word) (accepted : Bool) (effect : State → State) :
    s.takeRequest w accepted effect = s := by simp [State.takeRequest, hh]

theorem State.takeStop_held (hh : s.held = true) (arg : Byte) (top : BitVec 4) : s.takeStop arg top = s := by
  unfold State.takeStop
  split <;> exact State.takeRequest_held hh _ _ _

theorem State.takeRelease_held (hh : s.held = true) (arg : Byte) (top : BitVec 4) : s.takeRelease arg top = s := by
  unfold State.takeRelease
  split <;> exact State.takeRequest_held hh _ _ _

theorem State.takeService_held (hh : s.held = true) (arg : Byte) (top : BitVec 4) (sense : BankSense) :
    s.takeService arg top sense = s := by
  unfold State.takeService
  split <;> exact State.takeRequest_held hh _ _ _

theorem State.takeWrite_held (hh : s.held = true) (effect : State → State) : s.takeWrite effect = s := by
  simp [State.takeWrite, hh]

/-- Its reads drive 0x0000, or are not taken (R161, R173). -/
theorem State.takeRead_held (hh : s.held = true) (effect : State → State) :
    s.takeRead effect = if s.pins.resetN then s.drive 0 else s := by
  unfold State.takeRead
  split
  · rfl
  · have hpower : s.pins.powerOn = true := by simp_all [State.held]
    simp [hpower]

theorem Blank.takeRead (h : Blank cause s) (hh : s.held = true) (effect : State → State) : Blank cause (s.takeRead effect) := by
  rw [State.takeRead_held hh]
  split
  · exact h.setPins _
  · exact h

/-! ## Commands in a part held in reset -/

/-- With no event, no timer and no player an edge, an expiry or an input change changes nothing. -/
theorem Blank.effect_internal (hc : c.internal) (h : Blank cause s) (hu : Blank cause u) : c.effect s u = u := by
  have hrest : u.ctl.run.tracks = false := by rw [hu.run]; rfl
  have hbank := fun bk => h.bank bk
  have hubank := fun bk => hu.bank bk
  cases c with
  | crankEdge edge _ _ _ => exact State.crankArrives_ignored (.inl hrest)
  | markerEdge edge _ _ => exact State.markerArrives_ignored (.inl hrest)
  | stall _ => simp [Instr.effect, State.stallExpires, hu.trk, Tracker.reset]
  | startExpiry sense _ => simp [Instr.effect, State.startExpires, hu.arm]
  | slipDeadlineExpiry bk seq entry sense _ =>
    simp [Instr.effect, State.deadlineExpires, hubank, Bank.waitingPulse, Bank.reset]
  | headTimerExpiry bk sense _ => simp [Instr.effect, State.onTimer, hbank, Bank.reset]
  | settleExpiry bk _ => simp [Instr.effect, State.settleExpires, hubank, Bank.settleTimer, Bank.reset]
  | capExpiry bk sense _ => simp [Instr.effect, State.onTimer, hbank, Bank.reset]
  | durationExpiry bk sense _ =>
    simp [Instr.effect, State.durationExpires, State.onTimer, hubank, Bank.durationTimer, Bank.reset]
  | riseLimitExpiry bk sense _ => simp [Instr.effect, State.onTimer, hbank, Bank.riseTimer, Bank.reset]
  | freewheelExpiry bk sense _ => simp [Instr.effect, State.onTimer, hbank, Bank.freewheelTimer, Bank.reset]
  | quenchExpiry bk sense _ => simp [Instr.effect, State.onTimer, hbank, Bank.quenchTimer, Bank.reset]
  | upperInputChange bk _ _ _ => simp [Instr.effect, State.upperChange, hubank, Bank.reset]
  | lowerInputChange bk _ _ _ => simp [Instr.effect, State.lowerChange, hubank, Bank.reset]
  | shortInputChange bk _ _ _ => simp [Instr.effect, State.shortChange, hubank, Bank.reset]
  | _ => exact hc.elim

/-- The effect of every command but the resets leaves a held part at its reset values. -/
theorem Blank.effect (hc : ¬ c.isReset) (hh : u.held = true) (h : Blank cause s) (hu : Blank cause u) :
    Blank cause (c.effect s u) := by
  by_cases hi : c.internal
  · rw [h.effect_internal hi hu]
    exact hu
  have same : ∀ {v : State}, v = u → Blank cause v := fun hv => hv ▸ hu
  have hload : u.ctl.run ≠ .loading := by simp [hu.run]
  cases c with
  | load arg top _ => exact same (State.takeRequest_held hh _ _ _)
  | loadComplete _ => exact same (if_neg hload)
  | loadFail _ => exact same (if_neg hload)
  | run arg top _ => exact same (State.takeRequest_held hh _ _ _)
  | stop arg top _ _ _ => exact same (State.takeStop_held hh arg top)
  | inhibit arg top => exact same (State.takeRequest_held hh _ _ _)
  | release arg top _ => exact same (State.takeRelease_held hh arg top)
  | service arg top _ sense _ => exact same (State.takeService_held hh arg top sense)
  | paritySense arg top => exact same (State.takeRequest_held hh _ _ _)
  | undefinedRequest code arg top => exact same (State.takeRequest_held hh _ _ _)
  | eventRead => exact hu.takeRead hh _
  | eventMaskWrite m => exact same (State.takeWrite_held hh _)
  | registerWriteIgnored reg data => exact hu
  | hostMemoryWrite addr data => exact same (State.takeWrite_held hh _)
  | hostMemoryRead addr => exact hu.takeRead hh _
  | powerOnResetEnd =>
    simp only [Instr.effect]
    split
    · exact (hu.setPins _).setNow _
    · exact hu
  | pinResetRelease => exact hu.setPins _
  | softReset arg top => exact absurd trivial hc
  | powerOnReset => exact absurd trivial hc
  | pinReset => exact absurd trivial hc
  | _ => exact absurd trivial hi

theorem Blank.arrive (h : Blank cause s) (c : Instr) : Blank cause (c.arrive s) := by cases c <;> exact { h with }

/-- RESET_N leaves the part at its reset values, with cause POWER where it was held by a power-on reset (R145). -/
theorem State.assertReset_heldOk (h : s.heldOk) : s.assertReset.heldOk := by
  refine State.heldOk_iff.2 fun _ => ⟨s.pinCause, ?_, (State.resetBlocks_blank s.pinCause s).setPins _⟩
  unfold State.pinCause
  split
  · rename_i hh
    obtain ⟨cause, hsoft, hblank⟩ := State.heldOk_iff.1 h hh
    rw [hblank.ctl]
    exact hsoft
  · decide

/-- SOFT_RESET is not taken by a held part, and holds none. -/
theorem State.takeSoftReset_heldOk (h : s.heldOk) (arg : Byte) (top : BitVec 4) : (s.takeSoftReset arg top).heldOk := by
  rw [State.takeSoftReset_eq]
  split
  · exact h
  · rename_i hh
    rw [State.resetBlocks_eq]
    exact State.heldOk_of_not_held (Bool.eq_false_iff.2 hh)

theorem State.heldOk.afterwards (h : s.heldOk) (x : Arrival) : (s.afterwards x).heldOk := by
  unfold State.afterwards
  cases hh : s.held with
  | false =>
    have served : ∀ {v : State}, Serves s v → v.heldOk := fun hv => State.heldOk_of_not_held (hv.held.trans hh)
    split
    · exact served (State.takeWrite_serves (State.hostWrite_serves _ _ s))
    · exact served (State.takeRead_serves (State.hostRead_serves _ s))
    · exact State.takeSoftReset_heldOk h _ _
    · exact State.assertReset_heldOk h
  | true =>
    obtain ⟨cause, hsoft, hblank⟩ := State.heldOk_iff.1 h hh
    split
    · rw [State.takeWrite_held hh]
      exact h
    · exact State.heldOk_iff.2 fun _ => ⟨cause, hsoft, hblank.takeRead hh _⟩
    · exact State.takeSoftReset_heldOk h _ _
    · exact State.assertReset_heldOk h

/-- No command but a reset puts the part in reset. -/
theorem effect_not_held (hc : ¬ c.isReset) (hu : u.ctl.run = s.ctl.run) (hh : u.held = false) : (c.effect s u).held = false := by
  by_cases hpower : c = .powerOnResetEnd
  · subst hpower
    simp only [Instr.effect]
    split
    · simp_all [State.held]
    · exact hh
  by_cases hpin : c = .pinResetRelease
  · subst hpin
    simp_all [Instr.effect, State.held]
  obtain ⟨hpower, hresetN⟩ := (effect_obeys hc hu).pins hpower hpin
  rw [State.held, hpower, hresetN]
  exact hh

/-- Every command keeps a held part at its reset values, whatever arrives among its accesses. -/
theorem exec_heldOk (h : s.heldOk) (he : exec c s = .next t) : t.heldOk := by
  obtain rfl := Host.Outcome.next.inj ((exec_eq c s).symm.trans he)
  by_cases hc : c.isReset
  · cases c with
    | softReset arg top => exact State.takeSoftReset_heldOk h arg top
    | powerOnReset =>
      refine State.heldOk_iff.2 fun _ => ⟨.power, by decide, ?_⟩
      exact { State.resetBlocks_blank .power s with }
    | pinReset => exact State.assertReset_heldOk h
    | _ => exact hc.elim
  have harrive := arrive_serves c s
  refine State.meanwhile_induct ?_ (fun hh v hv => ?_) fun _ x g => g.afterwards x
  · cases hh : s.held with
    | true =>
      obtain ⟨cause, hsoft, hblank⟩ := State.heldOk_iff.1 h hh
      exact State.heldOk_iff.2 fun _ => ⟨cause, hsoft, hblank.effect hc (harrive.held.trans hh) (hblank.arrive c)⟩
    | false => exact State.heldOk_of_not_held (effect_not_held hc harrive.run (harrive.held.trans hh))
  · have hstart := State.openPort_serves c.during (c.arrive s)
    have hv : v.held = false := hv ▸ effect_not_held hc (hstart.run.trans harrive.run) (hstart.held.trans hh)
    exact ⟨State.heldOk_of_not_held hv, fun p _ => State.heldOk_of_not_held ((State.closed_serves v p).held.trans hv)⟩

/-- Settles O6: the front command keeps a held part at its reset values (`exec_heldOk`), and a tick of the time base reaches none of
them. -/
theorem stepKeepsHeldReset : Obligations.StepKeepsHeldReset := by
  intro s t h ht
  unfold step at ht
  split at ht
  · rename_i c rest _
    have hq : (s.setPending rest).heldOk := State.heldOk_iff.2 fun hh =>
      have ⟨cause, hsoft, hblank⟩ := State.heldOk_iff.1 h hh
      ⟨cause, hsoft, { hblank with }⟩
    exact exec_heldOk hq ht
  · obtain rfl := Host.Outcome.next.inj ht
    exact State.heldOk_iff.2 fun hh =>
      have ⟨cause, hsoft, hblank⟩ := State.heldOk_iff.1 h hh
      ⟨cause, hsoft, { hblank with }⟩

end Sys2Proof.Machine

/-! # What resets leave, and what a held part does

The obligations on the reset commands (R143, R144, R145, R189) and on the accesses of a part held in reset (R161, R173). -/

namespace Sys2Proof.Machine

variable {s : State} {c : Instr}

/-! ## Resets -/

/-- Settles O60: each reset is `State.resetBlocks`, written out by `State.resetBlocks_eq`, with the change of the pins and of the
tick count that the command adds. -/
theorem resets : Obligations.Resets := by
  intro s z hz
  have hblocks : ∀ cause, s.resetBlocks cause = z cause := fun cause => by rw [hz, State.resetBlocks_eq]
  have hpin : ∀ cause, s.pinCause = cause →
      exec .pinReset s = .next { z cause with pins := { s.pins with resetN := true } } := by
    intro cause hcause
    rw [← hblocks, ← hcause]
    rfl
  refine ⟨fun arg top hh => ?_, ?_, fun hh => hpin _ ?_, fun hh => hpin _ ?_, fun hp => ?_, fun hp => ?_, rfl⟩
  · show Host.Outcome.next (s.takeSoftReset arg top) = _
    rw [State.takeSoftReset_eq, hh, ← hblocks]
    rfl
  · rw [← hblocks]
    rfl
  · simp [State.pinCause, hh]
  · simp [State.pinCause, hh]
  · show execPowerOnResetEnd s = _
    rw [execPowerOnResetEnd, if_pos hp]
    rfl
  · show execPowerOnResetEnd s = _
    rw [execPowerOnResetEnd, if_neg (by simp [hp])]

/-! ## A part held in reset -/

/-- A held part takes no request (R161). -/
theorem exec_request_held (hh : s.held = true) {w : Word} (hw : c.requestWord? = some w) (hd : c.during = [])
    (hstop : ∀ arg top t x, c ≠ .stop arg top t x []) (hservice : ∀ arg top t x, c ≠ .service arg top t x []) :
    exec c s = .next s := by
  have same : ∀ {v : State}, v = s → Host.Outcome.next v = (.next s : Host.Outcome State Fault Refusal) := fun h => h ▸ rfl
  cases c with
  | load arg top l =>
    obtain rfl : l = [] := hd
    exact same (State.takeRequest_held hh _ _ _)
  | run arg top l =>
    obtain rfl : l = [] := hd
    exact same (State.takeRequest_held hh _ _ _)
  | stop arg top t x l =>
    obtain rfl : l = [] := hd
    exact absurd rfl (hstop arg top t x)
  | inhibit arg top => exact same (State.takeRequest_held hh _ _ _)
  | release arg top l =>
    obtain rfl : l = [] := hd
    exact same (State.takeRelease_held hh arg top)
  | service arg top t x l =>
    obtain rfl : l = [] := hd
    exact absurd rfl (hservice arg top t x)
  | softReset arg top => exact same (State.takeRequest_held hh _ _ _)
  | paritySense arg top => exact same (State.takeRequest_held hh _ _ _)
  | undefinedRequest code arg top => exact same (State.takeRequest_held hh _ _ _)
  | _ => cases hw

/-- With no bank playing no gate is driven and every threshold code is 0. -/
theorem Blank.quietPins {cause : ResetCause} (h : Blank cause s) : s.quietPins := by
  have hidle : ∀ bk, (s.bank bk).channel = none := fun bk => by
    rw [h.bank]
    rfl
  refine ⟨fun bk => State.outputs_idle (hidle bk), fun k => Bool.eq_false_iff.2 fun hlow => ?_⟩
  obtain ⟨bk, p, hp, -⟩ := (State.lowSidePin_iff s k).1 hlow
  cases (hidle bk).symm.trans hp

/-- With no flag raised IRQ is not asserted (R178). -/
theorem Blank.irq {cause : ResetCause} (h : Blank cause s) : s.irq = false := by
  simp [State.irq, State.event, State.eventRaw, State.levelFlags, h.ev, h.latch, h.trk, Latch.reset, Tracker.reset]

/-- Settles O56: a held part takes no request and no write (`exec_request_held`, `State.takeWrite_held`), its reads are those of
`State.takeRead_held`, and where it stands at its reset values it drives nothing (`Blank.quietPins`, `Blank.irq`). -/
theorem heldPart : Obligations.HeldPart := by
  intro s hh
  refine ⟨fun c w => exec_request_held hh, fun arg top t x => ?_, fun arg top t x => ?_,
    fun m => congrArg _ (State.takeWrite_held hh _), fun addr data => congrArg _ (State.takeWrite_held hh _),
    fun hr => ⟨?_, fun addr => ?_, fun reg => ?_⟩, fun hr a => ?_, fun h => ?_⟩
  · exact congrArg _ (State.takeStop_held (s := (s.at t).seeAll x) hh arg top)
  · exact congrArg _ (State.takeService_held (s := s.at t) hh arg top x)
  · show Host.Outcome.next (s.takeRead _) = _
    rw [State.takeRead_held hh, if_pos hr]
    rfl
  · show Host.Outcome.next (s.takeRead _) = _
    rw [State.takeRead_held hh, if_pos hr]
    rfl
  · simp [BusAccess.returned, State.portTakes, BusAccess.read, hr]
  · have htakes : s.portTakes = false := by
      have hpower : s.pins.powerOn = true := by simp_all [State.held]
      simp [State.portTakes, hpower, hr]
    simp [BusAccess.returned, BusAccess.command, htakes]
  · obtain ⟨cause, -, hblank⟩ := State.heldOk_iff.1 h hh
    exact ⟨hblank.quietPins, hblank.irq⟩

end Sys2Proof.Machine

/-! # STOP under CYCLE and EVENT, and with nothing to do

An accepted STOP is `State.stopBy` on the state with the request answered (R128, R133); where the mode becomes EVENT the event table
is tested at once (R135). -/

namespace Sys2Proof.Machine

variable {s : State}

/-- STOP with a mode, in a run state with a setup, is taken (R128, R133). -/
theorem State.exec_stop {arg : Byte} {m : StopMode} (top : BitVec 4) (t : Time) (sense : Four BankSense) (hheld : s.held = false)
    (hl : s.ctl.run.isLoaded = true) (hm : stopModeOf arg = some m) : exec (.stop arg top t sense []) s =
      .next ((((s.at t).seeAll sense).answer (requestWord 3 arg top) .accepted).stopBy m) := by
  show Host.Outcome.next (State.takeStop arg top ((s.at t).seeAll sense)) = _
  unfold State.takeStop
  rw [hm]
  exact congrArg Host.Outcome.next (State.takeRequest_accepted (s := (s.at t).seeAll sense) hheld hl _ _)

/-- A change of the run state, with bit 11 of the sticky flags (R130). -/
theorem State.changeRun_eq (r : RunState) (s : State) : s.changeRun r =
    { s with ctl := { s.ctl with run := r }, ev := { s.ev with sticky := s.ev.sticky ||| 0x0800 } } := rfl

/-- Mode EVENT waits for the events in flight (R135). -/
theorem State.stopEvent_open (h : ¬ ∀ k, (s.cyl k).event = none) : s.stopEvent = s.setStopMode .event :=
  if_neg fun ⟨_, _, he⟩ => h ((s.setStopMode .event).tableEmpty_iff.1 he)

/-- With no event in flight mode EVENT ends in READY at once (R135). -/
theorem State.stopEvent_drained (hr : s.ctl.run = .stopping) (h : ∀ k, (s.cyl k).event = none) : s.stopEvent =
    { s with
      ctl := { s.ctl with run := .ready, stopMode := .none }, ev := { s.ev with sticky := s.ev.sticky ||| 0x0800 } } :=
  if_pos ⟨hr, rfl, (s.setStopMode .event).tableEmpty_iff.2 h⟩

/-- Mode EVENT, or CYCLE where firing is not possible, is mode EVENT at once (R133, R134). -/
theorem State.enterStop_event {m : StopMode} (h : m = .event ∨ (m = .cycle ∧ s.trk.canFire = false)) :
    s.enterStop m = s.stopEvent := by
  rcases h with rfl | ⟨rfl, hfire⟩
  · rfl
  · simp [State.enterStop, hfire]

/-- CYCLE gives way to EVENT (R137). -/
theorem State.strengthenStop_event (h : s.ctl.stopMode = .cycle) : s.strengthenStop .event = s.stopEvent := by
  unfold State.strengthenStop
  rw [h]

/-- A mode no stronger than the one in force changes nothing (R137). -/
theorem State.strengthenStop_weaker {m : StopMode} (h : m ≠ .none) (hs : (s.ctl.stopMode = .cycle ∧ m = .cycle)
    ∨ (s.ctl.stopMode = .event ∧ m ≠ .cut) ∨ s.ctl.stopMode = .cut) : s.strengthenStop m = s := by
  unfold State.strengthenStop
  rcases hs with ⟨hs, rfl⟩ | ⟨hs, hm⟩ | hs <;> rw [hs]
  cases m with
  | cut => exact absurd rfl hm
  | _ => rfl

/-- In READY a STOP leaves everything as it is, unless a CUT finds a service pulse (R124, R133). -/
theorem State.stopBy_ready {m : StopMode} (hr : s.ctl.run = .ready) (h : m = .cut → s.noService) : s.stopBy m = s := by
  rw [State.stopBy, hr]
  dsimp only
  split
  · exact State.truncateServices_of_noService (h ‹_›)
  · rfl

theorem State.stopBy_running (m : StopMode) (hr : s.ctl.run = .running) : s.stopBy m = (s.changeRun .stopping).enterStop m := by
  rw [State.stopBy, hr]

theorem State.stopBy_stopping (m : StopMode) (hr : s.ctl.run = .stopping) : s.stopBy m = s.strengthenStop m := by
  rw [State.stopBy, hr]

theorem Tracker.canFire_iff (x : Tracker) :
    x.canFire = true ↔ x.sync = .phased ∨ (x.sync = .crankSync ∧ x.phaseAssumed = true) := by simp [Tracker.canFire]

/-- Settles O53: STOP is `State.stopBy` (`State.exec_stop`), which in READY does nothing, in RUNNING enters STOPPING under the mode
taken, and in STOPPING takes only a stronger mode; mode EVENT is `State.stopEvent`, by whether the event table is empty. -/
theorem stopModes : Obligations.StopModes := by
  intro s z arg top t sense fires drained hheld hfires hdrained hz
  have hexec : ∀ m, s.ctl.run.isLoaded = true → stopModeOf arg = some m →
      exec (.stop arg top t sense []) s = .next (z.stopBy m) := fun m hl hm => hz ▸ State.exec_stop top t sense hheld hl hm
  have hrun : z.ctl.run = s.ctl.run := by rw [hz]; rfl
  have hmode : z.ctl.stopMode = s.ctl.stopMode := by rw [hz]; rfl
  have hev : z.ev = s.ev := by rw [hz]
  have hfire : z.trk.canFire = fires := by
    rw [hz, Bool.eq_iff_iff, Tracker.canFire_iff, hfires]
  have hdrained : drained ↔ ∀ k, (z.cyl k).event = none := by rw [hdrained, hz]; rfl
  refine ⟨fun hr harg => ?_, fun hr harg hf => ?_, fun hr harg => ?_, fun hr => ⟨fun hm harg => ?_, fun h => ?_⟩⟩
  · obtain ⟨m, hm, hcut⟩ : ∃ m, stopModeOf arg = some m ∧ (m = .cut → z.noService) := by
      rcases harg with rfl | rfl | ⟨rfl, hnone⟩
      · exact ⟨.event, rfl, nofun⟩
      · exact ⟨.cycle, rfl, nofun⟩
      · exact ⟨.cut, rfl, fun _ => hz ▸ hnone⟩
    rw [hexec m (hr ▸ rfl) hm, State.stopBy_ready (hrun.trans hr) hcut]
  · subst harg hf
    rw [hexec .cycle (hr ▸ rfl) rfl, State.stopBy_running _ (hrun.trans hr), State.changeRun_eq, hev]
    simp [State.enterStop, hfire, State.setStopMode, State.setCtl]
  · obtain ⟨m, hm, henter⟩ : ∃ m, stopModeOf arg = some m ∧ (m = .event ∨ (m = .cycle ∧ fires = false)) := by
      rcases harg with rfl | ⟨rfl, hf⟩
      · exact ⟨.event, rfl, .inl rfl⟩
      · exact ⟨.cycle, rfl, .inr ⟨rfl, hf⟩⟩
    have hstop : z.stopBy m = (z.changeRun .stopping).stopEvent := by
      rw [State.stopBy_running _ (hrun.trans hr)]
      exact State.enterStop_event (henter.imp_right fun h => ⟨h.1, hfire.trans h.2⟩)
    rw [hexec m (hr ▸ rfl) hm, hstop, hdrained]
    refine ⟨fun hopen => ?_, fun hnone => ?_⟩
    · rw [State.stopEvent_open (s := z.changeRun .stopping) hopen, State.changeRun_eq, hev]
      rfl
    · rw [State.stopEvent_drained (s := z.changeRun .stopping) rfl hnone, State.changeRun_eq, hev]
      simp [BitVec.or_assoc]
  · subst harg
    have hstop : z.stopBy .event = z.stopEvent :=
      (State.stopBy_stopping _ (hrun.trans hr)).trans (State.strengthenStop_event (hmode.trans hm))
    rw [hexec .event (hr ▸ rfl) rfl, hstop, hdrained]
    refine ⟨fun hopen => ?_, fun hnone => ?_⟩
    · rw [State.stopEvent_open hopen]
      rfl
    · rw [State.stopEvent_drained (hrun.trans hr) hnone, hev]
  · obtain ⟨m, hm, hweak⟩ : ∃ m, stopModeOf arg = some m ∧ z.strengthenStop m = z := by
      rcases h with ⟨hs, rfl⟩ | ⟨hs, rfl | rfl⟩ | ⟨hs, hle⟩
      · exact ⟨.cycle, rfl, State.strengthenStop_weaker nofun (.inl ⟨hmode.trans hs, rfl⟩)⟩
      · exact ⟨.event, rfl, State.strengthenStop_weaker nofun (.inr (.inl ⟨hmode.trans hs, nofun⟩))⟩
      · exact ⟨.cycle, rfl, State.strengthenStop_weaker nofun (.inr (.inl ⟨hmode.trans hs, nofun⟩))⟩
      · have hmodes : ∃ m, stopModeOf arg = some m ∧ m ≠ .none := by
          unfold stopModeOf
          interval_cases arg.toNat
          · exact ⟨.cut, rfl, nofun⟩
          · exact ⟨.event, rfl, nofun⟩
          · exact ⟨.cycle, rfl, nofun⟩
        obtain ⟨m, hm, hnone⟩ := hmodes
        exact ⟨m, hm, State.strengthenStop_weaker hnone (.inr (.inr (hmode.trans hs)))⟩
    rw [hexec m (hr ▸ rfl) hm, State.stopBy_stopping _ (hrun.trans hr), hweak]

end Sys2Proof.Machine

/-! # Registers and bus cycles

EVENT and IRQ against the raw flags and the mask (R176 to R180), and the command that each bus cycle is (R128, R161, R169). -/

namespace Sys2Proof.Machine

variable {s : State}

/-! ## Flags -/

/-- The raw flags, written out (R176, R177). -/
theorem State.eventRaw_eq (s : State) : s.eventRaw = ((s.ev.sticky &&& 0xFBFD) ||| (if s.latch.planLow then 0x0002 else 0)
    ||| (if s.trk.overspeedCut then 0x0400 else 0)) := (BitVec.or_assoc _ _ _).symm

/-! ## Bus cycles -/

theorem BusCycle.access_none {c : BusCycle} (h : c.cs = false ∨ c.rd = c.wr) : c.access = .noAccess :=
  if_pos (by simpa using h)

theorem BusCycle.access_read {c : BusCycle} (hcs : c.cs = true) (hrd : c.rd = true) (hwr : c.wr = false) :
    c.access = if c.rs then .registerRead (c.addr.extractLsb' 0 3) else .memoryRead c.addr := by
  simp [BusCycle.access, registerWord, hcs, hrd, hwr]

theorem BusCycle.access_write {c : BusCycle} (hcs : c.cs = true) (hrd : c.rd = false) (hwr : c.wr = true) :
    c.access = if c.rs then .registerWrite (c.addr.extractLsb' 0 3) c.data else .memoryWrite c.addr c.data := by
  simp [BusCycle.access, registerWord, hcs, hrd, hwr]

theorem State.portTakes_of_not_held (hh : s.held = false) : s.portTakes = true ∧ s.pins.resetN = false := by
  obtain ⟨hpower, hresetN⟩ := Bool.or_eq_false_iff.1 hh
  exact ⟨by simp [State.portTakes, hpower], hresetN⟩

/-- Out of reset a read access returns what it reads (R161). -/
theorem BusAccess.returned_of_not_held (hh : s.held = false) (x : BusAccess) : x.returned s = x.read s := by
  obtain ⟨htakes, hresetN⟩ := State.portTakes_of_not_held hh
  simp [BusAccess.returned, htakes, hresetN]

/-- Out of reset an access is the command of its row (R161). -/
theorem BusAccess.command_of_not_held (hh : s.held = false) (t : Time) (sense : Four BankSense) (l : List Arrival)
    (x : BusAccess) : x.command s t sense l = x.row s t sense l := if_pos (State.portTakes_of_not_held hh).1

/-! ## Requests -/

section
variable (code : BitVec 4) (arg : Byte) (top : BitVec 4)

@[simp] theorem requestCode_requestWord : requestCode (requestWord code arg top) = code := BitVec.extractLsb'_append_eq_right

@[simp] theorem requestArg_requestWord : requestArg (requestWord code arg top) = arg := by
  rw [requestArg, requestWord, BitVec.extractLsb'_append_eq_of_le (by decide)]
  exact BitVec.extractLsb'_append_eq_right

@[simp] theorem requestTop_requestWord : requestTop (requestWord code arg top) = top := by
  rw [requestTop, requestWord, BitVec.extractLsb'_append_eq_of_le (by decide)]
  exact BitVec.extractLsb'_append_eq_left

/-- The request that a REQUEST word is stores that word (R128). -/
theorem requestCommand_requestWord? (s : State) (t : Time) (sense : Four BankSense) (l : List Arrival) :
    (requestCommand s (requestWord code arg top) t sense l).requestWord? = some (requestWord code arg top) := by
  have hcode : ∀ n : BitVec 4, code.toNat = n.toNat → some (requestWord n arg top) = some (requestWord code arg top) :=
    fun n hn => by rw [BitVec.eq_of_toNat_eq hn]
  unfold requestCommand
  simp only [requestCode_requestWord, requestArg_requestWord, requestTop_requestWord]
  split
  next h => exact hcode 1 h
  next h => exact hcode 2 h
  next h => exact hcode 3 h
  next h => exact hcode 4 h
  next h => exact hcode 5 h
  next h => exact hcode 6 h
  next h => exact hcode 7 h
  next h => exact hcode 8 h
  next => rfl

/-- The codes that name no request (R128). -/
theorem requestCommand_undefined (s : State) (t : Time) (sense : Four BankSense) (l : List Arrival)
    (h : code = 0 ∨ 9 ≤ code.toNat) :
    requestCommand s (requestWord code arg top) t sense l = .undefinedRequest code arg top := by
  have hn : code.toNat = 0 ∨ 9 ≤ code.toNat := h.imp_left (congrArg BitVec.toNat)
  unfold requestCommand
  simp only [requestCode_requestWord, requestArg_requestWord, requestTop_requestWord]
  split
  case h_9 => rfl
  all_goals omega

/-- SERVICE carries the sense stage of the bank of the cylinder it names (R123). -/
theorem requestCommand_service (s : State) (t : Time) (sense : Four BankSense) (l : List Arrival) :
    ∃ x, requestCommand s (requestWord 6 arg top) t sense l = .service arg top t x l
      ∧ ∀ k : CylId, k.number = arg.toNat % 16 → x = sense.get (s.bankOf k) := by
  refine ⟨sense.get (s.bankOf ((CylId.fromNumber (serviceCyl arg)).getD .c1)), by simp [requestCommand], fun k hk => ?_⟩
  rw [serviceCyl, ← hk, CylId.fromNumber_number, Option.getD_some]

end

/-! ## The obligation -/

/-- Settles O58: EVENT and IRQ by `State.eventRaw_eq`, the bus cycles by the branches of `BusCycle.access` and `BusAccess.row`, and
the requests by the parts of a REQUEST word. -/
theorem registers : Obligations.Registers := by
  intro s raw v hraw hv
  have hraw : s.eventRaw = raw := s.eventRaw_eq.trans hraw.symm
  have hevent : s.event = v := by rw [State.event, hraw, hv]
  refine ⟨fun hh => ?_, ?_, fun reg data => ⟨rfl, fun c => ⟨BusCycle.access_none, BusCycle.access_read, BusCycle.access_write⟩,
    fun t sense l hh => ?_⟩⟩
  · have hreturned := fun reg => BusAccess.returned_of_not_held hh (.registerRead reg)
    obtain ⟨-, hresetN⟩ := State.portTakes_of_not_held hh
    have hpower : s.pins.powerOn = false := (Bool.or_eq_false_iff.1 hh).1
    refine ⟨?_, fun m => ?_, hreturned 0, hreturned 2, hevent ▸ hreturned 3, hraw ▸ hreturned 4, hreturned 5, hreturned 6,
      hreturned 7⟩
    · show Host.Outcome.next (s.takeRead State.readEvent) = _
      rw [State.takeRead, if_neg (by simp [hresetN]), if_neg (by simp [hpower]), ← hevent]
      rfl
    · exact congrArg Host.Outcome.next (if_neg (by simp [hh]))
  · simp [State.irq, hevent]
  · have hcommand := BusAccess.command_of_not_held hh t sense l
    refine ⟨hcommand _, fun addr => hcommand _, fun addr data => hcommand _, fun reg => hcommand _, fun reg data hreg => ?_,
      fun data arg top code hdata => ?_⟩
    · rw [hcommand, BusAccess.row, if_neg hreg]
      split <;> rfl
    · obtain rfl : data = requestWord code arg top := hdata
      refine ⟨_, hcommand _, requestCommand_requestWord? code arg top s t sense l, ?_, ?_, ?_, ?_, ?_, ?_, ?_, ?_,
        requestCommand_undefined code arg top s t sense l⟩
      all_goals rintro rfl
      case refine_6 => exact requestCommand_service arg top s t sense l
      all_goals simp [requestCommand]

end Sys2Proof.Machine
